-- ==== Sys2Proof/Word.lean ====
section
/-! DEFINITION. The word types of the machine (00 R1, R5) and their plainest arithmetic. -/

namespace Sys2Proof

/-- A 32-bit register value or instruction word. -/
abbrev Word := BitVec 32
/-- A 64-bit register pair. -/
abbrev DWord := BitVec 64
/-- The least addressable unit of memory. -/
abbrev Byte := BitVec 8
/-- A set of lanes: bit i stands for lane i (R5). -/
abbrev Mask := BitVec 32
/-- A 1024-bit signature (R277). -/
abbrev Sig := BitVec 1024
/-- A program counter: 55 bits, bits [1:0] clear (R32, R61). -/
abbrev Pc := BitVec 55

/-- The lanes of a group, ascending (R7). -/
def lanes : List Nat :=
  [0, 1, 2, 3, 4, 5, 6, 7, 8, 9, 10, 11, 12, 13, 14, 15,
   16, 17, 18, 19, 20, 21, 22, 23, 24, 25, 26, 27, 28, 29, 30, 31]

end Sys2Proof
end

