-- ==== Sys2Proof/Syntax.lean ====
section
/-! DEFINITION. The syntax of the machine: the field structures of the instruction formats (04 R62), the
hint words (04 R72 to R79), the operands of the device's own steps, and the ONE inductive of all rows of
the opcode table. -/

namespace Sys2Proof

/-- Format R: op [31:24], d [23:18], a [17:12], b [11:6], g [5:3], h [2:1], f [0] (R62). -/
structure RF where
  d : BitVec 6
  a : BitVec 6
  b : BitVec 6
  g : BitVec 3
  h : BitVec 2
  f : BitVec 1
  deriving DecidableEq, Repr

/-- Format I: op, d [23:18], a [17:12], imm12 [11:0] (R62). -/
structure IF where
  d : BitVec 6
  a : BitVec 6
  imm : BitVec 12
  deriving DecidableEq, Repr

/-- Format K: op, d [23:18], imm18 [17:0] (R62). -/
structure KF where
  d : BitVec 6
  imm : BitVec 18
  deriving DecidableEq, Repr

/-- Format B: op, g [23:21], n [20], off20 [19:0] (R62). -/
structure BF where
  g : BitVec 3
  n : BitVec 1
  off : BitVec 20
  deriving DecidableEq, Repr

/-- Format M: op, d [23:18], a [17:12], x [11:9], g [8:6], o [5:4], i [3], sc [2:0] (R62). -/
structure MF where
  d : BitVec 6
  a : BitVec 6
  x : BitVec 3
  g : BitVec 3
  o : BitVec 2
  i : BitVec 1
  sc : BitVec 3
  deriving DecidableEq, Repr

/-- Format E: op, d [23:18], a [17:12], b [11:6], m [5:0] (R62). -/
structure EF where
  d : BitVec 6
  a : BitVec 6
  b : BitVec 6
  m : BitVec 6
  deriving DecidableEq, Repr

/-- The payloads of the hint words that stand before an instruction, at most one of each kind (R72). -/
structure Hints where
  ximm : Option (BitVec 24) := none
  xsrc : Option (BitVec 24) := none
  xrnd : Option (BitVec 24) := none
  xsch : Option (BitVec 24) := none
  xrcv : Option (BitVec 24) := none
  deriving DecidableEq, Repr

/-- A core of the package: die 0 to 3, cluster 0 to 2, core 0 to 255 (R13). -/
structure CoreId where
  die : Nat
  cluster : Nat
  core : Nat
  deriving DecidableEq, Repr

/-- A group, by the number of its block in the state and its index in the block. -/
structure GRef where
  blk : Nat
  grp : Nat
  deriving DecidableEq, Repr

/-- A split: its group and its entry 0 to 3 of the split table (R32). -/
structure SRef where
  blk : Nat
  grp : Nat
  sp : Nat
  deriving DecidableEq, Repr

/-- The group of a split. -/
def SRef.gref (r : SRef) : GRef := { blk := r.blk, grp := r.grp }

/-- The target of one range of the address map (R435). -/
inductive MapTarget where
  | hbm (stack : Nat)
  | cxl (port : Nat)
  | host
  deriving DecidableEq, Repr

/-- One range of the address map (R435); `rolger` marks Rolger's HBM reservation (R22, R422 item 11). -/
structure MapRange where
  base : Nat
  size : Nat
  target : MapTarget
  rolger : Bool
  deriving DecidableEq, Repr

/-- One entry of a command queue: the queue it stands in and its 64 bytes (R419). -/
structure CmdEntry where
  queue : Nat
  bytes : List Byte
  deriving DecidableEq, Repr

/-- The operation of an atomic (R244, R245). -/
inductive AmoOp where
  | add32 | add64 | faddF32 | faddBh2 | minS32 | minN32 | maxS32 | maxN32
  | and32 | or32 | xor32 | xchg32 | xchg64 | cas32 | cas64 | incN32
  deriving DecidableEq, Repr

/-- Who sends an access to a home slice: another die, another package over the outer links, or the host
(R275, R309, R310). -/
inductive HomeSrc where
  | die (d : Nat)
  /-- another package, and the die of this package whose copy engine lands the bytes, where a copy queue sent them (R406) -/
  | outer (dev recv : Nat)
  | host
  deriving DecidableEq, Repr

/-- What an access that reaches a home slice asks for (R264, R275, R280). -/
inductive HomeKind where
  | fetch
  | strongLoad (n : Nat)
  | strongStore (data : List Byte)
  | atomic (op : AmoOp) (operand compare : BitVec 64)
  | masked (data : List Byte)
  | rwb (data : List Byte) (mask : BitVec 128)
  deriving DecidableEq, Repr

/-- An access that another die, another package or the host has sent to a home slice; `sig` is the
signature it carries (R273, R278), `cc` the class of the page through which its sender reached the line, and `grp` the
group whose atomic a die sends (R428). -/
structure HomeReq where
  src : HomeSrc
  pa : Nat
  cc : Nat
  kind : HomeKind
  sig : Option (BitVec 1024)
  grp : Option GRef := none
  deriving DecidableEq, Repr

/-- Every row of spec/opcode_table.json: the 238 encoded instructions with their format's fields, and the
72 steps that have no encoding with the operands that say which group, line, die or record they act on. -/
inductive Instr where
  /-- IADD_32 (R131): Writes (A + B) mod 2^32 for each participating lane, or once on the scalar pipe. -/
  | iadd32 (x : RF)
  /-- IADD_64 (R131): Writes (A + B) mod 2^64 into a register pair. -/
  | iadd64 (x : RF)
  /-- ISUB_32 (R131): Writes (A - B) mod 2^32. -/
  | isub32 (x : RF)
  /-- ISUB_64 (R131): Writes (A - B) mod 2^64 into a register pair. -/
  | isub64 (x : RF)
  /-- IADDC_32 (R132): Adds with the carry in k7 and writes the carry out to k7. -/
  | iaddc32 (x : RF)
  /-- ISUBB_32 (R132): Subtracts with the borrow in k7 and writes the borrow out to k7. -/
  | isubb32 (x : RF)
  /-- IMUL_32 (R131): Writes the low 32 bits of A times B. -/
  | imul32 (x : RF)
  /-- IMUL_64 (R131): Writes the low 64 bits of A times B. -/
  | imul64 (x : RF)
  /-- IMULH_S32 (R131): Writes bits [63:32] of the signed product. -/
  | imulhS32 (x : RF)
  /-- IMULH_N32 (R131): Writes bits [63:32] of the unsigned product. -/
  | imulhN32 (x : RF)
  /-- IMAD_32 (R131): Writes (A x B + D) mod 2^32, reading d as third source. -/
  | imad32 (x : RF)
  /-- IMAD_64 (R131): Writes (A x B + D) mod 2^64 into a pair. -/
  | imad64 (x : RF)
  /-- IMIN_S32 (R131): Writes the signed lesser of A and B. -/
  | iminS32 (x : RF)
  /-- IMIN_N32 (R131): Writes the unsigned lesser of A and B. -/
  | iminN32 (x : RF)
  /-- IMAX_S32 (R131): Writes the signed greater of A and B. -/
  | imaxS32 (x : RF)
  /-- IMAX_N32 (R131): Writes the unsigned greater of A and B. -/
  | imaxN32 (x : RF)
  /-- IABS (R131): Writes the signed absolute value of A mod 2^32. -/
  | iabs (x : RF)
  /-- INEG (R131): Writes (0 - A) mod 2^32. -/
  | ineg (x : RF)
  /-- AND (R133): Writes A and B. -/
  | andW (x : RF)
  /-- OR (R133): Writes A or B. -/
  | orW (x : RF)
  /-- XOR (R133): Writes A xor B. -/
  | xorW (x : RF)
  /-- ANDN (R133): Writes A and not B. -/
  | andn (x : RF)
  /-- ORN (R133): Writes A or not B. -/
  | orn (x : RF)
  /-- NOT (R133): Writes not A. -/
  | notW (x : RF)
  /-- SHL_32 (R133): Shifts A left by B[4:0]. -/
  | shl32 (x : RF)
  /-- SHR_32 (R133): Shifts A right with zero fill by B[4:0]. -/
  | shr32 (x : RF)
  /-- SAR_32 (R133): Shifts A right with sign fill by B[4:0]. -/
  | sar32 (x : RF)
  /-- ROL_32 (R133): Rotates A left by B[4:0]. -/
  | rol32 (x : RF)
  /-- SHL_64 (R133): Shifts a 64-bit pair left by B[5:0]. -/
  | shl64 (x : RF)
  /-- SHR_64 (R133): Shifts a 64-bit pair right with zero fill. -/
  | shr64 (x : RF)
  /-- SAR_64 (R133): Shifts a 64-bit pair right with sign fill. -/
  | sar64 (x : RF)
  /-- FSH (R134): Funnel-shifts A:B right by the amount in d and writes d. -/
  | fsh (x : RF)
  /-- POPC (R133): Writes the number of 1 bits of A. -/
  | popc (x : RF)
  /-- CLZ (R133): Writes the number of leading zero bits of A. -/
  | clz (x : RF)
  /-- CTZ (R133): Writes the number of trailing zero bits of A. -/
  | ctz (x : RF)
  /-- BREV (R133): Writes A with its bits reversed. -/
  | brev (x : RF)
  /-- BFX_S (R135): Extracts a sign-extended bit field of A at the position and length in B. -/
  | bfxS (x : RF)
  /-- BFX_N (R135): Extracts a zero-extended bit field of A. -/
  | bfxN (x : RF)
  /-- BFI (R135): Inserts a bit field of A into d. -/
  | bfi (x : RF)
  /-- BPERM (R136): Builds a word from bytes of B:A selected by nibbles of D. -/
  | bperm (x : RF)
  /-- SEL (R137): Writes A where the selector predicate holds and B elsewhere, in every active lane. -/
  | sel (x : RF)
  /-- ICMP_32 (R138): Compares 32-bit A and B under a condition and writes a predicate. -/
  | icmp32 (x : RF)
  /-- ICMP_64 (R138): Compares 64-bit pairs under a condition and writes a predicate. -/
  | icmp64 (x : RF)
  /-- KOP (R139): Combines two predicates by one of eight operations. -/
  | kop (x : RF)
  /-- KMOV_KV (R140): Writes a predicate from a v register or from an s lane mask. -/
  | kmovKv (x : RF)
  /-- KMOV_VK (R141): Writes a v register or an s mask from a predicate. -/
  | kmovVk (x : RF)
  /-- MOV (R142): Copies A to d. -/
  | mov (x : RF)
  /-- MOV_64 (R142): Copies a register pair. -/
  | mov64 (x : RF)
  /-- IADDI_32 (R143): Adds an immediate mod 2^32. -/
  | iaddi32 (x : IF)
  /-- IADDI_64 (R143): Adds a sign-extended immediate to a pair mod 2^64. -/
  | iaddi64 (x : IF)
  /-- ANDI (R143): Ands A with a zero-extended immediate. -/
  | andi (x : IF)
  /-- ORI (R143): Ors A with a zero-extended immediate. -/
  | ori (x : IF)
  /-- XORI (R143): Xors A with a zero-extended immediate. -/
  | xori (x : IF)
  /-- SHLI (R143): Shifts A left by an immediate 0-31. -/
  | shli (x : IF)
  /-- SHRI (R143): Shifts A right with zero fill by an immediate. -/
  | shri (x : IF)
  /-- SARI (R143): Shifts A right with sign fill by an immediate. -/
  | sari (x : IF)
  /-- ICMPI_32 (R138): Compares A with an immediate and writes a predicate. -/
  | icmpi32 (x : IF)
  /-- IMULI_32 (R143): Multiplies A by an immediate mod 2^32. -/
  | imuli32 (x : IF)
  /-- LEA2 (R144): Writes (A + B x 2) mod 2^32. -/
  | lea2 (x : RF)
  /-- LEA4 (R144): Writes (A + B x 4) mod 2^32. -/
  | lea4 (x : RF)
  /-- LEA8 (R144): Writes (A + B x 8) mod 2^32. -/
  | lea8 (x : RF)
  /-- LEA16 (R144): Writes (A + B x 16) mod 2^32. -/
  | lea16 (x : RF)
  /-- MOVI (R145): Writes a sign-extended 18-bit immediate, or a 32-bit value under XIMM. -/
  | movi (x : KF)
  /-- MOVHI (R145): Writes an immediate into bits [31:14] of d, or under XIMM the odd register of a pair. -/
  | movhi (x : KF)
  /-- FADD_F64 (R157): Adds FP64 operands with one rounding. -/
  | faddF64 (x : RF)
  /-- FADD_F32 (R157): Adds FP32 operands with one rounding. -/
  | faddF32 (x : RF)
  /-- FADD_H2 (R157): Adds two FP16 elements per lane. -/
  | faddH2 (x : RF)
  /-- FADD_BH2 (R157): Adds two BF16 elements per lane. -/
  | faddBh2 (x : RF)
  /-- FSUB_F64 (R157): Subtracts FP64 operands. -/
  | fsubF64 (x : RF)
  /-- FSUB_F32 (R157): Subtracts FP32 operands. -/
  | fsubF32 (x : RF)
  /-- FSUB_H2 (R157): Subtracts FP16 element pairs. -/
  | fsubH2 (x : RF)
  /-- FSUB_BH2 (R157): Subtracts BF16 element pairs. -/
  | fsubBh2 (x : RF)
  /-- FMUL_F64 (R157): Multiplies FP64 operands. -/
  | fmulF64 (x : RF)
  /-- FMUL_F32 (R157): Multiplies FP32 operands. -/
  | fmulF32 (x : RF)
  /-- FMUL_H2 (R157): Multiplies FP16 element pairs. -/
  | fmulH2 (x : RF)
  /-- FMUL_BH2 (R157): Multiplies BF16 element pairs. -/
  | fmulBh2 (x : RF)
  /-- FFMA_F64 (R158): Fused multiply-add in FP64 with one rounding. -/
  | ffmaF64 (x : RF)
  /-- FFMA_F32 (R158): Fused multiply-add in FP32 with one rounding. -/
  | ffmaF32 (x : RF)
  /-- FFMA_H2 (R158): Fused multiply-add on FP16 element pairs. -/
  | ffmaH2 (x : RF)
  /-- FFMA_BH2 (R158): Fused multiply-add on BF16 element pairs. -/
  | ffmaBh2 (x : RF)
  /-- FMIN_F64 (R159): IEEE minimum of FP64 operands. -/
  | fminF64 (x : RF)
  /-- FMIN_F32 (R159): IEEE minimum of FP32 operands. -/
  | fminF32 (x : RF)
  /-- FMIN_H2 (R159): IEEE minimum of FP16 element pairs. -/
  | fminH2 (x : RF)
  /-- FMIN_BH2 (R159): IEEE minimum of BF16 element pairs. -/
  | fminBh2 (x : RF)
  /-- FMAX_F64 (R159): IEEE maximum of FP64 operands. -/
  | fmaxF64 (x : RF)
  /-- FMAX_F32 (R159): IEEE maximum of FP32 operands. -/
  | fmaxF32 (x : RF)
  /-- FMAX_H2 (R159): IEEE maximum of FP16 element pairs. -/
  | fmaxH2 (x : RF)
  /-- FMAX_BH2 (R159): IEEE maximum of BF16 element pairs. -/
  | fmaxBh2 (x : RF)
  /-- FMINN_F64 (R159): minimumNumber of FP64 operands. -/
  | fminnF64 (x : RF)
  /-- FMINN_F32 (R159): minimumNumber of FP32 operands. -/
  | fminnF32 (x : RF)
  /-- FMINN_H2 (R159): minimumNumber of FP16 element pairs. -/
  | fminnH2 (x : RF)
  /-- FMINN_BH2 (R159): minimumNumber of BF16 element pairs. -/
  | fminnBh2 (x : RF)
  /-- FMAXN_F64 (R159): maximumNumber of FP64 operands. -/
  | fmaxnF64 (x : RF)
  /-- FMAXN_F32 (R159): maximumNumber of FP32 operands. -/
  | fmaxnF32 (x : RF)
  /-- FMAXN_H2 (R159): maximumNumber of FP16 element pairs. -/
  | fmaxnH2 (x : RF)
  /-- FMAXN_BH2 (R159): maximumNumber of BF16 element pairs. -/
  | fmaxnBh2 (x : RF)
  /-- FCMP_F64 (R160): Compares FP64 operands and writes a predicate. -/
  | fcmpF64 (x : RF)
  /-- FCMP_F32 (R160): Compares FP32 operands and writes a predicate. -/
  | fcmpF32 (x : RF)
  /-- FCMP_H2 (R160): Compares FP16 element pairs into two predicates. -/
  | fcmpH2 (x : RF)
  /-- FCMP_BH2 (R160): Compares BF16 element pairs into two predicates. -/
  | fcmpBh2 (x : RF)
  /-- FABS (R161): Clears the sign bit of each element of the type in b. -/
  | fabs (x : RF)
  /-- FNEG (R161): Flips the sign bit of each element of the type in b. -/
  | fneg (x : RF)
  /-- FCPYS_F32 (R162): Delivers the magnitude of A with the sign of B in FP32. -/
  | fcpysF32 (x : RF)
  /-- FCPYS_F64 (R162): Delivers the magnitude of A with the sign of B in FP64. -/
  | fcpysF64 (x : RF)
  /-- FCLASS (R163): Writes a class mask for each element of A. -/
  | fclass (x : RF)
  /-- FRND (R164): Rounds A to an integral value in its own type under the mode in b. -/
  | frnd (x : RF)
  /-- FDIV_F32 (R165): Correctly rounded FP32 division. -/
  | fdivF32 (x : RF)
  /-- FDIV_F64 (R165): Correctly rounded FP64 division. -/
  | fdivF64 (x : RF)
  /-- FSQRT_F32 (R165): Correctly rounded FP32 square root. -/
  | fsqrtF32 (x : RF)
  /-- FSQRT_F64 (R165): Correctly rounded FP64 square root. -/
  | fsqrtF64 (x : RF)
  /-- FRCP_F32 (R166): Approximate FP32 reciprocal within 1 ulp. -/
  | frcpF32 (x : RF)
  /-- FRSQ_F32 (R166): Approximate FP32 reciprocal square root. -/
  | frsqF32 (x : RF)
  /-- FEX2_F32 (R166): Approximate FP32 base-2 exponential. -/
  | fex2F32 (x : RF)
  /-- FLG2_F32 (R166): Approximate FP32 base-2 logarithm. -/
  | flg2F32 (x : RF)
  /-- FSIN_F32 (R166): Approximate FP32 sine. -/
  | fsinF32 (x : RF)
  /-- FCOS_F32 (R166): Approximate FP32 cosine. -/
  | fcosF32 (x : RF)
  /-- FLDX_F32 (R168): Scales FP32 A by 2^B with one rounding. -/
  | fldxF32 (x : RF)
  /-- FLDX_F64 (R168): Scales FP64 A by 2^B with one rounding. -/
  | fldxF64 (x : RF)
  /-- FFRX_F32_FRAC (R169): Writes the fraction of FP32 A. -/
  | ffrxF32Frac (x : RF)
  /-- FFRX_F32_EXP (R169): Writes the exponent of FP32 A as an integer. -/
  | ffrxF32Exp (x : RF)
  /-- FFRX_F64_FRAC (R169): Writes the fraction of FP64 A. -/
  | ffrxF64Frac (x : RF)
  /-- FFRX_F64_EXP (R169): Writes the exponent of FP64 A as an integer. -/
  | ffrxF64Exp (x : RF)
  /-- CVTFF (R172): Converts between float types, rounding once. -/
  | cvtff (x : RF)
  /-- CVTFI (R173): Converts a float to an integer type with saturation. -/
  | cvtfi (x : RF)
  /-- CVTIF (R174): Converts an integer to a float type. -/
  | cvtif (x : RF)
  /-- PK8 (R175): Converts A into a binary8 code and writes it into one byte of d. -/
  | pk8 (x : RF)
  /-- UNPK8 (R176): Decodes one binary8 or INT8 byte of A. -/
  | unpk8 (x : RF)
  /-- PKBS (R177): Packs A under a block scale into one byte of d. -/
  | pkbs (x : RF)
  /-- FDOT2_H2 (R178): Two-element FP16 dot product plus FP32 addend, rounded once. -/
  | fdot2H2 (x : RF)
  /-- FDOT2_BH2 (R178): Two-element BF16 dot product plus FP32 addend, rounded once. -/
  | fdot2Bh2 (x : RF)
  /-- SHFL_IDX (R147): Copies V[a] from an indexed lane of the segment. -/
  | shflIdx (x : RF)
  /-- SHFL_UP (R147): Copies V[a] from the lane a distance below, wrapping in the segment. -/
  | shflUp (x : RF)
  /-- SHFL_DOWN (R147): Copies V[a] from the lane a distance above, wrapping in the segment. -/
  | shflDown (x : RF)
  /-- SHFL_XOR (R147): Copies V[a] from lane L xor mask within the segment. -/
  | shflXor (x : RF)
  /-- VOTE_ALL (R148): Writes true when the predicate holds in every voter. -/
  | voteAll (x : RF)
  /-- VOTE_ANY (R148): Writes true when the predicate holds in some voter. -/
  | voteAny (x : RF)
  /-- VOTE_EQ (R148): Writes true when the predicate is equal across voters. -/
  | voteEq (x : RF)
  /-- VOTE_BALLOT (R148): Writes an s register mask of voters where the predicate holds. -/
  | voteBallot (x : RF)
  /-- REDUX (R149): Reduces a value over contributing lanes into an s register. -/
  | redux (x : RF)
  /-- MATCH (R150): Writes per lane the mask of lanes holding an equal value. -/
  | matchSet (x : RF)
  /-- MATCH_LEAD (R150): Writes per lane the leader and count of lanes holding an equal value. -/
  | matchLead (x : RF)
  /-- LANEB (R151): Writes an s register from V[a] of one lane chosen by an s register. -/
  | laneb (x : RF)
  /-- BRA (R182): Relative branch that may divide or serialize the split. -/
  | bra (x : BF)
  /-- BRAU (R183): Relative branch that never divides and traps if its condition is not uniform. -/
  | brau (x : BF)
  /-- BRX (R187): Branches each lane to its register target, dividing into up to four splits. -/
  | brx (x : RF)
  /-- CALL (R185): Relative branch that writes the return address into v47 of taken lanes. -/
  | call (x : BF)
  /-- CALLX (R188): Register branch that writes the return address into v47. -/
  | callx (x : RF)
  /-- RET (R189): Branches each lane to the address in v47. -/
  | ret (x : RF)
  /-- BDEC (R184): Decrements an s counter and branches while it is not zero. -/
  | bdec (x : BF)
  /-- YIELD (R190): Blocking point met at once; the group stands behind other ready groups. -/
  | yield (x : RF)
  /-- EXIT (R191): Ends the participating lanes, and the group when no lane lives. -/
  | exit (x : RF)
  /-- NOP (R192): Occupies one issue cycle on port M. -/
  | nop (x : RF)
  /-- TRAP (R193): Raises SOFT for the split with the number m, after the instruction. -/
  | trap (x : EF)
  /-- BRK (R194): Raises BREAK to the debug agent or the domain handler. -/
  | brk (x : EF)
  /-- LD_8S (R234): Loads one byte sign-extended per lane. -/
  | ld8s (x : MF)
  /-- LD_8N (R234): Loads one byte zero-extended per lane. -/
  | ld8n (x : MF)
  /-- LD_16S (R234): Loads two bytes sign-extended per lane. -/
  | ld16s (x : MF)
  /-- LD_16N (R234): Loads two bytes zero-extended per lane. -/
  | ld16n (x : MF)
  /-- LD_32 (R234): Loads four bytes per lane, marking the destination empty until the data arrives. -/
  | ld32 (x : MF)
  /-- LD_64 (R234): Loads eight bytes per lane into a pair. -/
  | ld64 (x : MF)
  /-- LD_128 (R234): Loads sixteen bytes per lane into four registers. -/
  | ld128 (x : MF)
  /-- ST_8 (R234): Stores one byte per lane in ascending lane order. -/
  | st8 (x : MF)
  /-- ST_16 (R234): Stores two bytes per lane. -/
  | st16 (x : MF)
  /-- ST_32 (R234): Stores four bytes per lane. -/
  | st32 (x : MF)
  /-- ST_64 (R234): Stores eight bytes per lane from a pair. -/
  | st64 (x : MF)
  /-- ST_128 (R234): Stores sixteen bytes per lane from four registers. -/
  | st128 (x : MF)
  /-- PF (R239): Prefetches a line into L1 or the die L2, without faults or effects. -/
  | pf (x : MF)
  /-- RWB (R241): Writes the die's dirty bytes of a range's SW or PR lines to the home and DRAM. -/
  | rwb (x : MF)
  /-- RINV (R241): Drops the die's copies of a range's SW or PR lines. -/
  | rinv (x : MF)
  /-- AMO_ADD_32 (R244): Atomic 32-bit add at the home, returning the old value. -/
  | amoAdd32 (x : MF)
  /-- AMO_ADD_64 (R244): Atomic 64-bit add. -/
  | amoAdd64 (x : MF)
  /-- AMO_FADD_F32 (R245): Atomic FP32 add with rounding and flags. -/
  | amoFaddF32 (x : MF)
  /-- AMO_FADD_BH2 (R245): Atomic BF16 pair add. -/
  | amoFaddBh2 (x : MF)
  /-- AMO_MIN_S32 (R244): Atomic signed minimum. -/
  | amoMinS32 (x : MF)
  /-- AMO_MIN_N32 (R244): Atomic unsigned minimum. -/
  | amoMinN32 (x : MF)
  /-- AMO_MAX_S32 (R244): Atomic signed maximum. -/
  | amoMaxS32 (x : MF)
  /-- AMO_MAX_N32 (R244): Atomic unsigned maximum. -/
  | amoMaxN32 (x : MF)
  /-- AMO_AND_32 (R244): Atomic and. -/
  | amoAnd32 (x : MF)
  /-- AMO_OR_32 (R244): Atomic or. -/
  | amoOr32 (x : MF)
  /-- AMO_XOR_32 (R244): Atomic xor. -/
  | amoXor32 (x : MF)
  /-- AMO_XCHG_32 (R244): Atomic 32-bit exchange. -/
  | amoXchg32 (x : MF)
  /-- AMO_XCHG_64 (R244): Atomic 64-bit exchange. -/
  | amoXchg64 (x : MF)
  /-- AMO_CAS_32 (R244): Atomic 32-bit compare and swap. -/
  | amoCas32 (x : MF)
  /-- AMO_CAS_64 (R244): Atomic 64-bit compare and swap. -/
  | amoCas64 (x : MF)
  /-- AMO_INC_N32 (R244): Atomic wrapping increment against a limit. -/
  | amoIncN32 (x : MF)
  /-- FENCE_ACQ (R247): Holds later memory work until earlier loads complete and applies pending signatures. -/
  | fenceAcq (x : EF)
  /-- FENCE_REL (R247): Waits for earlier accesses and runs the release procedure at wide scope. -/
  | fenceRel (x : EF)
  /-- FENCE_AR (R247): Release fence followed by acquire fence. -/
  | fenceAr (x : EF)
  /-- FENCE_SC (R247): Acquire-release fence that falls in the total order of sequentially consistent fences. -/
  | fenceSc (x : EF)
  /-- BAR (R212): Arrives at a named barrier with release and waits for its phase to complete. -/
  | bar (x : EF)
  /-- BARA (R212): Arrives at a named barrier with release and does not wait. -/
  | bara (x : EF)
  /-- BARW (R212): Waits for the phase of the group's last arrival on a name. -/
  | barw (x : EF)
  /-- MBINI (R214): Initialises a barrier object with a count. -/
  | mbini (x : EF)
  /-- MBARV (R214): Decrements a barrier object with release and returns the phase. -/
  | mbarv (x : EF)
  /-- MBWAIT (R214): Waits until a barrier object's phase differs from p, delivering engine faults first. -/
  | mbwait (x : EF)
  /-- MBTST (R214): Tests a barrier object's phase into a predicate without waiting. -/
  | mbtst (x : EF)
  /-- DYIELD (R250): Gives up issue until a watched scratchpad word changes or a cycle limit expires. -/
  | dyield (x : EF)
  /-- REGREQ (R251): Requests a larger register window, waiting for a grant. -/
  | regreq (x : EF)
  /-- REGREL (R220): Releases registers once no load writes them. -/
  | regrel (x : EF)
  /-- FEQ (R252): Copies a register's full/empty bits into a predicate. -/
  | feq (x : EF)
  /-- HBIND (R253): Binds an x register to a handle and offset with one translation. -/
  | hbind (x : EF)
  /-- HQRY (R254): Reads fields of a handle entry into an s pair. -/
  | hqry (x : EF)
  /-- SMAP (R255): Maps a scratchpad range as a stash of a global range. -/
  | smap (x : EF)
  /-- SUNMAP (R256): Writes back and ends a stash mapping. -/
  | sunmap (x : EF)
  /-- CPY (R404): Issues a background byte copy that decrements a barrier object as runs land. -/
  | cpy (x : EF)
  /-- CPQ (R406): Enqueues a copy-queue entry to another die or package with an optional flag atomic. -/
  | cpq (x : EF)
  /-- TLD (R332): Loads 8192 bytes into a tile, decrementing a barrier object. -/
  | tld (x : EF)
  /-- TST (R333): Stores a tile row-major as weak stores. -/
  | tst (x : EF)
  /-- TZERO (R331): Queues the clearing of a tile. -/
  | tzero (x : EF)
  /-- TMOV_FROM_TILE (R334): Copies tile columns into v registers once pending work is applied. -/
  | tmovFromTile (x : EF)
  /-- TMOV_TO_TILE (R334): Copies v registers into tile columns. -/
  | tmovToTile (x : EF)
  /-- MMA (R336): Queues a block-scaled matrix multiply-accumulate into a tile, possibly ganged. -/
  | mma (x : EF)
  /-- MLUT (R336): Queues a table-lookup matrix product with LUT weights. -/
  | mlut (x : EF)
  /-- MGATH (R335): Queues the gathering of 32 scratchpad rows into an A latch. -/
  | mgath (x : EF)
  /-- MFENCE (R337): Closes the open matrix batch and returns its number. -/
  | mfence (x : EF)
  /-- MWAIT (R338): Waits for a matrix batch and delivers one pending engine fault. -/
  | mwait (x : EF)
  /-- ROWCPY (R411): Copies whole DRAM rows in the array or by the fallback path. -/
  | rowcpy (x : EF)
  /-- ROWFILL (R411): Fills whole DRAM rows with a 64-bit pattern. -/
  | rowfill (x : EF)
  /-- ROWOP (R411): Combines DRAM rows bitwise by the operation in its control word. -/
  | rowop (x : EF)
  /-- GANG (R339): Writes an entry of the block's gang register. -/
  | gang (x : EF)
  /-- REGN (R340): Opens an idempotent region after the matrix queue drains. -/
  | regn (x : EF)
  /-- SRR (R391): Reads a special register into a v or s register. -/
  | srr (x : EF)
  /-- SRW (R392): Writes a writable special register from s registers. -/
  | srw (x : EF)
  /-- TRET (R393): Returns from handler mode, restoring the frame and replaying parked lanes. -/
  | tret (x : EF)
  /-- TRET_KILL (R371): Ends the trap as unrecoverable: kills the region or aborts the gate call. -/
  | tretKill (x : EF)
  /-- GCALL (R395): Enters a service through a gate-table entry in a new context. -/
  | gcall (x : EF)
  /-- GCALL_STORE_GRANT (R395): A GCALL waiting for core store proceeds into its callee once the store is free. -/
  | gcallStoreGrant (r : SRef)
  /-- GRET (R396): Returns results from a gate call and restores the caller. -/
  | gret (x : EF)
  /-- GQRY (R397): Reads a gate entry's sizes and whether a call would pass its checks. -/
  | gqry (x : EF)
  /-- FORK (R358): Creates and enqueues a child region from a launch record. -/
  | fork (x : EF)
  /-- JOIN (R359): Waits until the block's child count is zero. -/
  | join (x : EF)
  /-- TLBI_VA (R398): Invalidates the translations of one mapping across the package. -/
  | tlbiVa (x : EF)
  /-- TLBI_ASID (R398): Invalidates the non-global translations of an ASID. -/
  | tlbiAsid (x : EF)
  /-- TLBI_ALL (R398): Invalidates all translations. -/
  | tlbiAll (x : EF)
  /-- CMAINT_CLEAN (R399): Writes dirty bytes of physical pages to their homes on every die. -/
  | cmaintClean (x : EF)
  /-- CMAINT_FLUSH (R399): Cleans and then drops every copy of physical pages on every die. -/
  | cmaintFlush (x : EF)
  /-- CMAINT_SWEEP (R399): Starts a coherence sweep. -/
  | cmaintSweep (x : EF)
  /-- DRESUME (R394): Returns from the debug agent as a TRET resume. -/
  | dresume (x : EF)
  /-- DRESUME_STEP (R377): Returns from the debug agent and halts again after one unit. -/
  | dresumeStep (x : EF)
  /-- LOAD_DATA_RETURN (R49): Load or atomic data arrives, is written and sets the full bits together. -/
  | loadDataReturn (g : GRef) (id : Nat)
  /-- REMOTE_PENDING_TIMEOUT (R51): A remote load or atomic pending over 2048 cycles makes its wait a blocking point. -/
  | remotePendingTimeout (r : SRef)
  /-- BAR_PHASE_RESUME (R212): Waiters of a completed barrier phase resume with acquire. -/
  | barPhaseResume (blk name : Nat)
  /-- MBWAIT_WAKE (R215): A waiter on a barrier object resumes when its phase changes. -/
  | mbwaitWake (r : SRef)
  /-- DYIELD_WAKE (R217): A store changing the watched word wakes DYIELD with status 0. -/
  | dyieldWake (r : SRef)
  /-- DYIELD_LIMIT_EXPIRY (R250): The DYIELD cycle limit runs out and it continues with status 1. -/
  | dyieldLimitExpiry (r : SRef)
  /-- REGREQ_GRANT (R219): A waiting register request is granted, possibly moving the window. -/
  | regreqGrant (r : SRef)
  /-- REGREQ_DEADLOCK_EVICT (R357): When every resident group waits unmeetably, the youngest lowest-priority block is evicted. -/
  | regreqDeadlockEvict (c : CoreId)
  /-- FAULT_REPLAY (R373): The helm cores answer a fault record with REPLAY and the unfinished lanes run again. -/
  | faultReplay (token : Nat)
  /-- FAULT_DELIVER (R373): The helm cores answer a fault record with DELIVER, sending it to the domain handler. -/
  | faultDeliver (token : Nat)
  /-- BREAKPOINT_HALT (R375): A matching hardware breakpoint halts the split before its unit issues. -/
  | breakpointHalt (r : SRef)
  /-- MATRIX_BATCH_COMPLETE (R319): The matrix unit finishes a batch's work and applies its tile writes. -/
  | matrixBatchComplete (g : GRef)
  /-- GANG_RELEASE (R322): The rendezvous latch releases a full gang for one pass over B. -/
  | gangRelease (blk gang : Nat)
  /-- MATRIX_ENGINE_RESET (R326): An internal error resets a core's matrix unit, invalidating tiles and restarting regions. -/
  | matrixEngineReset (c : CoreId)
  /-- TILE_ECC_ERROR (R326): An uncorrectable tile error invalidates the tile and discards work writing it. -/
  | tileEccError (blk tile : Nat)
  /-- DRAIN_LIMIT_EXPIRY (R326): Matrix work still pending 65,536 cycles into a save is discarded. -/
  | drainLimitExpiry (blk : Nat)
  /-- COPY_RUN_LANDED (R404): A run of copy bytes lands and decrements the barrier object. -/
  | copyRunLanded (id bytes : Nat)
  /-- CPQ_SLOT_FREE (R406): A CPQ waiting for a queue slot enqueues its entry. -/
  | cpqSlotFree (r : SRef)
  /-- CPQ_ENTRY_RUN (R406): A copy-queue entry starts in order and moves its bytes to the receiving die. -/
  | cpqEntryRun (die queue : Nat)
  /-- CPQ_FLAG_ATOMIC (R407): Once all bytes are performed, the entry's flag atomic is performed at its home. -/
  | cpqFlagAtomic (die queue : Nat)
  /-- ROW_WRITTEN (R412): One DRAM row is written whole and the barrier object is decremented by 1024. -/
  | rowWritten (id : Nat)
  /-- ECC_RECOMPUTE_DONE (R415): The logic die finishes recomputing check bits of a row group after ROWOP. -/
  | eccRecomputeDone (rowGroup : Nat)
  /-- GETS (R264): A slice serves a core's read request for a line. -/
  | gets (c : CoreId) (line : Nat)
  /-- GETM (R264): A slice serves a core's request for a line in M, invalidating or recalling others. -/
  | getm (c : CoreId) (line : Nat)
  /-- UPG (R265): A slice serves an upgrade from S to M. -/
  | upg (c : CoreId) (line : Nat)
  /-- PUTM (R264): A slice takes a core's written-back M copy and acknowledges. -/
  | putm (c : CoreId) (line : Nat)
  /-- PUTE (R264): A slice acknowledges a dropped E copy. -/
  | pute (c : CoreId) (line : Nat)
  /-- L2_EVICTION (R282): A die's L2 evicts a line, recalling first-level copies and writing back or differencing. -/
  | l2Eviction (die line : Nat)
  /-- EARLY_DIFFERENCE (R270): A die differences a dirty-twinned line early and sends its record. -/
  | earlyDifference (die line : Nat)
  /-- DEVICE_RELEASE_RUN (R273): A die differences dirty twins, sends records, waits for acknowledgements and attaches CSIG. -/
  | deviceReleaseRun (die : Nat)
  /-- DIFF_RECORD_MERGE (R275): A home slice applies a difference record at one instant and acknowledges it. -/
  | diffRecordMerge (src home : Nat)
  /-- MERGE_ACK (R275): A merge acknowledgement reaches the sending die. -/
  | mergeAck (src : Nat)
  /-- COHERENCE_SWEEP (R281): All dies difference twins, drop remote RD copies and clear signatures. -/
  | coherenceSweep
  /-- LINK_SLEEP (R287): A die link idle for 50 microseconds goes to sleep. -/
  | linkSleep (link : Nat)
  /-- LINK_WAKE (R287): A sleeping link finishes waking and carries waiting messages. -/
  | linkWake (link : Nat)
  /-- LINK_TRAINING_FAILURE (R288): A link fails training; the third failure in a row declares the die lost. -/
  | linkTrainingFailure (link die : Nat)
  /-- DIE_LOST_TIMEOUT (R288): A control message unanswered for 250 microseconds declares the die lost. -/
  | dieLostTimeout (die : Nat)
  /-- DIE_REJOIN (R289): A reset die answers waiting requests, sets EV flags and rejoins. -/
  | dieRejoin (die : Nat)
  /-- BLOCK_DISPATCH (R348): The dispatcher places blocks of an eligible launch on cores of the die. -/
  | blockDispatch (die cluster : Nat) (cores : List Nat)
  /-- BLOCK_SAVE (R353): With every group at a blocking point, the block's image is saved and its resources freed. -/
  | blockSave (blk : Nat)
  /-- BLOCK_RESTORE (R354): A saved block is placed again and its splits continue. -/
  | blockRestore (blk cluster : Nat) (cores : List Nat)
  /-- JOIN_WAKE (R359): A block waiting in JOIN is requeued when its child count reaches zero. -/
  | joinWake (blk : Nat)
  /-- REGION_COMPLETE (R344): A region whose blocks and children have ended releases and increments COMPL. -/
  | regionComplete (rcb : Nat)
  /-- PREEMPT_DEADLINE (R352): A group not at a blocking point when its deadline runs out takes an asynchronous trap. -/
  | preemptDeadline (g : GRef)
  /-- HANDLER_DEADLINE_KILL (R352): A handler not at a blocking point by the second deadline has its region killed. -/
  | handlerDeadlineKill (g : GRef)
  /-- DOORBELL_WRITE (R419): A producer writes a queue's tail index and Rolger takes the new entries. -/
  | doorbellWrite (queue tail : Nat)
  /-- LAUNCH (R345): Checks and initialises a region and enters its launch in the queues. -/
  | launch (e : CmdEntry)
  /-- PREEMPT (R353): Saves every resident block of a region on the named dies. -/
  | preempt (e : CmdEntry)
  /-- RESUME (R353): Requeues a region's saved and undispatched blocks. -/
  | resume (e : CmdEntry)
  /-- KILL (R344): Kills a region and its descendants. -/
  | kill (e : CmdEntry)
  /-- MAP (R260): Writes page table entries, flushing copies before a class change. -/
  | map (e : CmdEntry)
  /-- UNMAP (R420): Removes mappings and shoots down their translations. -/
  | unmap (e : CmdEntry)
  /-- MIGRATE (R431): Moves a page between HBM and CXL tiers. -/
  | migrate (e : CmdEntry)
  /-- DIE_RESET (R289): Kills a die's blocks, writes back its homed lines and resets it. -/
  | dieReset (e : CmdEntry)
  /-- LINK_POWER (R287): Holds links awake or allows them to sleep. -/
  | linkPower (e : CmdEntry)
  /-- ATTEST (R424): Signs a report with the fused device identity key. -/
  | attest (e : CmdEntry)
  /-- TRACE_CFG (R425): Sets or disables a region's trace descriptor. -/
  | traceCfg (e : CmdEntry)
  /-- REPLAY_CFG (R428): Sets the reckoning log mode off, record or replay. -/
  | replayCfg (e : CmdEntry)
  /-- POWER_CAP (R432): Sets the package power cap. -/
  | powerCap (e : CmdEntry)
  /-- QUERY (R422): Writes the reply of a device information item. -/
  | query (e : CmdEntry)
  /-- QUERY_WRITE (R422): Writes a writable item, the hotness interval, and replies with it. -/
  | queryWrite (e : CmdEntry)
  /-- BOOT (R423): The ROM trains links, fetches and checks the boot image and starts the helm OS. -/
  | boot (map : List MapRange) (images : List (List Byte))
  /-- POWER_ARBITER_TICK (R432): Every 10 microseconds the arbiter divides the budget and throttles islands. -/
  | powerArbiterTick
  /-- SOUNDING_REPLAN (R433): Once a second Rolger reads the soundings and re-plans voltage margins. -/
  | soundingReplan
  /-- HOTNESS_INTERVAL_END (R430): A controller hands over its hottest pages and clears its sketch. -/
  | hotnessIntervalEnd (ctrl : Nat)
  /-- UNASSIGNED_OPCODE (R82): A fetched word whose opcode is unassigned (0x8B-0x8F, 0x97, 0x9D-0x9F, 0xAD, 0xEB-0xEF, or a lone reserved hint 0xF5-0xFF) traps ILLEGAL_OP or ILLEGAL_HINT. -/
  | unassignedOpcode (w : Word)
  /-- FETCH_FAULT (R180): The fetch of a unit faults in translation or page rules, and the split parks at that unit with a fault record. -/
  | fetchFault (cause detail : Nat) (va : BitVec 64)
  /-- TLD_RUN_LANDED (R332): A run of TLD bytes lands in the tile and decrements the barrier object, ending the tile's pending work with the last run. -/
  | tldRunLanded (id bytes : Nat)
  /-- HOME_SLICE_ACCESS (R275): A home slice performs, in arrival order, a line fetch, strong access, atomic, byte-masked or RWB write that another die, package or the host has sent, ORing or looking up signatures. -/
  | homeSliceAccess (q : HomeReq)
  /-- STORE_ACKNOWLEDGED (R235): A store, RWB or RINV, or an outer-link or host write, completes at its scope or is acknowledged by its target, releasing waiting releases and fences. -/
  | storeAcknowledged (g : GRef) (id : Nat)
  /-- LINK_ERROR (R288): A die link reports an error and retrains, counting toward the three failures that declare a die lost. -/
  | linkError (link : Nat)
  deriving DecidableEq, Repr

end Sys2Proof
end

