-- ==== Sys2Proof/Config.lean ====
section
/-! DEFINITION. What an implementation or one package fixes, and the values the spec leaves open: opaque
constants without a body, so that no proof sees a value (log entries 6, 7, 12, 13). -/

namespace Sys2Proof.Config

open Sys2Proof

/-- Free natural numbers, read in turn by the counter `State.free` (log entry 6). -/
opaque freeNat : Nat → Nat
/-- Free 32-bit values, read in turn by the counter `State.free` (log entry 6). -/
opaque freeWord : Nat → Word
/-- How far the wall timer runs, beyond 1, in the step of a given number (log entry 7). -/
opaque wallExtra : Nat → Nat
/-- How far the clock of an island runs, beyond 1, in the step of a given number (log entry 7). -/
opaque cycleExtra : Nat → Nat → Nat
/-- The value that the part returns for an approximation (opcode, argument); R166 gives only a bound for
it (log entry 12). -/
opaque approx : Nat → Word → Word
/-- Whether the store die of a die is present (R19, R20). -/
opaque storeDie : Nat → Bool
/-- The slice, 0 to 127, that a die's hash gives a line (R258): die, line (log entry 65). -/
opaque sliceHash : Nat → Nat → Nat
/-- The number of the lowest-numbered device of the system, and its fence word's physical address (R300). -/
opaque lowestDevice : BitVec 16
opaque lowestFencePa : Nat
/-- SHA-256 of a byte string (R423, R424), a function of a standard outside the spec (log entry 13). -/
opaque sha256 : List Byte → List Byte
/-- ECDSA P-256 verification: key, message, signature (R423; log entry 13). -/
opaque ecdsaVerify : List Byte → List Byte → List Byte → Bool
/-- ECDSA P-256 signature of a message under the fused device identity key (R424; log entry 13). -/
opaque ecdsaSign : List Byte → List Byte
/-- The key hash in fuses (R423). -/
opaque keyHash : List Byte
/-- The public half of the identity key, x then y (R424). -/
opaque identityKey : List Byte
/-- The fused device serial (R422, R424). -/
opaque serial : BitVec 64
/-- The device number, 0 to 1023 (R23). -/
opaque deviceNumber : BitVec 16
/-- The ROM version (R424). -/
opaque romVersion : BitVec 32
/-- Physical address of the doorbell page in the helm cores' control space (R419, R422 item 4). -/
opaque doorbellPa : BitVec 64

/-- The bytes of a saved block's image, whose layout and length the spec does not give (R354, log entry 56). -/
opaque saveImage : Nat → List (BitVec 8)

end Sys2Proof.Config
end

