-- ==== Sys2Proof/Machine/Fields.lean ====
section
/-! DEFINITION. The operand fields of the instructions: which register class and width each field names,
which values it admits (04 R64 to R71, and each instruction's description), and the first field that
breaks its limit (R83, check 5). -/

namespace Sys2Proof.Machine

open Sys2Proof

/-- The operand a trap names in TRAPINFO [11:8] (R366). -/
inductive Opnd where
  | d | a | b | third | other
  deriving DecidableEq, Repr

/-- The code of an operand in TRAPINFO [11:8] (R366). -/
def Opnd.code : Opnd → Nat
  | .d => 0 | .a => 1 | .b => 2 | .third => 3 | .other => 4

/-- A field value of 48 to 63 names s0 to s15 (R64). -/
def isS (v : BitVec 6) : Bool := 48 ≤ v.toNat

/-- The number of the s register that a field names (R64). -/
def sNum (v : BitVec 6) : Nat := v.toNat - 48

/-- What an operand field names. -/
inductive Role where
  /-- Not used: must be 0 (R82). -/
  | unused
  /-- A v or s register, the first of `w` whose number is a multiple of `w` (R41, R64, R234). -/
  | reg (w : Nat)
  /-- As `reg`, v only. -/
  | vreg (w : Nat)
  /-- As `reg`, s only. -/
  | sreg (w : Nat)
  /-- The first of `n` s registers, none beyond s15 (R330, R400). -/
  | spack (n : Nat)
  /-- The first of `n` v registers, any number (R334). -/
  | vrun (n : Nat)
  /-- A tile of the block (R313). -/
  | tile
  /-- Decoded by the description, which admits the value or not. -/
  | okIf (ok : Bool)
  deriving DecidableEq, Repr

/-- The limits that depend on the issuing group: REGCNT (R42) and the block's tile count (R313). -/
structure Limits where
  regcnt : Nat
  tiles : Nat
  deriving DecidableEq, Repr

/-- Whether a field value is allowed for its role. -/
def Role.ok (l : Limits) (v : BitVec 6) : Role → Bool
  | .unused => v == 0
  | .reg w => if isS v then sNum v % w == 0 else v.toNat % w == 0 && v.toNat + w ≤ l.regcnt
  | .vreg w => !isS v && v.toNat % w == 0 && v.toNat + w ≤ l.regcnt
  | .sreg w => isS v && sNum v % w == 0
  | .spack n => isS v && sNum v + n ≤ 16
  | .vrun n => !isS v && v.toNat + n ≤ l.regcnt
  | .tile => v.toNat < l.tiles && v.toNat < 16
  | .okIf b => b

/-- Whether a role names a register that lanes are read from or written to. -/
def Role.isReg : Role → Bool
  | .reg _ | .vreg _ | .sreg _ => true
  | _ => false

/-- The operand fields of one instruction word. -/
structure OpSig where
  d : BitVec 6 := 0
  a : BitVec 6 := 0
  b : BitVec 6 := 0
  dR : Role := .okIf true
  aR : Role := .okIf true
  bR : Role := .okIf true
  /-- d is a destination register. -/
  dst : Bool := false
  /-- d is read as a source (a third source, or store data). -/
  dSrc : Bool := false
  /-- the instruction may execute on the scalar pipe (R65). -/
  scal : Bool := false
  /-- an s destination with a v source is refused (R66). -/
  mixed : Bool := false
  /-- an s destination is refused (R66). -/
  noS : Bool := false
  /-- v47 is named implicitly (R42). -/
  need47 : Bool := false
  g : BitVec 3 := 0
  /-- the remaining fields hold allowed values. -/
  other : Bool := true
  deriving DecidableEq, Repr

/-- Whether the named sources are all s registers, or none is named. -/
def OpSig.srcS (s : OpSig) : Bool :=
  (!s.aR.isReg || isS s.a) && (!s.bR.isReg || isS s.b)

/-- Whether the instruction takes the scalar pipe: every register field names an s register (R65).
DEDUCED (log entry 11): PF, RWB and RINV have no destination field and follow the same rule. -/
def OpSig.scalar (s : OpSig) : Bool :=
  s.scal && (!(s.dst || s.dSrc) || isS s.d) && s.srcS

/-- The first operand that breaks its limit (R83, check 5), in the order d, a, b, other. -/
def OpSig.bad (l : Limits) (s : OpSig) : Option Opnd :=
  if !s.dR.ok l s.d then some .d
  else if !s.aR.ok l s.a then some .a
  else if !s.bR.ok l s.b then some .b
  else if !s.other then some .other
  else if s.need47 && l.regcnt < 48 then some .other
  else if s.noS && isS s.d then some .d
  else if s.mixed && s.dst && isS s.d && !s.srcS then some .d
  else if s.scalar && s.g != 0 then some .other
  else none

/-- d[2:0] names a predicate (R64): 0 names none. -/
def predOk (v : BitVec 6) : Bool := v.toNat % 8 != 0
/-- The field names a predicate in [2:0] and its other bits are 0. -/
def predOnly (v : BitVec 6) : Bool := predOk v && v.toNat < 8
/-- The source field of VOTE: predicate in [2:0], negation in [3] (R148). -/
def voteSrc (v : BitVec 6) : Bool := predOk v && v.toNat < 16
/-- The filter field of VOTE: predicate or 0 in [2:0] (R148). -/
def voteFilter (v : BitVec 6) : Bool := v.toNat < 8
/-- d[2:0] names x2 to x7 and d[5:3] is 0 (R253, R255, R256). -/
def xBindOk (v : BitVec 6) : Bool := 2 ≤ v.toNat && v.toNat < 8
/-- Registers of an operand of type t in the low two bits: a pair for .f64 (R153). -/
def typeW (v : BitVec 6) : Nat := if v.toNat % 4 == 0 then 2 else 1

/-- The scope field: 6 and 7 are refused (R69). -/
def scopeOk (sc : BitVec 3) : Bool := sc.toNat ≤ 5

/-- The engine layout of m (R71): SCOPE is 0 without ACQ and REL; SPEC only on row instructions. -/
def engOk (m : BitVec 6) (row : Bool) : Bool :=
  scopeOk (m.setWidth 3) && (row || !m.getLsbD 3) &&
  (m.getLsbD 5 || m.getLsbD 4 || m.setWidth 3 == 0)

/-- The FENCE layout of m: the (ACQ, REL, SC) value of the kind, and a scope (R71). -/
def fenceOk (m : BitVec 6) (kind : Nat) : Bool := m.toNat / 8 == kind && scopeOk (m.setWidth 3)

/-- The ordering, invariant and scope combinations of loads (R69). -/
def ldOrdOk (x : MF) : Bool :=
  (x.o == 0 && x.sc == 0) || ((x.o == 1 || x.o == 2) && x.i == 0 && scopeOk x.sc)
/-- The combinations of stores (R69). -/
def stOrdOk (x : MF) : Bool :=
  x.i == 0 && ((x.o == 0 && x.sc == 0) || ((x.o == 1 || x.o == 3) && scopeOk x.sc))
/-- The combinations of atomics (R69). -/
def amoOrdOk (x : MF) : Bool :=
  scopeOk x.sc && x.o != 0 && (x.i == 0 || x.o == 3)

def sgNone : OpSig := {}
def sgAlu3 (w : Nat) (x : RF) : OpSig :=
  { d := x.d, a := x.a, b := x.b, dR := .reg w, aR := .reg w, bR := .reg w,
    dst := true, scal := true, mixed := true, g := x.g }
def sgAlu2 (w : Nat) (x : RF) : OpSig := { sgAlu3 w x with bR := .unused }
def sgAluD (w : Nat) (x : RF) : OpSig := { sgAlu3 w x with dSrc := true }
def sgShift64 (x : RF) : OpSig := { sgAlu3 2 x with bR := .reg 1 }
def sgSel (x : RF) : OpSig := { sgAlu3 1 x with scal := false, noS := true }
def sgCmp (w : Nat) (x : RF) (ok : Bool) : OpSig :=
  { d := x.d, a := x.a, b := x.b, dR := .okIf ok, aR := .reg w, bR := .reg w, g := x.g }
def sgPred (x : RF) (d a b : Bool) : OpSig :=
  { d := x.d, a := x.a, b := x.b, dR := .okIf d, aR := .okIf a, bR := .okIf b, g := x.g }
def sgKmovKv (x : RF) : OpSig :=
  { d := x.d, a := x.a, b := x.b, dR := .okIf (predOnly x.d), aR := .reg 1, bR := .unused, g := x.g }
def sgKmovVk (x : RF) : OpSig :=
  { d := x.d, a := x.a, b := x.b, dR := .reg 1, aR := .okIf (predOnly x.a), bR := .unused,
    dst := true, g := x.g }
def sgFp3 (w : Nat) (x : RF) : OpSig :=
  { d := x.d, a := x.a, b := x.b, dR := .reg w, aR := .reg w, bR := .reg w,
    dst := true, noS := true, g := x.g }
def sgFp2 (w : Nat) (x : RF) : OpSig := { sgFp3 w x with bR := .unused }
def sgFma (w : Nat) (x : RF) : OpSig := { sgFp3 w x with dSrc := true }
def sgFpD (x : RF) : OpSig := { sgFp3 1 x with dSrc := true }
def sgFp2T (x : RF) (w : Nat) (ok : Bool) : OpSig := { sgFp3 w x with bR := .okIf ok }
def sgFclass (x : RF) : OpSig :=
  { sgFp3 1 x with aR := .reg (typeW x.b), bR := .okIf (x.b.toNat < 4) }
def sgFldx (w : Nat) (x : RF) : OpSig := { sgFp3 w x with bR := .reg 1 }
def sgFfrx (wd wa : Nat) (x : RF) (ok : Bool) : OpSig :=
  { sgFp3 wd x with aR := .reg wa, bR := .okIf ok }
/-- Float type codes of R170: FP64 takes a pair; only the 16-bit types 2 and 3 have halves. -/
def fltW (t : Nat) : Nat := if t == 0 then 2 else 1
/-- Integer type codes of R170: 2 and 3 are 64 bits wide. -/
def intW (t : Nat) : Nat := if 2 ≤ t then 2 else 1
def sgCvtff (x : RF) : OpSig :=
  let dt := x.b.toNat % 4; let st := x.b.toNat / 4 % 4
  { sgFp3 (fltW dt) x with
    aR := .reg (fltW st), dSrc := 2 ≤ dt,
    bR := .okIf ((!x.b.getLsbD 5 || 2 ≤ dt) && (!x.b.getLsbD 4 || 2 ≤ st)) }
def sgCvtfi (x : RF) : OpSig :=
  let st := x.b.toNat % 4; let it := x.b.toNat / 4 % 4
  { sgFp3 (intW it) x with
    aR := .reg (fltW st), bR := .okIf (!x.b.getLsbD 5 && (!x.b.getLsbD 4 || 2 ≤ st)) }
def sgCvtif (x : RF) : OpSig :=
  let dt := x.b.toNat % 4; let it := x.b.toNat / 4 % 4
  { sgFp3 (fltW dt) x with
    aR := .reg (intW it), dSrc := 2 ≤ dt,
    bR := .okIf (!x.b.getLsbD 5 && (!x.b.getLsbD 4 || 2 ≤ dt)) }
def sgShfl (x : RF) : OpSig :=
  { d := x.d, a := x.a, b := x.b, dR := .vreg 1, aR := .vreg 1, bR := .reg 1, dst := true, g := x.g }
def sgRedux (x : RF) : OpSig :=
  { d := x.d, a := x.a, b := x.b, dR := .sreg 1, aR := .reg 1, dst := true, g := x.g }
def sgMatch (x : RF) (ok : Bool) : OpSig :=
  { d := x.d, a := x.a, b := x.b, dR := .vreg 1, aR := .vreg 1, bR := .okIf ok, dst := true, g := x.g }
def sgLaneb (x : RF) : OpSig :=
  { d := x.d, a := x.a, b := x.b, dR := .sreg 1, aR := .vreg 1, bR := .sreg 1, dst := true,
    g := x.g, other := x.g == 0 }
def sgZero (d a b o : Bool) : OpSig := { dR := .okIf d, aR := .okIf a, bR := .okIf b, other := o }
def sgBrx (x : RF) : OpSig :=
  { d := x.d, a := x.a, b := x.b, dR := .unused, aR := .reg 1, bR := .unused, g := x.g,
    other := x.h == 0 }
def sgRet (x : RF) : OpSig :=
  { d := x.d, a := x.a, b := x.b, dR := .unused, aR := .unused, bR := .unused, g := x.g,
    other := x.h == 0, need47 := true }
def sgImm (w : Nat) (x : IF) : OpSig :=
  { d := x.d, a := x.a, dR := .reg w, aR := .reg w, dst := true, scal := true, mixed := true }
def sgCmpi (x : IF) : OpSig :=
  { d := x.d, a := x.a, dR := .okIf (predOk x.d), aR := .reg 1 }
def sgMov (x : KF) (src : Bool) : OpSig :=
  { d := x.d, dR := .reg 1, dst := true, dSrc := src, scal := true }
def sgLoad (w : Nat) (x : MF) : OpSig :=
  { d := x.d, a := x.a, dR := .reg w, aR := .reg 1, dst := true, scal := true, mixed := true,
    g := x.g, other := ldOrdOk x }
def sgStore (w : Nat) (x : MF) : OpSig :=
  { d := x.d, a := x.a, dR := .reg w, aR := .reg 1, dSrc := true, scal := true,
    g := x.g, other := stOrdOk x }
def sgAmo (w : Nat) (x : MF) : OpSig :=
  { d := x.d, a := x.a, dR := .reg w, aR := .reg 1, dst := true, dSrc := true, scal := true,
    mixed := true, g := x.g, other := amoOrdOk x }
def sgPf (x : MF) : OpSig :=
  { d := x.d, a := x.a, dR := .unused, aR := .reg 1, scal := true, g := x.g,
    other := x.o == 0 && x.i == 0 && (x.sc == 0 || x.sc == 3) }
def sgRange (x : MF) : OpSig :=
  { d := x.d, a := x.a, dR := .reg 1, aR := .reg 1, dSrc := true, scal := true, g := x.g,
    other := x.o == 0 && x.i == 0 && x.sc == 4 && x.x != 0 && x.x != 1 }
def sgE (d a b : Role) (x : EF) (other : Bool) : OpSig :=
  { d := x.d, a := x.a, b := x.b, dR := d, aR := a, bR := b, other := other }
def sgEd (d a b : Role) (x : EF) (other : Bool) : OpSig := { sgE d a b x other with dst := true }

/-- The numbers of the special registers (R388). -/
def srWidth64 (m : Nat) : Bool := m == 0x0C || m == 0x0D || m == 0x11 || m == 0x13
/-- The special registers that exist (R388). -/
def srExists (m : Nat) : Bool :=
  m ≤ 0x0A || (0x0C ≤ m && m ≤ 0x0E) || (0x10 ≤ m && m ≤ 0x14) || m == 0x18 || m == 0x19 ||
  m == 0x1C || m == 0x1D || m == 0x20 || m == 0x21 || m == 0x24 || m == 0x28 ||
  (0x30 ≤ m && m ≤ 0x37)
/-- LANE and COHMAP are read per lane: an s destination is refused (R391). -/
def srPerLane (m : Nat) : Bool := m == 0 || m == 0x0E
def sgSrr (x : EF) : OpSig :=
  { d := x.d, a := x.a, b := x.b, dR := .reg (if srWidth64 x.m.toNat then 2 else 1),
    aR := .unused, bR := .unused, dst := true, noS := srPerLane x.m.toNat, other := srExists x.m.toNat }
def sgSrw (x : EF) : OpSig :=
  { d := x.d, a := x.a, b := x.b, dR := .unused, aR := .sreg (if srWidth64 x.m.toNat then 2 else 1),
    bR := .unused, other := srExists x.m.toNat }

/-- The operand fields of every instruction, from its description; a step that is no instruction has none. -/
def sigOf : Instr → OpSig
  | .iadd32 x => sgAlu3 1 x
  | .iadd64 x => sgAlu3 2 x
  | .isub32 x => sgAlu3 1 x
  | .isub64 x => sgAlu3 2 x
  | .iaddc32 x => sgAlu3 1 x
  | .isubb32 x => sgAlu3 1 x
  | .imul32 x => sgAlu3 1 x
  | .imul64 x => sgAlu3 2 x
  | .imulhS32 x => sgAlu3 1 x
  | .imulhN32 x => sgAlu3 1 x
  | .imad32 x => sgAluD 1 x
  | .imad64 x => sgAluD 2 x
  | .iminS32 x => sgAlu3 1 x
  | .iminN32 x => sgAlu3 1 x
  | .imaxS32 x => sgAlu3 1 x
  | .imaxN32 x => sgAlu3 1 x
  | .iabs x => sgAlu2 1 x
  | .ineg x => sgAlu2 1 x
  | .andW x => sgAlu3 1 x
  | .orW x => sgAlu3 1 x
  | .xorW x => sgAlu3 1 x
  | .andn x => sgAlu3 1 x
  | .orn x => sgAlu3 1 x
  | .notW x => sgAlu2 1 x
  | .shl32 x => sgAlu3 1 x
  | .shr32 x => sgAlu3 1 x
  | .sar32 x => sgAlu3 1 x
  | .rol32 x => sgAlu3 1 x
  | .shl64 x => sgShift64 x
  | .shr64 x => sgShift64 x
  | .sar64 x => sgShift64 x
  | .fsh x => sgAluD 1 x
  | .popc x => sgAlu2 1 x
  | .clz x => sgAlu2 1 x
  | .ctz x => sgAlu2 1 x
  | .brev x => sgAlu2 1 x
  | .bfxS x => sgAlu3 1 x
  | .bfxN x => sgAlu3 1 x
  | .bfi x => sgAluD 1 x
  | .bperm x => sgAluD 1 x
  | .sel x => sgSel x
  | .icmp32 x => sgCmp 1 x (predOk x.d)
  | .icmp64 x => sgCmp 2 x (predOk x.d)
  | .kop x => sgPred x (predOk x.d) (predOnly x.a) (predOnly x.b)
  | .kmovKv x => sgKmovKv x
  | .kmovVk x => sgKmovVk x
  | .mov x => sgAlu2 1 x
  | .mov64 x => sgAlu2 2 x
  | .iaddi32 x => sgImm 1 x
  | .iaddi64 x => sgImm 2 x
  | .andi x => sgImm 1 x
  | .ori x => sgImm 1 x
  | .xori x => sgImm 1 x
  | .shli x => sgImm 1 x
  | .shri x => sgImm 1 x
  | .sari x => sgImm 1 x
  | .icmpi32 x => sgCmpi x
  | .imuli32 x => sgImm 1 x
  | .lea2 x => sgAlu3 1 x
  | .lea4 x => sgAlu3 1 x
  | .lea8 x => sgAlu3 1 x
  | .lea16 x => sgAlu3 1 x
  | .movi x => sgMov x false
  | .movhi x => sgMov x true
  | .faddF64 x => sgFp3 2 x
  | .faddF32 x => sgFp3 1 x
  | .faddH2 x => sgFp3 1 x
  | .faddBh2 x => sgFp3 1 x
  | .fsubF64 x => sgFp3 2 x
  | .fsubF32 x => sgFp3 1 x
  | .fsubH2 x => sgFp3 1 x
  | .fsubBh2 x => sgFp3 1 x
  | .fmulF64 x => sgFp3 2 x
  | .fmulF32 x => sgFp3 1 x
  | .fmulH2 x => sgFp3 1 x
  | .fmulBh2 x => sgFp3 1 x
  | .ffmaF64 x => sgFma 2 x
  | .ffmaF32 x => sgFma 1 x
  | .ffmaH2 x => sgFma 1 x
  | .ffmaBh2 x => sgFma 1 x
  | .fminF64 x => sgFp3 2 x
  | .fminF32 x => sgFp3 1 x
  | .fminH2 x => sgFp3 1 x
  | .fminBh2 x => sgFp3 1 x
  | .fmaxF64 x => sgFp3 2 x
  | .fmaxF32 x => sgFp3 1 x
  | .fmaxH2 x => sgFp3 1 x
  | .fmaxBh2 x => sgFp3 1 x
  | .fminnF64 x => sgFp3 2 x
  | .fminnF32 x => sgFp3 1 x
  | .fminnH2 x => sgFp3 1 x
  | .fminnBh2 x => sgFp3 1 x
  | .fmaxnF64 x => sgFp3 2 x
  | .fmaxnF32 x => sgFp3 1 x
  | .fmaxnH2 x => sgFp3 1 x
  | .fmaxnBh2 x => sgFp3 1 x
  | .fcmpF64 x => sgCmp 2 x (predOk x.d)
  | .fcmpF32 x => sgCmp 1 x (predOk x.d)
  | .fcmpH2 x => sgCmp 1 x (predOk x.d && x.d.toNat % 8 != 7)
  | .fcmpBh2 x => sgCmp 1 x (predOk x.d && x.d.toNat % 8 != 7)
  | .fabs x => sgFp2T x (typeW x.b) (x.b.toNat < 4)
  | .fneg x => sgFp2T x (typeW x.b) (x.b.toNat < 4)
  | .fcpysF32 x => sgFp3 1 x
  | .fcpysF64 x => sgFp3 2 x
  | .fclass x => sgFclass x
  | .frnd x => sgFp2T x (typeW x.b) (x.b.toNat < 32)
  | .fdivF32 x => sgFp3 1 x
  | .fdivF64 x => sgFp3 2 x
  | .fsqrtF32 x => sgFp2 1 x
  | .fsqrtF64 x => sgFp2 2 x
  | .frcpF32 x => sgFp2 1 x
  | .frsqF32 x => sgFp2 1 x
  | .fex2F32 x => sgFp2 1 x
  | .flg2F32 x => sgFp2 1 x
  | .fsinF32 x => sgFp2 1 x
  | .fcosF32 x => sgFp2 1 x
  | .fldxF32 x => sgFldx 1 x
  | .fldxF64 x => sgFldx 2 x
  | .ffrxF32Frac x => sgFfrx 1 1 x (x.b == 0)
  | .ffrxF32Exp x => sgFfrx 1 1 x (x.b == 1)
  | .ffrxF64Frac x => sgFfrx 2 2 x (x.b == 0)
  | .ffrxF64Exp x => sgFfrx 1 2 x (x.b == 1)
  | .cvtff x => sgCvtff x
  | .cvtfi x => sgCvtfi x
  | .cvtif x => sgCvtif x
  | .pk8 x => sgFpD x
  | .unpk8 x => sgFp3 1 x
  | .pkbs x => sgFpD x
  | .fdot2H2 x => sgFma 1 x
  | .fdot2Bh2 x => sgFma 1 x
  | .shflIdx x => sgShfl x
  | .shflUp x => sgShfl x
  | .shflDown x => sgShfl x
  | .shflXor x => sgShfl x
  | .voteAll x => sgPred x (predOnly x.d) (voteSrc x.a) (voteFilter x.b)
  | .voteAny x => sgPred x (predOnly x.d) (voteSrc x.a) (voteFilter x.b)
  | .voteEq x => sgPred x (predOnly x.d) (voteSrc x.a) (voteFilter x.b)
  | .voteBallot x => sgPred x (isS x.d) (voteSrc x.a) (voteFilter x.b)
  | .redux x => sgRedux x
  | .matchSet x => sgMatch x (x.b == 0)
  | .matchLead x => sgMatch x (x.b == 1)
  | .laneb x => sgLaneb x
  | .bra x => sgZero true true true (!(x.g == 0 && x.n == 1))
  | .brau x => sgZero true true true (!(x.g == 0 && x.n == 1))
  | .brx x => sgBrx x
  | .call x => { sgZero true true true (!(x.g == 0 && x.n == 1)) with need47 := true }
  | .callx x => { sgBrx x with need47 := true }
  | .ret x => sgRet x
  | .bdec x => sgZero true true true (x.n == 0)
  | .yield x => sgZero (x.d == 0) (x.a == 0) (x.b == 0) (x.g == 0 && x.h == 0 && x.f == 0)
  | .exit x => sgZero (x.d == 0) (x.a == 0) (x.b == 0) (x.h == 0 && x.f == 0)
  | .nop x => sgZero (x.d == 0) (x.a == 0) (x.b == 0) (x.g == 0 && x.h == 0 && x.f == 0)
  | .trap x => sgE .unused .unused .unused x true
  | .brk x => sgE .unused .unused .unused x true
  | .ld8s x => sgLoad 1 x
  | .ld8n x => sgLoad 1 x
  | .ld16s x => sgLoad 1 x
  | .ld16n x => sgLoad 1 x
  | .ld32 x => sgLoad 1 x
  | .ld64 x => sgLoad 2 x
  | .ld128 x => sgLoad 4 x
  | .st8 x => sgStore 1 x
  | .st16 x => sgStore 1 x
  | .st32 x => sgStore 1 x
  | .st64 x => sgStore 2 x
  | .st128 x => sgStore 4 x
  | .pf x => sgPf x
  | .rwb x => sgRange x
  | .rinv x => sgRange x
  | .amoAdd32 x => sgAmo 1 x
  | .amoAdd64 x => sgAmo 2 x
  | .amoFaddF32 x => sgAmo 1 x
  | .amoFaddBh2 x => sgAmo 1 x
  | .amoMinS32 x => sgAmo 1 x
  | .amoMinN32 x => sgAmo 1 x
  | .amoMaxS32 x => sgAmo 1 x
  | .amoMaxN32 x => sgAmo 1 x
  | .amoAnd32 x => sgAmo 1 x
  | .amoOr32 x => sgAmo 1 x
  | .amoXor32 x => sgAmo 1 x
  | .amoXchg32 x => sgAmo 1 x
  | .amoXchg64 x => sgAmo 2 x
  | .amoCas32 x => sgAmo 2 x
  | .amoCas64 x => sgAmo 4 x
  | .amoIncN32 x => sgAmo 1 x
  | .fenceAcq x => sgE .unused .unused .unused x (fenceOk x.m 4)
  | .fenceRel x => sgE .unused .unused .unused x (fenceOk x.m 2)
  | .fenceAr x => sgE .unused .unused .unused x (fenceOk x.m 6)
  | .fenceSc x => sgE .unused .unused .unused x (fenceOk x.m 7)
  | .bar x => sgE .unused (.sreg 2) (.sreg 1) x (x.m.toNat < 16)
  | .bara x => sgE .unused (.sreg 2) (.sreg 1) x (x.m.toNat < 16)
  | .barw x => sgE .unused .unused .unused x (x.m.toNat < 16)
  | .mbini x => sgE .unused (.sreg 1) (.sreg 1) x (x.m == 0)
  | .mbarv x => sgEd (.sreg 1) (.sreg 1) (.sreg 1) x (x.m == 0)
  | .mbwait x => sgE .unused (.sreg 1) (.sreg 1) x (x.m == 0)
  | .mbtst x => sgE (.okIf (predOnly x.d)) (.sreg 1) (.sreg 1) x (x.m == 0)
  | .dyield x => sgEd (.sreg 1) (.sreg 1) (.sreg 1) x (x.m.toNat < 2)
  | .regreq x => sgE .unused .unused .unused x (3 <= x.m.toNat && x.m.toNat <= 6)
  | .regrel x => sgE .unused .unused .unused x (2 <= x.m.toNat && x.m.toNat <= 5)
  | .feq x => sgE (.okIf (predOnly x.d)) (.vreg 1) .unused x (x.m == 0)
  | .hbind x => sgE (.okIf (xBindOk x.d)) (.sreg 1) (.sreg 1) x (x.m == 0)
  | .hqry x => sgEd (.sreg 2) (.sreg 1) (.okIf (x.b.toNat < 4)) x (x.m == 0)
  | .smap x => sgE (.okIf (xBindOk x.d)) (.sreg 4) .unused x (x.m == 0)
  | .sunmap x => sgE (.okIf (xBindOk x.d)) .unused .unused x (x.m == 0)
  | .cpy x => sgE .unused (.spack 4) (.okIf true) x (engOk x.m false)
  | .cpq x => sgE (.sreg 1) (.spack 8) (.okIf (x.b.toNat < 8)) x (engOk x.m false)
  | .tld x => sgE .tile (.spack 2) (.okIf (x.b.toNat < 8)) x (engOk x.m false && !x.m.getLsbD 4)
  | .tst x => sgE .tile (.sreg 1) (.okIf (x.b.toNat < 8)) x (engOk x.m false && !x.m.getLsbD 5)
  | .tzero x => sgE .tile .unused .unused x (x.m == 0)
  | .tmovFromTile x => sgE (.vrun (2 ^ (x.m.toNat % 4))) .tile (.sreg 1) x (x.m.toNat / 4 == 0)
  | .tmovToTile x => sgE .tile (.vrun (2 ^ (x.m.toNat % 4))) (.sreg 1) x (x.m.toNat / 4 == 8)
  | .mma x => sgE .tile (.spack 3) .unused x (engOk x.m false && !x.m.getLsbD 4)
  | .mlut x => sgE .tile (.spack 3) .unused x (engOk x.m false && !x.m.getLsbD 4)
  | .mgath x => sgE .unused (.spack 3) (.vreg 1) x (engOk x.m false && !x.m.getLsbD 4)
  | .mfence x => sgEd (.sreg 1) .unused .unused x (x.m == 0)
  | .mwait x => sgE .unused (.sreg 1) .unused x (x.m == 0)
  | .rowcpy x => sgEd (.sreg 1) (.spack 5) (.okIf true) x (engOk x.m true)
  | .rowfill x => sgEd (.sreg 1) (.spack 6) (.okIf (x.b.toNat < 8)) x (engOk x.m true)
  | .rowop x => sgEd (.sreg 1) (.spack 7) (.okIf true) x (engOk x.m true)
  | .gang x => sgE .unused (.sreg 1) .unused x (x.m.toNat < 4)
  | .regn x => sgE .unused .unused .unused x (x.m == 0)
  | .srr x => sgSrr x
  | .srw x => sgSrw x
  | .tret x => sgE .unused .unused .unused x (x.m == 0)
  | .tretKill x => sgE .unused .unused .unused x (x.m == 1)
  | .gcall x => sgE .unused (.sreg 1) .unused x (x.m == 0)
  | .gret x => sgE .unused .unused .unused x (x.m == 0)
  | .gqry x => sgEd (.sreg 2) (.sreg 1) .unused x (x.m == 0)
  | .fork x => sgE .unused (.sreg 1) (.okIf (x.b.toNat < 8)) x (x.m == 0)
  | .join x => sgE .unused .unused .unused x (x.m == 0)
  | .tlbiVa x => sgE .unused (.sreg 2) (.sreg 1) x (x.m == 0)
  | .tlbiAsid x => sgE .unused .unused (.sreg 1) x (x.m == 1)
  | .tlbiAll x => sgE .unused .unused .unused x (x.m == 2)
  | .cmaintClean x => sgE .unused (.sreg 2) (.sreg 1) x (x.m == 0)
  | .cmaintFlush x => sgE .unused (.sreg 2) (.sreg 1) x (x.m == 1)
  | .cmaintSweep x => sgE .unused .unused .unused x (x.m == 2)
  | .dresume x => sgE .unused .unused .unused x (x.m == 0)
  | .dresumeStep x => sgE .unused .unused .unused x (x.m == 1)
  | .gcallStoreGrant _ => sgNone
  | .loadDataReturn _ _ => sgNone
  | .remotePendingTimeout _ => sgNone
  | .barPhaseResume _ _ => sgNone
  | .mbwaitWake _ => sgNone
  | .dyieldWake _ => sgNone
  | .dyieldLimitExpiry _ => sgNone
  | .regreqGrant _ => sgNone
  | .regreqDeadlockEvict _ => sgNone
  | .faultReplay _ => sgNone
  | .faultDeliver _ => sgNone
  | .breakpointHalt _ => sgNone
  | .matrixBatchComplete _ => sgNone
  | .gangRelease _ _ => sgNone
  | .matrixEngineReset _ => sgNone
  | .tileEccError _ _ => sgNone
  | .drainLimitExpiry _ => sgNone
  | .copyRunLanded _ _ => sgNone
  | .cpqSlotFree _ => sgNone
  | .cpqEntryRun _ _ => sgNone
  | .cpqFlagAtomic _ _ => sgNone
  | .rowWritten _ => sgNone
  | .eccRecomputeDone _ => sgNone
  | .gets _ _ => sgNone
  | .getm _ _ => sgNone
  | .upg _ _ => sgNone
  | .putm _ _ => sgNone
  | .pute _ _ => sgNone
  | .l2Eviction _ _ => sgNone
  | .earlyDifference _ _ => sgNone
  | .deviceReleaseRun _ => sgNone
  | .diffRecordMerge _ _ => sgNone
  | .mergeAck _ => sgNone
  | .coherenceSweep => sgNone
  | .linkSleep _ => sgNone
  | .linkWake _ => sgNone
  | .linkTrainingFailure _ _ => sgNone
  | .dieLostTimeout _ => sgNone
  | .dieRejoin _ => sgNone
  | .blockDispatch _ _ _ => sgNone
  | .blockSave _ => sgNone
  | .blockRestore _ _ _ => sgNone
  | .joinWake _ => sgNone
  | .regionComplete _ => sgNone
  | .preemptDeadline _ => sgNone
  | .handlerDeadlineKill _ => sgNone
  | .doorbellWrite _ _ => sgNone
  | .launch _ => sgNone
  | .preempt _ => sgNone
  | .resume _ => sgNone
  | .kill _ => sgNone
  | .map _ => sgNone
  | .unmap _ => sgNone
  | .migrate _ => sgNone
  | .dieReset _ => sgNone
  | .linkPower _ => sgNone
  | .attest _ => sgNone
  | .traceCfg _ => sgNone
  | .replayCfg _ => sgNone
  | .powerCap _ => sgNone
  | .query _ => sgNone
  | .queryWrite _ => sgNone
  | .boot _ _ => sgNone
  | .powerArbiterTick => sgNone
  | .soundingReplan => sgNone
  | .hotnessIntervalEnd _ => sgNone
  | .unassignedOpcode _ => sgNone
  | .fetchFault _ _ _ => sgNone
  | .tldRunLanded _ _ => sgNone
  | .homeSliceAccess _ => sgNone
  | .storeAcknowledged _ _ => sgNone
  | .linkError _ => sgNone

/-- The widest limits: 48 registers and 16 tiles. -/
def Limits.max : Limits := { regcnt := 48, tiles := 16 }

end Sys2Proof.Machine
end

