-- ==== Sys2Proof/WellFormed.lean ====
section
/-! DEFINITION. Well-formed instructions: every field holds a value that its description admits in a
group with 48 registers and 16 tiles (R83, check 5). -/

namespace Sys2Proof

/-- No field of the instruction breaks its limit. -/
def WellFormed (i : Instr) : Bool := ((Machine.sigOf i).bad Machine.Limits.max).isNone

end Sys2Proof
end

