-- ==== Sys2Proof/Decode.lean ====
section
/-! DEFINITION. The decoder: the fields of each format (04 R62), the opcode map (R80), the words that are
no instruction (R82), the unit of hint words and instruction (R72), and the encoder. -/

namespace Sys2Proof

/-- Why a word or a sequence of words is no instruction (R72, R82). -/
inductive Reject where
  /-- the opcode is unassigned: 0x8B to 0x8F, 0x97, 0x9D to 0x9F, 0xAD, 0xEB to 0xEF -/
  | unassigned (w : Word)
  /-- a reserved hint opcode 0xF5 to 0xFF -/
  | reservedHint (w : Word)
  /-- a hint word 0xF0 to 0xF4, which is no instruction by itself -/
  | hintWord (w : Word)
  /-- an assigned opcode whose kind bits select no row -/
  | reservedKind (w : Word)
  /-- the hint sequence is malformed (R72, 3) -/
  | malformed
  /-- the bytes end before the unit does -/
  | short
  deriving DecidableEq, Repr

/-- The fields of a format-R word (R62). -/
def unpackR (w : Word) : RF :=
  { d := w.extractLsb' 18 6, a := w.extractLsb' 12 6, b := w.extractLsb' 6 6,
    g := w.extractLsb' 3 3, h := w.extractLsb' 1 2, f := w.extractLsb' 0 1 }
/-- The fields of a format-I word (R62). -/
def unpackI (w : Word) : IF :=
  { d := w.extractLsb' 18 6, a := w.extractLsb' 12 6, imm := w.extractLsb' 0 12 }
/-- The fields of a format-K word (R62). -/
def unpackK (w : Word) : KF := { d := w.extractLsb' 18 6, imm := w.extractLsb' 0 18 }
/-- The fields of a format-B word (R62). -/
def unpackB (w : Word) : BF :=
  { g := w.extractLsb' 21 3, n := w.extractLsb' 20 1, off := w.extractLsb' 0 20 }
/-- The fields of a format-M word (R62). -/
def unpackM (w : Word) : MF :=
  { d := w.extractLsb' 18 6, a := w.extractLsb' 12 6, x := w.extractLsb' 9 3,
    g := w.extractLsb' 6 3, o := w.extractLsb' 4 2, i := w.extractLsb' 3 1, sc := w.extractLsb' 0 3 }
/-- The fields of a format-E word (R62). -/
def unpackE (w : Word) : EF :=
  { d := w.extractLsb' 18 6, a := w.extractLsb' 12 6, b := w.extractLsb' 6 6, m := w.extractLsb' 0 6 }

/-- Bits [31:24] of a word: the opcode (R61). -/
def opcodeOf (w : Word) : Nat := (w.extractLsb' 24 8).toNat

/-- The instruction of opcode `op` in word `w` (R80). -/
def decodeOp (op : Nat) (w : Word) : Except Reject Instr :=
  match op with
  | 0 => .ok (.iadd32 (unpackR w))
  | 1 => .ok (.iadd64 (unpackR w))
  | 2 => .ok (.isub32 (unpackR w))
  | 3 => .ok (.isub64 (unpackR w))
  | 4 => .ok (.iaddc32 (unpackR w))
  | 5 => .ok (.isubb32 (unpackR w))
  | 6 => .ok (.imul32 (unpackR w))
  | 7 => .ok (.imul64 (unpackR w))
  | 8 => .ok (.imulhS32 (unpackR w))
  | 9 => .ok (.imulhN32 (unpackR w))
  | 10 => .ok (.imad32 (unpackR w))
  | 11 => .ok (.imad64 (unpackR w))
  | 12 => .ok (.iminS32 (unpackR w))
  | 13 => .ok (.iminN32 (unpackR w))
  | 14 => .ok (.imaxS32 (unpackR w))
  | 15 => .ok (.imaxN32 (unpackR w))
  | 16 => .ok (.iabs (unpackR w))
  | 17 => .ok (.ineg (unpackR w))
  | 18 => .ok (.andW (unpackR w))
  | 19 => .ok (.orW (unpackR w))
  | 20 => .ok (.xorW (unpackR w))
  | 21 => .ok (.andn (unpackR w))
  | 22 => .ok (.orn (unpackR w))
  | 23 => .ok (.notW (unpackR w))
  | 24 => .ok (.shl32 (unpackR w))
  | 25 => .ok (.shr32 (unpackR w))
  | 26 => .ok (.sar32 (unpackR w))
  | 27 => .ok (.rol32 (unpackR w))
  | 28 => .ok (.shl64 (unpackR w))
  | 29 => .ok (.shr64 (unpackR w))
  | 30 => .ok (.sar64 (unpackR w))
  | 31 => .ok (.fsh (unpackR w))
  | 32 => .ok (.popc (unpackR w))
  | 33 => .ok (.clz (unpackR w))
  | 34 => .ok (.ctz (unpackR w))
  | 35 => .ok (.brev (unpackR w))
  | 36 => .ok (.bfxS (unpackR w))
  | 37 => .ok (.bfxN (unpackR w))
  | 38 => .ok (.bfi (unpackR w))
  | 39 => .ok (.bperm (unpackR w))
  | 40 => .ok (.sel (unpackR w))
  | 41 => .ok (.icmp32 (unpackR w))
  | 42 => .ok (.icmp64 (unpackR w))
  | 43 => .ok (.kop (unpackR w))
  | 44 => .ok (.kmovKv (unpackR w))
  | 45 => .ok (.kmovVk (unpackR w))
  | 46 => .ok (.mov (unpackR w))
  | 47 => .ok (.mov64 (unpackR w))
  | 48 => .ok (.iaddi32 (unpackI w))
  | 49 => .ok (.iaddi64 (unpackI w))
  | 50 => .ok (.andi (unpackI w))
  | 51 => .ok (.ori (unpackI w))
  | 52 => .ok (.xori (unpackI w))
  | 53 => .ok (.shli (unpackI w))
  | 54 => .ok (.shri (unpackI w))
  | 55 => .ok (.sari (unpackI w))
  | 56 => .ok (.icmpi32 (unpackI w))
  | 57 => .ok (.imuli32 (unpackI w))
  | 58 => .ok (.lea2 (unpackR w))
  | 59 => .ok (.lea4 (unpackR w))
  | 60 => .ok (.lea8 (unpackR w))
  | 61 => .ok (.lea16 (unpackR w))
  | 62 => .ok (.movi (unpackK w))
  | 63 => .ok (.movhi (unpackK w))
  | 64 => .ok (.faddF64 (unpackR w))
  | 65 => .ok (.faddF32 (unpackR w))
  | 66 => .ok (.faddH2 (unpackR w))
  | 67 => .ok (.faddBh2 (unpackR w))
  | 68 => .ok (.fsubF64 (unpackR w))
  | 69 => .ok (.fsubF32 (unpackR w))
  | 70 => .ok (.fsubH2 (unpackR w))
  | 71 => .ok (.fsubBh2 (unpackR w))
  | 72 => .ok (.fmulF64 (unpackR w))
  | 73 => .ok (.fmulF32 (unpackR w))
  | 74 => .ok (.fmulH2 (unpackR w))
  | 75 => .ok (.fmulBh2 (unpackR w))
  | 76 => .ok (.ffmaF64 (unpackR w))
  | 77 => .ok (.ffmaF32 (unpackR w))
  | 78 => .ok (.ffmaH2 (unpackR w))
  | 79 => .ok (.ffmaBh2 (unpackR w))
  | 80 => .ok (.fminF64 (unpackR w))
  | 81 => .ok (.fminF32 (unpackR w))
  | 82 => .ok (.fminH2 (unpackR w))
  | 83 => .ok (.fminBh2 (unpackR w))
  | 84 => .ok (.fmaxF64 (unpackR w))
  | 85 => .ok (.fmaxF32 (unpackR w))
  | 86 => .ok (.fmaxH2 (unpackR w))
  | 87 => .ok (.fmaxBh2 (unpackR w))
  | 88 => .ok (.fminnF64 (unpackR w))
  | 89 => .ok (.fminnF32 (unpackR w))
  | 90 => .ok (.fminnH2 (unpackR w))
  | 91 => .ok (.fminnBh2 (unpackR w))
  | 92 => .ok (.fmaxnF64 (unpackR w))
  | 93 => .ok (.fmaxnF32 (unpackR w))
  | 94 => .ok (.fmaxnH2 (unpackR w))
  | 95 => .ok (.fmaxnBh2 (unpackR w))
  | 96 => .ok (.fcmpF64 (unpackR w))
  | 97 => .ok (.fcmpF32 (unpackR w))
  | 98 => .ok (.fcmpH2 (unpackR w))
  | 99 => .ok (.fcmpBh2 (unpackR w))
  | 100 => .ok (.fabs (unpackR w))
  | 101 => .ok (.fneg (unpackR w))
  | 102 => .ok (.fcpysF32 (unpackR w))
  | 103 => .ok (.fcpysF64 (unpackR w))
  | 104 => .ok (.fclass (unpackR w))
  | 105 => .ok (.frnd (unpackR w))
  | 106 => .ok (.fdivF32 (unpackR w))
  | 107 => .ok (.fdivF64 (unpackR w))
  | 108 => .ok (.fsqrtF32 (unpackR w))
  | 109 => .ok (.fsqrtF64 (unpackR w))
  | 110 => .ok (.frcpF32 (unpackR w))
  | 111 => .ok (.frsqF32 (unpackR w))
  | 112 => .ok (.fex2F32 (unpackR w))
  | 113 => .ok (.flg2F32 (unpackR w))
  | 114 => .ok (.fsinF32 (unpackR w))
  | 115 => .ok (.fcosF32 (unpackR w))
  | 116 => .ok (.fldxF32 (unpackR w))
  | 117 => .ok (.fldxF64 (unpackR w))
  | 118 => if (unpackR w).b == 0 then .ok (.ffrxF32Frac (unpackR w)) else if (unpackR w).b == 1 then .ok (.ffrxF32Exp (unpackR w)) else .error (.reservedKind w)
  | 119 => if (unpackR w).b == 0 then .ok (.ffrxF64Frac (unpackR w)) else if (unpackR w).b == 1 then .ok (.ffrxF64Exp (unpackR w)) else .error (.reservedKind w)
  | 120 => .ok (.cvtff (unpackR w))
  | 121 => .ok (.cvtfi (unpackR w))
  | 122 => .ok (.cvtif (unpackR w))
  | 123 => .ok (.pk8 (unpackR w))
  | 124 => .ok (.unpk8 (unpackR w))
  | 125 => .ok (.pkbs (unpackR w))
  | 126 => .ok (.fdot2H2 (unpackR w))
  | 127 => .ok (.fdot2Bh2 (unpackR w))
  | 128 => .ok (.shflIdx (unpackR w))
  | 129 => .ok (.shflUp (unpackR w))
  | 130 => .ok (.shflDown (unpackR w))
  | 131 => .ok (.shflXor (unpackR w))
  | 132 => .ok (.voteAll (unpackR w))
  | 133 => .ok (.voteAny (unpackR w))
  | 134 => .ok (.voteEq (unpackR w))
  | 135 => .ok (.voteBallot (unpackR w))
  | 136 => .ok (.redux (unpackR w))
  | 137 => if (unpackR w).b == 0 then .ok (.matchSet (unpackR w)) else if (unpackR w).b == 1 then .ok (.matchLead (unpackR w)) else .error (.reservedKind w)
  | 138 => .ok (.laneb (unpackR w))
  | 144 => .ok (.bra (unpackB w))
  | 145 => .ok (.brau (unpackB w))
  | 146 => .ok (.brx (unpackR w))
  | 147 => .ok (.call (unpackB w))
  | 148 => .ok (.callx (unpackR w))
  | 149 => .ok (.ret (unpackR w))
  | 150 => .ok (.bdec (unpackB w))
  | 152 => .ok (.yield (unpackR w))
  | 153 => .ok (.exit (unpackR w))
  | 154 => .ok (.nop (unpackR w))
  | 155 => .ok (.trap (unpackE w))
  | 156 => .ok (.brk (unpackE w))
  | 160 => .ok (.ld8s (unpackM w))
  | 161 => .ok (.ld8n (unpackM w))
  | 162 => .ok (.ld16s (unpackM w))
  | 163 => .ok (.ld16n (unpackM w))
  | 164 => .ok (.ld32 (unpackM w))
  | 165 => .ok (.ld64 (unpackM w))
  | 166 => .ok (.ld128 (unpackM w))
  | 167 => .ok (.st8 (unpackM w))
  | 168 => .ok (.st16 (unpackM w))
  | 169 => .ok (.st32 (unpackM w))
  | 170 => .ok (.st64 (unpackM w))
  | 171 => .ok (.st128 (unpackM w))
  | 172 => .ok (.pf (unpackM w))
  | 174 => .ok (.rwb (unpackM w))
  | 175 => .ok (.rinv (unpackM w))
  | 176 => .ok (.amoAdd32 (unpackM w))
  | 177 => .ok (.amoAdd64 (unpackM w))
  | 178 => .ok (.amoFaddF32 (unpackM w))
  | 179 => .ok (.amoFaddBh2 (unpackM w))
  | 180 => .ok (.amoMinS32 (unpackM w))
  | 181 => .ok (.amoMinN32 (unpackM w))
  | 182 => .ok (.amoMaxS32 (unpackM w))
  | 183 => .ok (.amoMaxN32 (unpackM w))
  | 184 => .ok (.amoAnd32 (unpackM w))
  | 185 => .ok (.amoOr32 (unpackM w))
  | 186 => .ok (.amoXor32 (unpackM w))
  | 187 => .ok (.amoXchg32 (unpackM w))
  | 188 => .ok (.amoXchg64 (unpackM w))
  | 189 => .ok (.amoCas32 (unpackM w))
  | 190 => .ok (.amoCas64 (unpackM w))
  | 191 => .ok (.amoIncN32 (unpackM w))
  | 192 => if (unpackE w).m.toNat / 8 == 4 then .ok (.fenceAcq (unpackE w)) else if (unpackE w).m.toNat / 8 == 2 then .ok (.fenceRel (unpackE w))
      else if (unpackE w).m.toNat / 8 == 6 then .ok (.fenceAr (unpackE w)) else if (unpackE w).m.toNat / 8 == 7 then .ok (.fenceSc (unpackE w))
      else .error (.reservedKind w)
  | 193 => .ok (.bar (unpackE w))
  | 194 => .ok (.bara (unpackE w))
  | 195 => .ok (.barw (unpackE w))
  | 196 => .ok (.mbini (unpackE w))
  | 197 => .ok (.mbarv (unpackE w))
  | 198 => .ok (.mbwait (unpackE w))
  | 199 => .ok (.mbtst (unpackE w))
  | 200 => .ok (.dyield (unpackE w))
  | 201 => .ok (.regreq (unpackE w))
  | 202 => .ok (.regrel (unpackE w))
  | 203 => .ok (.feq (unpackE w))
  | 204 => .ok (.hbind (unpackE w))
  | 205 => .ok (.hqry (unpackE w))
  | 206 => .ok (.smap (unpackE w))
  | 207 => .ok (.sunmap (unpackE w))
  | 208 => .ok (.cpy (unpackE w))
  | 209 => .ok (.cpq (unpackE w))
  | 210 => .ok (.tld (unpackE w))
  | 211 => .ok (.tst (unpackE w))
  | 212 => .ok (.tzero (unpackE w))
  | 213 => if (unpackE w).m.toNat / 4 == 0 then .ok (.tmovFromTile (unpackE w)) else if (unpackE w).m.toNat / 4 == 8 then .ok (.tmovToTile (unpackE w))
      else .error (.reservedKind w)
  | 214 => .ok (.mma (unpackE w))
  | 215 => .ok (.mlut (unpackE w))
  | 216 => .ok (.mgath (unpackE w))
  | 217 => .ok (.mfence (unpackE w))
  | 218 => .ok (.mwait (unpackE w))
  | 219 => .ok (.rowcpy (unpackE w))
  | 220 => .ok (.rowfill (unpackE w))
  | 221 => .ok (.rowop (unpackE w))
  | 222 => .ok (.gang (unpackE w))
  | 223 => .ok (.regn (unpackE w))
  | 224 => .ok (.srr (unpackE w))
  | 225 => .ok (.srw (unpackE w))
  | 226 => if (unpackE w).m == 0 then .ok (.tret (unpackE w)) else if (unpackE w).m == 1 then .ok (.tretKill (unpackE w)) else .error (.reservedKind w)
  | 227 => .ok (.gcall (unpackE w))
  | 228 => .ok (.gret (unpackE w))
  | 229 => .ok (.gqry (unpackE w))
  | 230 => .ok (.fork (unpackE w))
  | 231 => .ok (.join (unpackE w))
  | 232 => if (unpackE w).m == 0 then .ok (.tlbiVa (unpackE w)) else if (unpackE w).m == 1 then .ok (.tlbiAsid (unpackE w)) else if (unpackE w).m == 2 then .ok (.tlbiAll (unpackE w)) else .error (.reservedKind w)
  | 233 => if (unpackE w).m == 0 then .ok (.cmaintClean (unpackE w)) else if (unpackE w).m == 1 then .ok (.cmaintFlush (unpackE w)) else if (unpackE w).m == 2 then .ok (.cmaintSweep (unpackE w)) else .error (.reservedKind w)
  | 234 => if (unpackE w).m == 0 then .ok (.dresume (unpackE w)) else if (unpackE w).m == 1 then .ok (.dresumeStep (unpackE w)) else .error (.reservedKind w)
  | n => if n < 240 then .error (.unassigned w)
         else if n < 245 then .error (.hintWord w) else .error (.reservedHint w)

/-- The instruction a word holds, or why it holds none. -/
def decodeWord (w : Word) : Except Reject Instr := decodeOp (opcodeOf w) w

/-- Four bytes as a word, the lowest address first (R1). -/
def wordOfBytes (b0 b1 b2 b3 : Byte) : Word := b3 ++ b2 ++ b1 ++ b0

/-- The bytes of a word, the lowest address first (R1). -/
def bytesOfWord (w : Word) : List Byte :=
  [w.extractLsb' 0 8, w.extractLsb' 8 8, w.extractLsb' 16 8, w.extractLsb' 24 8]

/-- Adds a hint word to the hints of a unit: none when its kind stands there already (R72, 3). -/
def Hints.add (h : Hints) (w : Word) : Option Hints :=
  let p := w.extractLsb' 0 24
  match opcodeOf w with
  | 0xF0 => if h.ximm.isNone then some { h with ximm := some p } else none
  | 0xF1 => if h.xsrc.isNone then some { h with xsrc := some p } else none
  | 0xF2 => if h.xrnd.isNone then some { h with xrnd := some p } else none
  | 0xF3 => if h.xsch.isNone then some { h with xsch := some p } else none
  | 0xF4 => if h.xrcv.isNone then some { h with xrcv := some p } else none
  | _ => none

/-- A unit: hint words, the instruction word, and what decodes from it. -/
structure DUnit where
  hints : Hints
  word : Word
  words : Nat
  instr : Except Reject Instr

/-- The unit that starts a list of words: at most two hint words of different kinds, then an instruction
(R72). A malformed sequence is reported before the instruction's opcode (R83, checks 1 and 2). -/
def unitOfWords : List Word → Hints → Nat → Except Reject DUnit
  | [], _, _ => .error .short
  | w :: ws, h, n =>
    match decodeWord w with
    | .error (.reservedHint _) => .error (if n == 0 then .reservedHint w else .malformed)
    | .error (.hintWord _) =>
      if n == 2 then .error .malformed
      else match h.add w with
        | none => .error .malformed
        | some h' => unitOfWords ws h' (n + 1)
    | .error (.unassigned _) => .error (if n == 0 then .unassigned w else .malformed)
    | r => .ok { hints := h, word := w, words := n + 1, instr := r }

/-- The words of a list of bytes, in memory order; bytes that fill no word are dropped. -/
def wordsOfBytes : List Byte → List Word
  | b0 :: b1 :: b2 :: b3 :: bs => wordOfBytes b0 b1 b2 b3 :: wordsOfBytes bs
  | _ => []

/-- The unit that starts a list of bytes, and the bytes after it. -/
def decodeBytes (bs : List Byte) : Except Reject (DUnit × List Byte) :=
  match unitOfWords (wordsOfBytes bs) {} 0 with
  | .error r => .error r
  | .ok u => .ok (u, bs.drop (4 * u.words))

/-- The instruction read from a word whose bits are `w`, numbered as the opcode table numbers them. The
word is laid out as the hardware stores it and given to the decoder. -/
def decodeTableWord (nbits w : Nat) : Option Instr :=
  if nbits ≤ 32 then
    match decodeBytes (bytesOfWord (BitVec.ofNat 32 (w % 2 ^ nbits))) with
    | .ok (u, _) => u.instr.toOption
    | .error _ => none
  else none

/-- The word of opcode `op` with the fields of each format (R62). -/
def packR (op : BitVec 8) (x : RF) : Word := op ++ x.d ++ x.a ++ x.b ++ x.g ++ x.h ++ x.f
def packI (op : BitVec 8) (x : IF) : Word := op ++ x.d ++ x.a ++ x.imm
def packK (op : BitVec 8) (x : KF) : Word := op ++ x.d ++ x.imm
def packB (op : BitVec 8) (x : BF) : Word := op ++ x.g ++ x.n ++ x.off
def packM (op : BitVec 8) (x : MF) : Word := op ++ x.d ++ x.a ++ x.x ++ x.g ++ x.o ++ x.i ++ x.sc
def packE (op : BitVec 8) (x : EF) : Word := op ++ x.d ++ x.a ++ x.b ++ x.m

/-- The word of an instruction; the steps of the device have none. -/
def encode : Instr → Option Word
  | .iadd32 x => some (packR 0x00 x)
  | .iadd64 x => some (packR 0x01 x)
  | .isub32 x => some (packR 0x02 x)
  | .isub64 x => some (packR 0x03 x)
  | .iaddc32 x => some (packR 0x04 x)
  | .isubb32 x => some (packR 0x05 x)
  | .imul32 x => some (packR 0x06 x)
  | .imul64 x => some (packR 0x07 x)
  | .imulhS32 x => some (packR 0x08 x)
  | .imulhN32 x => some (packR 0x09 x)
  | .imad32 x => some (packR 0x0A x)
  | .imad64 x => some (packR 0x0B x)
  | .iminS32 x => some (packR 0x0C x)
  | .iminN32 x => some (packR 0x0D x)
  | .imaxS32 x => some (packR 0x0E x)
  | .imaxN32 x => some (packR 0x0F x)
  | .iabs x => some (packR 0x10 x)
  | .ineg x => some (packR 0x11 x)
  | .andW x => some (packR 0x12 x)
  | .orW x => some (packR 0x13 x)
  | .xorW x => some (packR 0x14 x)
  | .andn x => some (packR 0x15 x)
  | .orn x => some (packR 0x16 x)
  | .notW x => some (packR 0x17 x)
  | .shl32 x => some (packR 0x18 x)
  | .shr32 x => some (packR 0x19 x)
  | .sar32 x => some (packR 0x1A x)
  | .rol32 x => some (packR 0x1B x)
  | .shl64 x => some (packR 0x1C x)
  | .shr64 x => some (packR 0x1D x)
  | .sar64 x => some (packR 0x1E x)
  | .fsh x => some (packR 0x1F x)
  | .popc x => some (packR 0x20 x)
  | .clz x => some (packR 0x21 x)
  | .ctz x => some (packR 0x22 x)
  | .brev x => some (packR 0x23 x)
  | .bfxS x => some (packR 0x24 x)
  | .bfxN x => some (packR 0x25 x)
  | .bfi x => some (packR 0x26 x)
  | .bperm x => some (packR 0x27 x)
  | .sel x => some (packR 0x28 x)
  | .icmp32 x => some (packR 0x29 x)
  | .icmp64 x => some (packR 0x2A x)
  | .kop x => some (packR 0x2B x)
  | .kmovKv x => some (packR 0x2C x)
  | .kmovVk x => some (packR 0x2D x)
  | .mov x => some (packR 0x2E x)
  | .mov64 x => some (packR 0x2F x)
  | .iaddi32 x => some (packI 0x30 x)
  | .iaddi64 x => some (packI 0x31 x)
  | .andi x => some (packI 0x32 x)
  | .ori x => some (packI 0x33 x)
  | .xori x => some (packI 0x34 x)
  | .shli x => some (packI 0x35 x)
  | .shri x => some (packI 0x36 x)
  | .sari x => some (packI 0x37 x)
  | .icmpi32 x => some (packI 0x38 x)
  | .imuli32 x => some (packI 0x39 x)
  | .lea2 x => some (packR 0x3A x)
  | .lea4 x => some (packR 0x3B x)
  | .lea8 x => some (packR 0x3C x)
  | .lea16 x => some (packR 0x3D x)
  | .movi x => some (packK 0x3E x)
  | .movhi x => some (packK 0x3F x)
  | .faddF64 x => some (packR 0x40 x)
  | .faddF32 x => some (packR 0x41 x)
  | .faddH2 x => some (packR 0x42 x)
  | .faddBh2 x => some (packR 0x43 x)
  | .fsubF64 x => some (packR 0x44 x)
  | .fsubF32 x => some (packR 0x45 x)
  | .fsubH2 x => some (packR 0x46 x)
  | .fsubBh2 x => some (packR 0x47 x)
  | .fmulF64 x => some (packR 0x48 x)
  | .fmulF32 x => some (packR 0x49 x)
  | .fmulH2 x => some (packR 0x4A x)
  | .fmulBh2 x => some (packR 0x4B x)
  | .ffmaF64 x => some (packR 0x4C x)
  | .ffmaF32 x => some (packR 0x4D x)
  | .ffmaH2 x => some (packR 0x4E x)
  | .ffmaBh2 x => some (packR 0x4F x)
  | .fminF64 x => some (packR 0x50 x)
  | .fminF32 x => some (packR 0x51 x)
  | .fminH2 x => some (packR 0x52 x)
  | .fminBh2 x => some (packR 0x53 x)
  | .fmaxF64 x => some (packR 0x54 x)
  | .fmaxF32 x => some (packR 0x55 x)
  | .fmaxH2 x => some (packR 0x56 x)
  | .fmaxBh2 x => some (packR 0x57 x)
  | .fminnF64 x => some (packR 0x58 x)
  | .fminnF32 x => some (packR 0x59 x)
  | .fminnH2 x => some (packR 0x5A x)
  | .fminnBh2 x => some (packR 0x5B x)
  | .fmaxnF64 x => some (packR 0x5C x)
  | .fmaxnF32 x => some (packR 0x5D x)
  | .fmaxnH2 x => some (packR 0x5E x)
  | .fmaxnBh2 x => some (packR 0x5F x)
  | .fcmpF64 x => some (packR 0x60 x)
  | .fcmpF32 x => some (packR 0x61 x)
  | .fcmpH2 x => some (packR 0x62 x)
  | .fcmpBh2 x => some (packR 0x63 x)
  | .fabs x => some (packR 0x64 x)
  | .fneg x => some (packR 0x65 x)
  | .fcpysF32 x => some (packR 0x66 x)
  | .fcpysF64 x => some (packR 0x67 x)
  | .fclass x => some (packR 0x68 x)
  | .frnd x => some (packR 0x69 x)
  | .fdivF32 x => some (packR 0x6A x)
  | .fdivF64 x => some (packR 0x6B x)
  | .fsqrtF32 x => some (packR 0x6C x)
  | .fsqrtF64 x => some (packR 0x6D x)
  | .frcpF32 x => some (packR 0x6E x)
  | .frsqF32 x => some (packR 0x6F x)
  | .fex2F32 x => some (packR 0x70 x)
  | .flg2F32 x => some (packR 0x71 x)
  | .fsinF32 x => some (packR 0x72 x)
  | .fcosF32 x => some (packR 0x73 x)
  | .fldxF32 x => some (packR 0x74 x)
  | .fldxF64 x => some (packR 0x75 x)
  | .ffrxF32Frac x => some (packR 0x76 x)
  | .ffrxF32Exp x => some (packR 0x76 x)
  | .ffrxF64Frac x => some (packR 0x77 x)
  | .ffrxF64Exp x => some (packR 0x77 x)
  | .cvtff x => some (packR 0x78 x)
  | .cvtfi x => some (packR 0x79 x)
  | .cvtif x => some (packR 0x7A x)
  | .pk8 x => some (packR 0x7B x)
  | .unpk8 x => some (packR 0x7C x)
  | .pkbs x => some (packR 0x7D x)
  | .fdot2H2 x => some (packR 0x7E x)
  | .fdot2Bh2 x => some (packR 0x7F x)
  | .shflIdx x => some (packR 0x80 x)
  | .shflUp x => some (packR 0x81 x)
  | .shflDown x => some (packR 0x82 x)
  | .shflXor x => some (packR 0x83 x)
  | .voteAll x => some (packR 0x84 x)
  | .voteAny x => some (packR 0x85 x)
  | .voteEq x => some (packR 0x86 x)
  | .voteBallot x => some (packR 0x87 x)
  | .redux x => some (packR 0x88 x)
  | .matchSet x => some (packR 0x89 x)
  | .matchLead x => some (packR 0x89 x)
  | .laneb x => some (packR 0x8A x)
  | .bra x => some (packB 0x90 x)
  | .brau x => some (packB 0x91 x)
  | .brx x => some (packR 0x92 x)
  | .call x => some (packB 0x93 x)
  | .callx x => some (packR 0x94 x)
  | .ret x => some (packR 0x95 x)
  | .bdec x => some (packB 0x96 x)
  | .yield x => some (packR 0x98 x)
  | .exit x => some (packR 0x99 x)
  | .nop x => some (packR 0x9A x)
  | .trap x => some (packE 0x9B x)
  | .brk x => some (packE 0x9C x)
  | .ld8s x => some (packM 0xA0 x)
  | .ld8n x => some (packM 0xA1 x)
  | .ld16s x => some (packM 0xA2 x)
  | .ld16n x => some (packM 0xA3 x)
  | .ld32 x => some (packM 0xA4 x)
  | .ld64 x => some (packM 0xA5 x)
  | .ld128 x => some (packM 0xA6 x)
  | .st8 x => some (packM 0xA7 x)
  | .st16 x => some (packM 0xA8 x)
  | .st32 x => some (packM 0xA9 x)
  | .st64 x => some (packM 0xAA x)
  | .st128 x => some (packM 0xAB x)
  | .pf x => some (packM 0xAC x)
  | .rwb x => some (packM 0xAE x)
  | .rinv x => some (packM 0xAF x)
  | .amoAdd32 x => some (packM 0xB0 x)
  | .amoAdd64 x => some (packM 0xB1 x)
  | .amoFaddF32 x => some (packM 0xB2 x)
  | .amoFaddBh2 x => some (packM 0xB3 x)
  | .amoMinS32 x => some (packM 0xB4 x)
  | .amoMinN32 x => some (packM 0xB5 x)
  | .amoMaxS32 x => some (packM 0xB6 x)
  | .amoMaxN32 x => some (packM 0xB7 x)
  | .amoAnd32 x => some (packM 0xB8 x)
  | .amoOr32 x => some (packM 0xB9 x)
  | .amoXor32 x => some (packM 0xBA x)
  | .amoXchg32 x => some (packM 0xBB x)
  | .amoXchg64 x => some (packM 0xBC x)
  | .amoCas32 x => some (packM 0xBD x)
  | .amoCas64 x => some (packM 0xBE x)
  | .amoIncN32 x => some (packM 0xBF x)
  | .fenceAcq x => some (packE 0xC0 x)
  | .fenceRel x => some (packE 0xC0 x)
  | .fenceAr x => some (packE 0xC0 x)
  | .fenceSc x => some (packE 0xC0 x)
  | .bar x => some (packE 0xC1 x)
  | .bara x => some (packE 0xC2 x)
  | .barw x => some (packE 0xC3 x)
  | .mbini x => some (packE 0xC4 x)
  | .mbarv x => some (packE 0xC5 x)
  | .mbwait x => some (packE 0xC6 x)
  | .mbtst x => some (packE 0xC7 x)
  | .dyield x => some (packE 0xC8 x)
  | .regreq x => some (packE 0xC9 x)
  | .regrel x => some (packE 0xCA x)
  | .feq x => some (packE 0xCB x)
  | .hbind x => some (packE 0xCC x)
  | .hqry x => some (packE 0xCD x)
  | .smap x => some (packE 0xCE x)
  | .sunmap x => some (packE 0xCF x)
  | .cpy x => some (packE 0xD0 x)
  | .cpq x => some (packE 0xD1 x)
  | .tld x => some (packE 0xD2 x)
  | .tst x => some (packE 0xD3 x)
  | .tzero x => some (packE 0xD4 x)
  | .tmovFromTile x => some (packE 0xD5 x)
  | .tmovToTile x => some (packE 0xD5 x)
  | .mma x => some (packE 0xD6 x)
  | .mlut x => some (packE 0xD7 x)
  | .mgath x => some (packE 0xD8 x)
  | .mfence x => some (packE 0xD9 x)
  | .mwait x => some (packE 0xDA x)
  | .rowcpy x => some (packE 0xDB x)
  | .rowfill x => some (packE 0xDC x)
  | .rowop x => some (packE 0xDD x)
  | .gang x => some (packE 0xDE x)
  | .regn x => some (packE 0xDF x)
  | .srr x => some (packE 0xE0 x)
  | .srw x => some (packE 0xE1 x)
  | .tret x => some (packE 0xE2 x)
  | .tretKill x => some (packE 0xE2 x)
  | .gcall x => some (packE 0xE3 x)
  | .gret x => some (packE 0xE4 x)
  | .gqry x => some (packE 0xE5 x)
  | .fork x => some (packE 0xE6 x)
  | .join x => some (packE 0xE7 x)
  | .tlbiVa x => some (packE 0xE8 x)
  | .tlbiAsid x => some (packE 0xE8 x)
  | .tlbiAll x => some (packE 0xE8 x)
  | .cmaintClean x => some (packE 0xE9 x)
  | .cmaintFlush x => some (packE 0xE9 x)
  | .cmaintSweep x => some (packE 0xE9 x)
  | .dresume x => some (packE 0xEA x)
  | .dresumeStep x => some (packE 0xEA x)
  | .gcallStoreGrant _ => none
  | .loadDataReturn _ _ => none
  | .remotePendingTimeout _ => none
  | .barPhaseResume _ _ => none
  | .mbwaitWake _ => none
  | .dyieldWake _ => none
  | .dyieldLimitExpiry _ => none
  | .regreqGrant _ => none
  | .regreqDeadlockEvict _ => none
  | .faultReplay _ => none
  | .faultDeliver _ => none
  | .breakpointHalt _ => none
  | .matrixBatchComplete _ => none
  | .gangRelease _ _ => none
  | .matrixEngineReset _ => none
  | .tileEccError _ _ => none
  | .drainLimitExpiry _ => none
  | .copyRunLanded _ _ => none
  | .cpqSlotFree _ => none
  | .cpqEntryRun _ _ => none
  | .cpqFlagAtomic _ _ => none
  | .rowWritten _ => none
  | .eccRecomputeDone _ => none
  | .gets _ _ => none
  | .getm _ _ => none
  | .upg _ _ => none
  | .putm _ _ => none
  | .pute _ _ => none
  | .l2Eviction _ _ => none
  | .earlyDifference _ _ => none
  | .deviceReleaseRun _ => none
  | .diffRecordMerge _ _ => none
  | .mergeAck _ => none
  | .coherenceSweep => none
  | .linkSleep _ => none
  | .linkWake _ => none
  | .linkTrainingFailure _ _ => none
  | .dieLostTimeout _ => none
  | .dieRejoin _ => none
  | .blockDispatch _ _ _ => none
  | .blockSave _ => none
  | .blockRestore _ _ _ => none
  | .joinWake _ => none
  | .regionComplete _ => none
  | .preemptDeadline _ => none
  | .handlerDeadlineKill _ => none
  | .doorbellWrite _ _ => none
  | .launch _ => none
  | .preempt _ => none
  | .resume _ => none
  | .kill _ => none
  | .map _ => none
  | .unmap _ => none
  | .migrate _ => none
  | .dieReset _ => none
  | .linkPower _ => none
  | .attest _ => none
  | .traceCfg _ => none
  | .replayCfg _ => none
  | .powerCap _ => none
  | .query _ => none
  | .queryWrite _ => none
  | .boot _ _ => none
  | .powerArbiterTick => none
  | .soundingReplan => none
  | .hotnessIntervalEnd _ => none
  | .unassignedOpcode _ => none
  | .fetchFault _ _ _ => none
  | .tldRunLanded _ _ => none
  | .homeSliceAccess _ => none
  | .storeAcknowledged _ _ => none
  | .linkError _ => none

/-- The words of an instruction, as a list: empty for a step of the device. -/
def encodeWords (i : Instr) : List Word := (encode i).toList

end Sys2Proof
end

