-- ==== Sys2Proof/Machine/State.lean ====
section
/-! DEFINITION. The state of the package as plain data: everything the spec gives the machine
(INVENTORY.md, '## State'), the reset state, and the reasons a step can stop. -/

namespace Sys2Proof.Machine

open Sys2Proof

/-- Why the machine stops. Each is safe: the model stops where the device has no such step. -/
inductive Fault where
  /-- An instruction without an issuing split: raised by the meanings of the encoded instructions when
  `cur` names no split of a resident block. No such step exists on the device. Safe. -/
  | noIssuingSplit
  /-- A step of the device whose condition does not hold in this state (its name): raised by the
  meanings of the device's own steps. The device does not take such a step. Safe. -/
  | notEnabled (step : String)
  /-- A step of the device one of whose messages waits for a die link that sleeps or trains (R287): raised by `stepIf`.
  The link is woken, and the step is taken later. Safe. -/
  | asleep (link : Nat)
  /-- An access to a physical address in no range of the address map (R435: unpopulated): raised by
  `finish`. Safe. -/
  | unpopulated (pa : Nat)
  deriving DecidableEq, Repr

/-- Why an instruction has no meaning here. -/
inductive Refusal where
  /-- The instruction is not modelled: raised by an arm of `exec` only. Safe. -/
  | notModelled (mnemonic : String)
  deriving DecidableEq, Repr

/-- The 32 words of a register, lane 0 first (R6). -/
abbrev Row := List Word

/-- An entry of a mask stack is pending or rejoin (R32). -/
inductive MKind where
  | pending | rejoin
  deriving DecidableEq, Repr

/-- An entry of the mask stack MSTK (R32). -/
structure MEntry where
  kind : MKind
  pc : Pc
  mask : Mask
  deriving DecidableEq, Repr

/-- An entry of the reconvergence list RLIST (R32). -/
structure REntry where
  ra : Pc
  exp : Mask
  deriving DecidableEq, Repr

/-- ATTR of a handle-table entry with its device and die (R226). -/
structure Attr where
  space : Nat
  policy : Nat
  r : Bool
  w : Bool
  a : Bool
  row : Bool
  dev : Nat
  die : Nat
  deriving DecidableEq, Repr

/-- The leaf a translation went through: frame size and base, permissions, class, page address (R384). -/
structure Leaf where
  vbase : Nat
  pbase : Nat
  size : Nat
  y : Bool
  w : Bool
  x : Bool
  h : Bool
  d : Bool
  g : Bool
  cc : Nat
  asid : Nat
  pte : Nat
  deriving DecidableEq, Repr

/-- The frame of a binding: the physical address, and the leaf it was made through (R227, R386). -/
structure Frame where
  pa : Nat
  leaf : Leaf
  deriving DecidableEq, Repr

/-- A binding in handle form (R227). `lazy` says that it is to be made again at its first access
(R227, R379). -/
structure HandleX where
  index : Nat
  boff : Nat
  vbase : Nat
  bound : Nat
  attr : Attr
  frame : Option Frame
  limit : Nat
  lazy : Bool
  deriving DecidableEq, Repr

/-- A translation register X[n] (R53, R227, R379). -/
inductive XReg where
  | unbound
  | scratch
  | cluster
  | handle (h : HandleX)
  | stash (id : Nat)
  | callerTable (base size : Nat)
  deriving DecidableEq, Repr

/-- An endpoint of a copy or tile load: the binding as it stood at issue, and the offset (R332, R404). -/
structure Endpoint where
  x : XReg
  off : Int
  deriving DecidableEq, Repr

/-- An entry of a copy queue (R405, R406); `wait` is the token of the fault record it waits on (R403,
R408); handler level, address space and fault domain are those of its issue. -/
structure CpqEntry where
  id : Nat
  grp : GRef
  level : Nat
  fdom : Nat
  depth : Nat
  src : Endpoint
  len : Nat
  read : Nat
  landed : Nat
  remote : Bool
  recvDie : Nat
  dst : HandleX
  flag : Option (HandleX × Word)
  obj : Option Nat
  rel : Bool
  scope : Nat
  asid : Nat
  data : List Byte
  started : Bool
  wait : Option Nat
  deriving DecidableEq, Repr

/-- The wake condition of a split at a blocking point (R351); `abort` is that of a callee that is being aborted, whose
accesses and engine instructions are to complete (R382). -/
inductive Wake where
  | bar (name phase : Nat)
  | mbwait (off : Nat) (p : BitVec 16)
  | dyield (x1 : Bool) (off : Int) (val : Word) (sd : Nat) (start limit : Nat)
  | regreq (n : Nat)
  | mwait (n : Nat)
  | mfence
  | join
  | cpq (queue : Nat) (e : CpqEntry)
  | gcall (index : Nat)
  | remote (id : Nat)
  | home
  | yielded
  | abort (cause : Nat)
  deriving DecidableEq, Repr

/-- A trap cause with its detail (R365, R366). -/
structure TrapInfo where
  cause : Nat
  detail : Nat := 0
  opnd : Nat := 0
  acc : Nat := 0
  deriving DecidableEq, Repr

/-- A split parked on a memory fault: cause, FAULTVA, the unfinished lanes, and the token of its fault
record while the helm cores serve it; the v registers whose FE bits the unit left clear, the s registers it has
still to write, and whether it has still to raise exceptions (R55, R231, R370, R372). -/
structure Parked where
  info : TrapInfo
  va : BitVec 64
  mask : Mask
  token : Option Nat
  vregs : List Nat
  sregs : List Nat
  fl : Bool := false
  deriving DecidableEq, Repr

/-- STATE of a split (R32). A blocked split names the unit's successor as well; one that waits for operands names
the v registers, with the lanes, and the s registers that it waits for (R51, R351). -/
inductive SplitSt where
  | ready
  | operand (v : List (Nat × Mask)) (s : List Nat)
  | blocked (w : Wake) (next : Pc)
  | parkedRa
  | parkedFault (p : Parked)
  deriving DecidableEq, Repr

/-- A unit that is to be executed again (R231, R370): its lanes, the registers that it left pending, on
which it does not wait, whether it has exceptions still to raise, and the address at which it faulted (R256). -/
structure Replay where
  mask : Mask
  vregs : List Nat
  sregs : List Nat
  fl : Bool := false
  va : BitVec 64 := 0
  deriving DecidableEq, Repr

/-- One entry of the split table (R32); MDEPTH is the length of `mstk`, whose head is its top. `lastIssue` is the
cycle of its core at which it issued last (R350); `pendSince` the cycle since which its own load or atomic waits for a
home in reset (R51, R289); `relNext` the address after a release that waits, and its scope (R288). -/
structure Split where
  pc : Pc
  mask : Mask
  st : SplitSt
  rlist : List REntry
  mstk : List MEntry
  replay : Option Replay
  lastIssue : Nat
  pendSince : Option Nat := none
  relNext : Option (Pc × Nat) := none
  deriving DecidableEq, Repr

/-- MESI state of a first-level or stash line (R261); I is absence. -/
inductive Mesi where
  | m | e | s
  deriving DecidableEq, Repr

/-- A first-level line (R261): number PA[51:7], state, 128 bytes, dirty-byte mask. -/
structure L1Line where
  line : Nat
  st : Mesi
  data : List Byte
  mask : BitVec 128
  deriving DecidableEq, Repr

/-- A line of a stash (R208): index in the stash, physical line, class, state, data, dirty mask. -/
structure StashLine where
  idx : Nat
  line : Nat
  cc : Nat
  st : Mesi
  data : List Byte
  mask : BitVec 128
  deriving DecidableEq, Repr

/-- A stash (R207, R255) of the block's scratchpad, or of the callee scratchpad of group `grp` at gate
depth `depth`. -/
structure Stash where
  id : Nat
  grp : Nat
  depth : Nat
  scr : Nat
  size : Nat
  va : Nat
  asid : Nat
  attr : Attr
  lines : List StashLine
  deriving DecidableEq, Repr

/-- A directory entry (R262). -/
inductive Dir where
  | i
  | s (cores : List Nat)
  | sv (clusters : List Nat)
  | em (core : Nat)
  deriving DecidableEq, Repr

/-- A twin (R267): its data, whether dirty, and when it was first marked dirty. -/
structure Twin where
  data : List Byte
  dirty : Bool
  since : Nat
  deriving DecidableEq, Repr

/-- A die's L2 copy of a line: data, dirty-byte mask, directory entry, twin (R258, R262, R267, R282). -/
structure L2Line where
  line : Nat
  data : List Byte
  mask : BitVec 128
  dir : Dir
  twin : Option Twin
  cc : Nat
  deriving DecidableEq, Repr

/-- A run of a difference record: first byte and data (R271). -/
structure Run where
  off : Nat
  data : List Byte
  deriving DecidableEq, Repr

/-- A difference record in flight from its sender to a home: its bytes (R271), whether the home has applied it, and
the wall cycle at which it was sent (R288). -/
structure DiffRec where
  src : Nat
  bytes : List Byte
  merged : Bool
  sent : Nat := 0
  deriving DecidableEq, Repr

/-- A way of a signature table (R278). -/
structure SigWay where
  line : Nat
  entry : Sig
  used : Nat
  deriving DecidableEq, Repr

/-- Run state of a die (R422 item 2). -/
inductive DieSt where
  | running | inReset | lost
  deriving DecidableEq, Repr

/-- What stands in a launch queue: a launch, or a saved block at its front (R348). -/
inductive QItem where
  | launch (rcb : Nat)
  | block (blk : Nat)
  deriving DecidableEq, Repr

/-- A fault record in a die's fault queue (R372, R403); `moved` says that its page was being moved, so that it is
replayed (R431). -/
structure FaultRec where
  token : Nat
  va : BitVec 64
  asid : Nat
  fdom : Nat
  info : TrapInfo
  core : CoreId
  slot : Nat
  mask : Mask
  moved : Bool := false
  deriving DecidableEq, Repr

/-- One compute die (14, 18 R348, 21 R405). `lastServed` names the queue served last at each priority;
`fdoms` holds the fault domains that had a block there after its last completed release run (R288). -/
structure Die where
  st : DieSt
  copies : List L2Line
  csig : Sig
  rseq : BitVec 32
  sigs : List SigWay
  ev : List Nat
  twincap : Nat
  lq : List (Nat × QItem)
  lastServed : List Nat
  cq : List (Nat × CpqEntry)
  faultq : List FaultRec
  served : Nat
  fdoms : List Nat
  deriving DecidableEq, Repr

/-- A cached leaf (R386) is a `Leaf`; an entry of the operand latch names its registers, two for a 64-bit value,
and its split (R47). -/
structure LatchEnt where
  grp : GRef
  sp : Nat
  regs : List Nat
  left : Nat
  deriving DecidableEq, Repr

/-- What a core holds besides its resident blocks. -/
structure Core where
  id : CoreId
  l1 : List L1Line
  tlb : List Leaf
  brk : List Word
  latch : List LatchEnt
  deriving DecidableEq, Repr

/-- The context of a group (R362): address space, fault domain, tables, callee scratchpad, and what a
service region control block supplies (R378). -/
structure Ctx where
  asid : Nat
  fdom : Nat
  htab : Nat
  hcount : Nat
  gtab : Nat
  gcount : Nat
  prio : Nat
  mailbox : Nat
  trace : Nat
  deriving DecidableEq, Repr

/-- The trap registers of one handler level (R389). -/
structure TrapRegs where
  cause : Word
  pc : BitVec 64
  mask : Mask
  va : BitVec 64
  info : Word
  deriving DecidableEq, Repr

/-- A handler frame (R367). `sp` is the entry of the trapping split; `pend` the unit it left parked, with
its address (R370). -/
structure HFrame where
  splits : List (Option Split)
  sp : Nat
  pend : Option (Pc × Parked)
  s : List Word
  k6 : Mask
  k7 : Mask
  x6 : XReg
  x7 : XReg
  flags : Word
  htab : Nat
  hcount : Nat
  regs : TrapRegs
  debug : Bool
  deriving DecidableEq, Repr

/-- A barrier-unit phase record of one name (R211). -/
structure Barrier where
  isOpen : Bool
  low : Word
  high : Word
  count : Word
  arrivals : Nat
  phase : Nat
  deriving DecidableEq, Repr

/-- The records of a format block that the unit keeps (R315). -/
structure FmtRec where
  fmt : Nat
  blk : Nat
  stride : Nat
  soff : Nat
  deriving DecidableEq, Repr

/-- An instruction in a group's matrix queue (R319). -/
inductive MWork where
  | tzero (tile : Nat)
  | mgath (lat : Nat) (bases : List Nat) (idx : List Word)
  | mma (tile lat boff foff : Nat) (fa fb : FmtRec) (fbBytes : List Byte) (lut : Bool)
      (gang : Option Nat) (held : Bool)
  deriving DecidableEq, Repr

/-- A queued matrix instruction with its identity, the number of its batch, none while the batch is open, and the
handler level of its issue (R393). -/
structure MItem where
  id : Nat
  work : MWork
  batch : Option Nat
  level : Nat
  deriving DecidableEq, Repr

/-- A `TMOV` from a tile that waits for work on the tile: the work it waits on, its destination registers,
first column and lanes, and the handler level of its issue (R334, R393). -/
structure PendTmov where
  tile : Nat
  waits : List Nat
  d : Nat
  count : Nat
  col : Nat
  lanes : Mask
  level : Nat
  deriving DecidableEq, Repr

/-- An A latch (R318). -/
structure ALatch where
  valid : Bool
  rows : List (List Byte)
  idx : List Word
  deriving DecidableEq, Repr

/-- A load or atomic whose data is on its way (R49, R52); `acq` holds later memory and engine instructions
of its split until it completes (R235, R247), and `stash` is the stash that it goes through, for which `SUNMAP` waits
(R256). -/
structure PendLoad where
  id : Nat
  sp : Nat
  acq : Bool
  lanes : Mask
  v : List (Nat × Row)
  s : List (Nat × Word)
  flags : Word
  remote : Bool
  since : Nat
  stash : Option Nat := none
  deriving DecidableEq, Repr

/-- An engine fault that waits for delivery (R338, R402); `depth` is the gate depth of the instruction, which says
whose scratchpad holds the object. -/
structure EFault where
  info : TrapInfo
  va : BitVec 64
  obj : Option Nat
  depth : Nat
  matrix : Bool
  /-- of a tile load (R332) -/
  tld : Bool := false
  deriving DecidableEq, Repr

/-- What a gate frame keeps of the caller (R395), and what the call's entry needs at its end. -/
structure GateFrame where
  ret : Pc
  ctx : Ctx
  vb : Nat
  regcnt : Nat
  s : List Word
  k : List Mask
  v : List Row
  fe : List Mask
  x : List XReg
  flags : Word
  rgnpc : Pc
  rgnOpen : Bool
  splits : List (Option Split)
  gatestat : Word
  scr : List Host.Cell
  scrSize : Nat
  vr : Nat
  sr : Nat
  abort : Bool
  deriving DecidableEq, Repr

/-- A deadline of pre-emption that runs (R352). -/
structure Deadline where
  start : Nat
  cycles : Nat
  second : Bool
  deriving DecidableEq, Repr

/-- One group (03, 20). `step` names the split that a `DRESUME.step` resumed; its flag says that its next unit
has issued (R377). `yielded` says that the group has executed `YIELD` and has not issued since (R190). -/
structure Group where
  slot : Nat
  splits : List (Option Split)
  v : List Row
  fe : List Mask
  s : List Word
  k : List Mask
  x : List XReg
  flags : Word
  vb : Nat
  regcnt : Nat
  rgncnt : Word
  rgnpc : Pc
  rgnOpen : Bool
  level : Nat
  debug : Bool
  frames : List HFrame
  trap : TrapRegs
  /-- the pending s registers of parked units that the handler code has written (R370) -/
  freshS : List Nat
  gates : List GateFrame
  gatestat : Word
  ctx : Ctx
  calleeScr : List Host.Cell
  calleeSize : Nat
  latches : List ALatch
  mq : List MItem
  batches : List Nat
  nextBatch : Nat
  loads : List PendLoad
  tmovs : List PendTmov
  unacked : List Nat
  relSig : Sig
  acqSig : Sig
  relPending : Bool
  efaults : List EFault
  lastBar : List (Option Nat)
  async : List (Nat × Nat)
  step : Option (Nat × Bool)
  yielded : Bool
  deadline : Option Deadline
  preempting : Bool
  restart : Bool
  ended : Bool
  deriving DecidableEq, Repr

/-- Where a block stands. -/
inductive BlkSt where
  | resident | saved | waitingJoin | ended | killed
  deriving DecidableEq, Repr

/-- One block (11, 17 R321, 18 R354). `tiles` holds 2048 words per tile, element (i, j) at 64 i + j.
`tbase` is the core's tile register that its first tile is (R313), `drain` the cycle at which a pre-empted block's groups
all stood at blocking points (R353); `evicted` says that its save is under R221; `recorded` holds
the queue entries that its restore enters again (R355). -/
structure Block where
  st : BlkSt
  rcb : Nat
  index : Nat
  core : CoreId
  sbk : Nat
  cohort : Nat
  rank : Nat
  age : Nat
  scr : List Host.Cell
  scrSize : Nat
  stashes : List Stash
  bars : List Barrier
  gang : List (BitVec 16)
  tiles : List (List Word)
  tbase : Nat
  children : Nat
  groups : List Group
  drain : Option Nat
  evicted : Bool
  recorded : List (Nat × CpqEntry)
  /-- the region control blocks that the block has forked (R359) -/
  kids : List Nat := []
  deriving DecidableEq, Repr

/-- A launch record (R346). -/
structure LaunchRec where
  entry : Nat
  grid : Nat
  gpb : Nat
  regs : Nat
  tiles : Nat
  cohort : Nat
  scratch : Nat
  param : Nat
  almanac : Nat
  almn : Nat
  queue : Nat
  rcb : Nat
  ranges : List (Nat × Nat)
  waits : List (Nat × Nat)
  deriving DecidableEq, Repr

/-- The components of a time-loss record so far, but QUEUE, which is the rest (R427). -/
structure TimeLoss where
  fault : Nat
  io : Nat
  engine : Nat
  other : Nat
  deriving DecidableEq, Repr

/-- A region with its resolved fields (R342) and launch record. The `*Of` fields name the region whose
count a budget uses (R342). `pend` lists the undispatched blocks per die: (die, next, last). -/
structure Region where
  rcb : Nat
  parent : Option Nat
  kind : Nat
  prio : Nat
  pclass : Nat
  deadline : Nat
  cores : Nat
  regu : Nat
  spu : Nat
  tileu : Nat
  coresOf : Nat
  reguOf : Nat
  spuOf : Nat
  tileuOf : Nat
  asid : Nat
  fdom : Nat
  hcount : Nat
  htab : Nat
  gtab : Nat
  gcount : Nat
  tloss : Nat
  trace : Nat
  mailbox : Nat
  save : Nat
  lrec : LaunchRec
  st : Nat
  compl : Nat
  children : Nat
  pend : List (Nat × Nat × Nat)
  stopped : List Nat
  dies : List Nat
  haltSeq : Nat
  forkBlk : Option Nat
  ioWait : Bool
  tl : TimeLoss
  deriving DecidableEq, Repr

/-- State of a die link (R283 to R288, R422 item 3); `up` is the wall cycle of its last link-up, `busy` that of its last
traffic, `waking` that since which a message waits for it. -/
structure Link where
  up : Nat := 0
  busy : Nat := 0
  waking : Option Nat := none
  asleep : Bool
  failed : Bool
  failures : Nat
  held : Bool
  table : List Byte
  owner : Option Nat
  deriving DecidableEq, Repr

/-- A fault-domain descriptor (R363). -/
structure Domain where
  hentry : Nat
  dentry : Nat
  htab : Nat
  hcount : Nat
  valid : Bool
  deriving DecidableEq, Repr

/-- A command queue (R419). -/
structure CmdQueue where
  base : Nat
  count : Nat
  head : Nat
  tail : Nat
  deriving DecidableEq, Repr

/-- Boot state (R422 item 0, R423). -/
inductive BootSt where
  | off | running | recovery
  deriving DecidableEq, Repr

/-- Power and ageing (R432, R433); `tick` and `sound` are the wall cycles of the last division and of the last
soundings. -/
structure Power where
  cap : Nat
  watts : Nat
  steps : List Nat
  margin : List Nat
  delay : List Nat
  tick : Nat
  sound : Nat
  deriving DecidableEq, Repr

/-- Page hotness (R430): interval in us, counters (controller, row, index, count), last lists, and the wall
cycle at which each controller's interval began. -/
structure Hot where
  interval : Nat
  sketch : List (Nat × Nat × Nat × Nat)
  lists : List (Nat × List (Nat × Nat))
  since : List Nat
  deriving DecidableEq, Repr

/-- The reckoning log (R428): per line and per group and line the operations performed so far, and the
regions for which a replay is no longer enforced (R429). -/
structure Reckon where
  mode : Nat
  addr : Nat
  size : Nat
  written : Nat
  stopped : Bool
  ords : List (Nat × Nat)
  amoOrds : List (GRef × Nat × Nat)
  diverged : List Nat
  deriving DecidableEq, Repr

/-- An event of a helm core as the reckoning log holds it (R428): kind 0 to 3, DATA and AUX. -/
structure HelmEvent where
  kind : Nat
  data : Nat
  aux : Nat
  deriving DecidableEq, Repr

/-- A helm core (R25, R428): its `minstret`, the event that it took last, in replay the number of the first log entry
that it has not passed, and the program counter and the integer, floating-point and vector registers of its profile
(PRESUMED from RISC-V, log entry 75). -/
structure Helm where
  minstret : BitVec 64
  event : Option HelmEvent
  next : Nat
  pc : BitVec 64 := 0
  x : List DWord := List.replicate 32 0
  f : List DWord := List.replicate 32 0
  v : List (List Byte) := List.replicate 32 (List.replicate 16 0)
  deriving DecidableEq, Repr

/-- A migration under way (R431): its command, the address and the old value of the page table entry, the page's leaf,
the new frame, and the number of the step that comes next. -/
structure Migration where
  cmd : CmdEntry
  pte : Nat
  old : Nat
  leaf : Leaf
  frame : Nat
  stage : Nat
  deriving DecidableEq, Repr

/-- What Rolger posted with a status word (R419, R420): the queue, the entry's TAG, result and detail. -/
structure Status where
  queue : Nat
  tag : Nat
  result : Nat
  detail : Nat
  deriving DecidableEq, Repr

/-- What Rolger reports or posts to the helm OS. -/
inductive Report where
  | killed (rcb cause : Nat)
  | handlerNest (rcb : Nat)
  | engineFault (core : CoreId)
  /-- `ENGINE_FAULT` of a home slice that received a malformed record of a line (R271) -/
  | recordFault (line : Nat)
  | undelivered (rcb cause : Nat)
  /-- the trace unit of a descriptor has stopped (R426) -/
  | traceStopped (desc : Nat)
  | logStopped
  | dieLost (die fdom : Nat)
  | replayDivergence (line : Nat)
  | bootFailed (tries : Nat)
  deriving DecidableEq, Repr

/-- What a copy or row instruction, or a tile load, is doing (R332, R404, R411). -/
inductive EngKind where
  | copy (dst src : Endpoint) (len done : Nat)
  | tld (tile : Nat) (src : Endpoint) (done : Nat) (poison : Bool)
  | rowcpy (dst src : List Nat) (done : Nat)
  | rowfill (dst : List Nat) (pat : BitVec 64) (done : Nat)
  | rowop (op : Nat) (dst s1 s2 s3 : List Nat) (done : Nat)
  deriving DecidableEq, Repr

/-- An engine instruction issued and not complete (R401). -/
structure EngOp where
  id : Nat
  grp : GRef
  sp : Nat
  depth : Nat
  level : Nat
  kind : EngKind
  obj : Nat
  rel : Bool
  scope : Nat
  asid : Nat
  fdom : Nat
  die : Nat
  wait : Option Nat
  began : Bool
  deriving DecidableEq, Repr

/-- The unit being issued: its split, its first word's address, the address after it, its hint words and
the lanes it acts for. The model's own field (log entry 3). -/
structure Cur where
  ref : SRef
  unit : Pc
  next : Pc
  hints : Hints
  active : Mask
  replay : Option Replay
  deriving DecidableEq, Repr

/-- What an access of a step could not reach: the home slices of a die in reset or lost (R288, R289), a die link that
sleeps or trains (R287), a row group whose check bits are being recomputed (R415), a line at which a replay holds a
merge (R428). The step is then not taken. The model's own type (log entry 64). -/
inductive Away where
  | home (die : Nat)
  | link (l : Nat)
  | ecc (grp : Nat)
  | turn (line : Nat)
  deriving DecidableEq, Repr

/-- The whole package. -/
structure State where
  wall : BitVec 64
  cycles : List (BitVec 64)
  dram : List Host.Cell
  hostMem : List Host.Cell
  remote : List Host.Cell
  map : List MapRange
  links : List Link
  inbound : Sig
  boot : BootSt
  imageVersion : BitVec 32
  imageDigest : List Byte
  fencePa : Nat
  roots : List (Nat × Nat)
  domains : List (Nat × Domain)
  queues : List CmdQueue
  taken : List CmdEntry
  pending : List CmdEntry
  /-- the commands under way that the loss of a die has ended (R420) -/
  lostCmds : List CmdEntry
  statuses : List Status
  headless : Bool
  tables : List Nat
  /-- the frames that Rolger has mapped, as address and size, and the migrations under way (R431) -/
  frames : List (Nat × Nat)
  migrations : List Migration
  power : Power
  hot : Hot
  reckon : Reckon
  reports : List Report
  /-- the helm cores (R25), and where the image that runs on them starts (R423) -/
  helms : List Helm
  helmEntry : Nat
  /-- the trace descriptors whose units have stopped at a shootdown (R426) -/
  tracesOff : List Nat
  regions : List Region
  dies : List Die
  cores : List Core
  blocks : List Block
  engines : List EngOp
  records : List DiffRec
  eccBad : List Nat
  eccPending : List Nat
  sweepOwed : Bool
  /-- the fault records that the helm cores of other packages serve (R408) -/
  farFaults : List FaultRec
  nextId : Nat
  /-- what the home slices have answered: data and the entry of a strong access (R264, R278) -/
  replies : List (List Byte × Sig)
  /-- the model's own fields (INVENTORY.md) -/
  agenda : List Instr
  cur : Option Cur
  free : Nat
  steps : Nat
  badPa : Option Nat
  away : Option Away
  deriving DecidableEq, Repr

/-- A die after reset (R269, R272, R277, R278). -/
def Die.reset : Die :=
  { st := .running, copies := [], csig := 0, rseq := 0, sigs := [], ev := [], twincap := 64,
    lq := [], lastServed := List.replicate 8 63, cq := [], faultq := [], served := 0, fdoms := [] }

/-- The default almanac (R286): entries 0 to 15 are 0x60, entries 16 to 255 are 0x80. -/
def defaultAlmanac : List Byte := List.replicate 16 0x60 ++ List.replicate 240 0x80

/-- A link after reset (R286; awake, DESIGN CHOICE, log entry 5). -/
def Link.reset : Link :=
  { asleep := false, failed := false, failures := 0, held := false, table := defaultAlmanac,
    owner := none }

/-- The package right after reset: the values the spec states, and for the rest those of log entries 1,
2 and 5. Nothing is booted, launched or placed. -/
def State.reset : State :=
  { wall := 0, cycles := List.replicate 16 0, dram := [], hostMem := [], remote := [], map := [],
    links := List.replicate 6 Link.reset, inbound := 0, boot := .off, imageVersion := 0,
    imageDigest := [], fencePa := 0, roots := [],
    domains := [], queues := List.replicate 16 { base := 0, count := 0, head := 0, tail := 0 },
    taken := [], pending := [], lostCmds := [], statuses := [], headless := false, tables := [],
    frames := [], migrations := [],
    power := { cap := 3600, watts := 0, steps := List.replicate 16 32, margin := List.replicate 16 0,
               delay := List.replicate 16 0, tick := 0, sound := 0 },
    hot := { interval := 1000, sketch := [], lists := [], since := List.replicate 24 0 },
    reckon := { mode := 0, addr := 0, size := 0, written := 0, stopped := false, ords := [],
                amoOrds := [], diverged := [] },
    reports := [], helms := List.replicate 16 { minstret := 0, event := none, next := 0 }, helmEntry := 0,
    tracesOff := [], regions := [], dies := List.replicate 4 Die.reset, cores := [], blocks := [],
    engines := [], records := [], eccBad := [], eccPending := [], sweepOwed := false, farFaults := [],
    nextId := 0, replies := [],
    agenda := [], cur := none, free := 0, steps := 0, badPa := none, away := none }

end Sys2Proof.Machine
end

