-- ==== Sys2Proof/Machine/Bits.lean ====
section
/-! DEFINITION. Bits, bytes, lanes and lists: the plain helpers the meanings share (00 R1, R5, R7). -/

namespace Sys2Proof.Machine

open Sys2Proof

/-- The mask of the lanes for which `f` holds (R5). -/
def maskOf (f : Nat → Bool) : Mask := (BitVec.ofBoolListLE (lanes.map f)).setWidth 32

/-- The lanes of a mask, ascending (R7). -/
def lanesOf (m : Mask) : List Nat := lanes.filter (fun L => m.getLsbD L)

/-- The lowest lane of a mask, 0 where it has none. -/
def lowLane (m : Mask) : Nat := (lanesOf m).headD 0

/-- The number of lanes of a mask. -/
def countLanes (m : Mask) : Nat := (lanesOf m).length

/-- The number of bits set in a 1024-bit signature (R281). -/
def sigCount (e : Sig) : Nat := ((List.range 1024).filter (fun i => e.getLsbD i)).length

/-- Bits [hi:lo] of a number (R7). -/
def bitsN (x hi lo : Nat) : Nat := x / 2 ^ lo % 2 ^ (hi - lo + 1)

/-- Bits [hi:lo] of a word (R7). -/
def bitsW (x : Word) (hi lo : Nat) : Nat := bitsN x.toNat hi lo

/-- A number as a word, modulo 2^32. -/
def wd (n : Nat) : Word := BitVec.ofNat 32 n

/-- The little-endian number of a list of bytes (R1). -/
def natOfBytes : List Byte → Nat
  | [] => 0
  | b :: bs => b.toNat + 256 * natOfBytes bs

/-- `n` bytes of a number, the lowest first (R1). -/
def bytesOfNat : Nat → Nat → List Byte
  | 0, _ => []
  | n + 1, v => BitVec.ofNat 8 v :: bytesOfNat n (v / 256)

/-- The number in bytes [off + n - 1 : off] of a record. -/
def fieldN (bs : List Byte) (off n : Nat) : Nat := natOfBytes ((bs.drop off).take n)

/-- The words of a list of bytes, four bytes each. -/
def wordsOf (bs : List Byte) (n : Nat) : List Word :=
  (List.range n).map (fun i => wd (fieldN bs (4 * i) 4))

/-- A pair of words as a 64-bit value, low half first (R41). -/
def pairOf (lo hi : Word) : DWord := hi ++ lo

/-- The low half of a 64-bit value. -/
def lo32 (x : DWord) : Word := x.extractLsb' 0 32
/-- The high half of a 64-bit value. -/
def hi32 (x : DWord) : Word := x.extractLsb' 32 32

/-- An integer as an address offset: none when it is negative. -/
def natOfInt (i : Int) : Option Nat := if i < 0 then none else some i.toNat

/-- A list with element `i` changed by `f`; unchanged where there is none. -/
def modAt {α : Type} (l : List α) (i : Nat) (f : α → α) : List α :=
  match l[i]? with
  | some a => l.set i (f a)
  | none => l

/-- The first element that satisfies `p` changed by `f`. -/
def modFirst {α : Type} (p : α → Bool) (f : α → α) : List α → List α
  | [] => []
  | a :: l => if p a then f a :: l else a :: modFirst p f l

/-- The list without its first element that satisfies `p`. -/
def dropFirst {α : Type} (p : α → Bool) : List α → List α
  | [] => []
  | a :: l => if p a then l else a :: dropFirst p l

/-- The indices 0 to n - 1 whose element satisfies `p`. -/
def indicesWhere {α : Type} (p : α → Bool) (l : List α) : List Nat :=
  (List.range l.length).filter (fun i => match l[i]? with | some a => p a | none => false)

/-- The numbers from `a`, `n` of them. -/
def range' (a n : Nat) : List Nat := (List.range n).map (· + a)

/-- Inserts a number into a rising list, once. -/
def insertNat (x : Nat) : List Nat → List Nat
  | [] => [x]
  | a :: l => if x < a then x :: a :: l else if x == a then a :: l else a :: insertNat x l

/-- The distinct elements of a list, rising. -/
def sortedSet (l : List Nat) : List Nat := l.foldr insertNat []

/-- The least number of a list, by a key; none for the empty list. -/
def minBy {α : Type} (key : α → Nat) : List α → Option α
  | [] => none
  | a :: l => match minBy key l with
    | none => some a
    | some b => if key b < key a then some b else some a

/-- The runs of equal length cuts of a list: `n` pieces of `k`. -/
def chunks {α : Type} (k : Nat) : Nat → List α → List (List α)
  | 0, _ => []
  | n + 1, l => l.take k :: chunks k n (l.drop k)

/-- Rotates a 10- or 12-bit number left by `n` within `w` bits. -/
def rotlN (w n x : Nat) : Nat := (x * 2 ^ n) % 2 ^ w + (x % 2 ^ w) / 2 ^ (w - n)

/-- The program counter of a 64-bit value, and back (R32). -/
def pcOf (x : DWord) : Pc := x.setWidth 55
def pcTo64 (p : Pc) : DWord := p.setWidth 64

end Sys2Proof.Machine
end

