-- ==== Sys2Proof/Machine/Memory.lean ====
section
/-! DEFINITION. A byte memory as a list of cells in one canonical form: addresses strictly rising, no cell
that holds what an unlisted address reads as; and the accessors of the parts of the state. -/

namespace Sys2Proof.Machine

open Sys2Proof

/-- What an address that no cell lists reads as. DESIGN CHOICE (log entry 2). -/
def Memory.default : Byte := 0

/-- The byte at an address. -/
def Memory.get (m : List Host.Cell) (a : Nat) : Byte :=
  match m with
  | [] => Memory.default
  | c :: cs => if c.1 == a then c.2 else if a < c.1 then Memory.default else Memory.get cs a

/-- Stores one byte, keeping the canonical form. -/
def Memory.set (m : List Host.Cell) (a : Nat) (b : Byte) : List Host.Cell :=
  match m with
  | [] => if b == Memory.default then [] else [(a, b)]
  | c :: cs =>
    if c.1 == a then (if b == Memory.default then cs else (a, b) :: cs)
    else if a < c.1 then (if b == Memory.default then c :: cs else (a, b) :: c :: cs)
    else c :: Memory.set cs a b

/-- Whether the addresses of a list of cells rise strictly above `lo` and no cell holds the default. -/
def Memory.wfFrom (lo : Option Nat) : List Host.Cell → Bool
  | [] => true
  | c :: cs => (match lo with | none => true | some l => decide (l < c.1)) &&
      c.2 != Memory.default && Memory.wfFrom (some c.1) cs

/-- The canonical form: addresses strictly rising, no cell at the default. -/
def Memory.wf (m : List Host.Cell) : Bool := Memory.wfFrom none m

/-- `n` bytes from an address. -/
def Memory.read (m : List Host.Cell) (a : Nat) : Nat → List Byte
  | 0 => []
  | n + 1 => Memory.get m a :: Memory.read m (a + 1) n

/-- Stores bytes from an address. -/
def Memory.write (m : List Host.Cell) (a : Nat) : List Byte → List Host.Cell
  | [] => m
  | b :: bs => Memory.write (Memory.set m a b) (a + 1) bs

/-- Stores the bytes whose mask bit is set; `i` numbers the first byte. -/
def Memory.writeMasked (m : List Host.Cell) (a : Nat) (mask : BitVec 128) (i : Nat) :
    List Byte → List Host.Cell
  | [] => m
  | b :: bs =>
    Memory.writeMasked (if mask.getLsbD i then Memory.set m (a + i) b else m) a mask (i + 1) bs

/-- The cells of a memory below an address. -/
def Memory.below (m : List Host.Cell) (n : Nat) : List Host.Cell := m.filter (fun c => c.1 < n)

/-- The bytes of a list with those of a mask taken from another list. -/
def overlay (old new : List Byte) (mask : BitVec 128) : List Byte :=
  (List.range 128).map (fun i => if mask.getLsbD i then new.getD i 0 else old.getD i 0)

/-- The mask of `n` bytes from offset `o` of a line. -/
def byteMask (o n : Nat) : BitVec 128 := BitVec.ofNat 128 ((2 ^ n - 1) * 2 ^ o)

/-- The bytes of a line with `bs` put at offset `o`. -/
def spliceAt (line : List Byte) (o : Nat) (bs : List Byte) : List Byte :=
  line.take o ++ bs ++ line.drop (o + bs.length)

/-- The block of a number, resident or not. -/
def State.block? (s : State) (b : Nat) : Option Block := s.blocks[b]?

/-- The group of a reference. -/
def State.group? (s : State) (r : GRef) : Option Group :=
  (s.blocks[r.blk]?).bind (fun b => b.groups[r.grp]?)

/-- The split of a reference. -/
def State.split? (s : State) (r : SRef) : Option Split :=
  (s.group? ⟨r.blk, r.grp⟩).bind (fun g => (g.splits.getD r.sp none))


def State.modBlock (s : State) (b : Nat) (f : Block → Block) : State :=
  { s with blocks := modAt s.blocks b f }

def Block.modGroup (b : Block) (i : Nat) (f : Group → Group) : Block :=
  { b with groups := modAt b.groups i f }

def State.modGroup (s : State) (r : GRef) (f : Group → Group) : State :=
  s.modBlock r.blk (fun b => b.modGroup r.grp f)

/-- The state with a group replaced. -/
def State.putGroup (s : State) (r : GRef) (g : Group) : State := s.modGroup r (fun _ => g)

def Group.modSplit (g : Group) (i : Nat) (f : Split → Split) : Group :=
  { g with splits := modAt g.splits i (Option.map f) }

def State.modSplit (s : State) (r : SRef) (f : Split → Split) : State :=
  s.modGroup r.gref (fun g => g.modSplit r.sp f)

def State.modDie (s : State) (d : Nat) (f : Die → Die) : State := { s with dies := modAt s.dies d f }

/-- The die of a number; a die out of range reads as one after reset. -/
def State.die (s : State) (d : Nat) : Die := s.dies.getD d Die.reset

/-- A core that holds nothing. -/
def Core.empty (c : CoreId) : Core :=
  { id := c, l1 := [], tlb := [], brk := List.replicate 8 0, latch := [] }

/-- What a core holds; a core that the list does not name holds nothing. -/
def State.core (s : State) (c : CoreId) : Core :=
  (s.cores.find? (fun k => k.id == c)).getD (Core.empty c)

/-- Changes what a core holds. -/
def State.modCore (s : State) (c : CoreId) (f : Core → Core) : State :=
  if s.cores.any (fun k => k.id == c) then
    { s with cores := modFirst (fun k => k.id == c) f s.cores }
  else { s with cores := s.cores ++ [f (Core.empty c)] }

def State.region? (s : State) (rcb : Nat) : Option Region := s.regions.find? (fun r => r.rcb == rcb)

def State.modRegion (s : State) (rcb : Nat) (f : Region → Region) : State :=
  { s with regions := modFirst (fun r => r.rcb == rcb) f s.regions }

/-- The region of a group. -/
def State.regionOf (s : State) (r : GRef) : Option Region :=
  (s.blocks[r.blk]?).bind (fun b => s.region? b.rcb)

/-- The core a block is placed on, or was placed on last. -/
def State.coreOf (s : State) (b : Nat) : CoreId :=
  match s.blocks[b]? with
  | some k => k.core
  | none => ⟨0, 0, 0⟩

/-- Whether a block stands on a core. -/
def State.resident (s : State) (b : Nat) : Bool :=
  match s.blocks[b]? with | some k => k.st == .resident | none => false

/-- A fresh identity. -/
def State.fresh (s : State) : Nat × State := (s.nextId, { s with nextId := s.nextId + 1 })

/-- The next free natural number (log entry 6). -/
def State.freeN (s : State) : Nat × State := (Config.freeNat s.free, { s with free := s.free + 1 })

/-- The next free word (log entry 6). -/
def State.freeW (s : State) : Word × State := (Config.freeWord s.free, { s with free := s.free + 1 })

/-- Adds a report of Rolger. -/
def State.report (s : State) (r : Report) : State := { s with reports := s.reports ++ [r] }

/-- The island of a core's cluster (R26): four per die, the uncore last. -/
def islandOf (c : CoreId) : Nat := 4 * c.die + c.cluster

/-- Cycles of a core so far. -/
def State.cyclesOf (s : State) (c : CoreId) : Nat := (s.cycles.getD (islandOf c) 0).toNat

/-- The resident blocks of a core, by number. -/
def State.blocksOn (s : State) (c : CoreId) : List Nat :=
  indicesWhere (fun b => b.st == .resident && b.core == c) s.blocks

/-- The resident groups of a core. -/
def State.groupsOn (s : State) (c : CoreId) : List GRef :=
  (s.blocksOn c).flatMap (fun b =>
    match s.blocks[b]? with
    | some k => (List.range k.groups.length).map (fun g => ⟨b, g⟩)
    | none => [])

/-- Bytes rounded up to 1 KiB (R198). -/
def kib (n : Nat) : Nat := (n + 1023) / 1024 * 1024

/-- The store of a core, and what windows and scratchpads together may take of it (R198). -/
def storeSize : Nat := 384 * 1024
def storeLimit : Nat := 352 * 1024

/-- Whether a group's window has been released (R191). -/
def Group.released (g : Group) : Bool := g.ended && g.loads.isEmpty

/-- The windows of a group: its own and those of the callers of its gate calls (R395). -/
def Group.windows (g : Group) : List (Nat × Nat) :=
  if g.released then []
  else (g.vb, 128 * g.regcnt) :: g.gates.map (fun f => (f.vb, 128 * f.regcnt))

/-- The bytes of store that a group takes: its windows and its callee scratchpads (R198, R379). -/
def Group.store (g : Group) : Nat :=
  (g.windows.map (·.2)).sum + (if g.released then 0
    else kib g.calleeSize + (g.gates.map (fun f => kib f.scrSize)).sum)

/-- The bytes of store that a block takes (R198). -/
def Block.store (b : Block) : Nat := (b.groups.map (·.store)).sum + kib b.scrSize

/-- The bytes of store in use on a core. -/
def State.coreStore (s : State) (c : CoreId) : Nat :=
  ((s.blocksOn c).map (fun n => match s.blocks[n]? with | some b => b.store | none => 0)).sum

end Sys2Proof.Machine
end

