-- ==== Sys2Proof/Machine/Coherence.lean ====
section
/-! DEFINITION. Coherence inside a die and across dies (14): homes, the directory, first-level copies,
twins, difference records, signatures, acquires, sweeps and software-managed lines. -/

namespace Sys2Proof.Machine

open Sys2Proof

/-- The range of the address map that holds a physical address (R435). -/
def State.rangeOf (s : State) (pa : Nat) : Option MapRange :=
  s.map.find? (fun r => r.base ≤ pa && pa < r.base + r.size)

/-- The die of a range's target (R435). -/
def targetDie : MapTarget → Option Nat
  | .hbm k => some (k / 2)
  | .cxl p => some (p / 4)
  | .host => none

/-- The home die of a physical address: none for host memory and unpopulated addresses (R258). -/
def State.homeOf (s : State) (pa : Nat) : Option Nat := (s.rangeOf pa).bind (fun r => targetDie r.target)

/-- The home die of a line. -/
def State.homeOfLine (s : State) (line : Nat) : Option Nat := s.homeOf (line * 128)

/-! ## What a step could not reach -/

/-- Notes what an access of this step could not reach: the first such thing counts (log entry 64). -/
def State.unreached (s : State) (a : Away) : State := { s with away := some (s.away.getD a) }

/-- A request to the home slices of a die: one in reset or lost does not answer (R288, R289). -/
def State.ask (s : State) (h : Nat) : State := if (s.die h).st == .running then s else s.unreached (.home h)

/-- The two dies of a link (R283). -/
def linkDies (l : Nat) : List Nat :=
  ([[0, 1], [0, 2], [0, 3], [1, 2], [1, 3], [2, 3]] : List (List Nat)).getD l []

/-- The link between two dies (R283). -/
def linkOf (a b : Nat) : Option Nat := (List.range 6).find? (fun l => linkDies l == [min a b, max a b])

def State.modLink (s : State) (l : Nat) (f : Link → Link) : State := { s with links := modAt s.links l f }

/-- A link that sleeps or trains comes up at a wall cycle (R287, R288). -/
def Link.woken (l : Link) (now : Nat) : Link :=
  { l with asleep := false, failed := false, waking := none, up := now, busy := now }

/-- A message from one die to another (R287): a link that sleeps or trains holds it. -/
def State.carry (s : State) (a b : Nat) : State :=
  match (if a == b then none else linkOf a b) with
  | none => s
  | some l => match s.links[l]? with
    | none => s
    | some k => if k.asleep || k.failed then s.unreached (.link l)
      else s.modLink l (fun k => { k with busy := s.wall.toNat })

/-- A message of a die to the home of a line. -/
def State.reach (s : State) (d line : Nat) : State :=
  match s.homeOfLine line with
  | some h => s.carry d h
  | none => s

/-- The lines that hold `n` bytes from an address. -/
def linesOf (pa n : Nat) : List Nat := range' (pa / 128) ((pa + n + 127) / 128 - pa / 128)

/-- The messages of a die to the homes of some bytes. -/
def State.reachAll (s : State) (d pa n : Nat) : State := (linesOf pa n).foldl (fun s l => s.reach d l) s

/-- Rotates left within ten bits (R277). -/
def rotl10 (n x : Nat) : Nat := rotlN 10 n x

/-- The four hash bits of a line number (R277). -/
def sigBits (l : Nat) : List Nat :=
  let f := fun j => bitsN l (10 * j + 9) (10 * j)
  [f 0 ^^^ f 1, f 0 ^^^ f 2 ^^^ f 4, f 1 ^^^ f 3, f 2 ^^^ f 3 ^^^ rotl10 5 (f 4)]

/-- `Sig(L)` (R277). -/
def sigOfLine (l : Nat) : Sig := (sigBits l).foldl (fun e b => e ||| BitVec.ofNat 1024 (2 ^ b)) 0

/-- Whether an entry names a line (R277). -/
def sigNames (e : Sig) (l : Nat) : Bool := (sigBits l).all (fun b => e.getLsbD b)

/-- The pointer of a core: cluster in [9:8], core in [7:0] (R262). -/
def corePtr (c : CoreId) : Nat := 256 * c.cluster + c.core
/-- The core of a pointer on a die. -/
def ptrCore (d p : Nat) : CoreId := ⟨d, p / 256, p % 256⟩

/-- A die's copy of a line. -/
def State.l2? (s : State) (d line : Nat) : Option L2Line :=
  (s.die d).copies.find? (fun k => k.line == line)

/-- Changes a die's copy of a line, if it has one. -/
def State.modL2 (s : State) (d line : Nat) (f : L2Line → L2Line) : State :=
  s.modDie d (fun k => { k with copies := modFirst (fun c => c.line == line) f k.copies })

/-- Drops a die's copy of a line. -/
def State.dropL2 (s : State) (d line : Nat) : State :=
  s.modDie d (fun k => { k with copies := dropFirst (fun c => c.line == line) k.copies })

/-- A core's first-level copy of a line. -/
def State.l1? (s : State) (c : CoreId) (line : Nat) : Option L1Line :=
  (s.core c).l1.find? (fun k => k.line == line)

def State.modL1 (s : State) (c : CoreId) (line : Nat) (f : L1Line → L1Line) : State :=
  s.modCore c (fun k => { k with l1 := modFirst (fun x => x.line == line) f k.l1 })

def State.dropL1 (s : State) (c : CoreId) (line : Nat) : State :=
  s.modCore c (fun k => { k with l1 := k.l1.filter (fun x => x.line != line) })

/-- Changes every line of a block's stashes that stands for a physical line; `none` drops it. -/
def Block.mapStash (b : Block) (line : Nat) (f : StashLine → Option StashLine) : Block :=
  { b with stashes := b.stashes.map (fun t =>
      { t with lines := t.lines.filterMap (fun x => if x.line == line then f x else some x) }) }

def State.mapStash (s : State) (c : CoreId) (line : Nat) (f : StashLine → Option StashLine) : State :=
  { s with blocks := s.blocks.map (fun b =>
      if b.st == .resident && b.core == c then b.mapStash line f else b) }

/-- The stash lines of a core that stand for a physical line. -/
def State.stashLines (s : State) (c : CoreId) (line : Nat) : List StashLine :=
  (s.blocksOn c).flatMap (fun n => match s.blocks[n]? with
    | some b => b.stashes.flatMap (fun t => t.lines.filter (fun x => x.line == line))
    | none => [])

/-- Whether a core holds a first-level or stash copy of a line. -/
def State.coreHolds (s : State) (c : CoreId) (line : Nat) : Bool :=
  (s.l1? c line).isSome || !(s.stashLines c line).isEmpty

/-- The cores of a die that hold a first-level or stash copy of a line. -/
def State.holders (s : State) (d line : Nat) : List CoreId :=
  let cs := (s.cores.map (·.id)) ++ (s.blocks.filter (fun b => b.st == .resident)).map (·.core)
  (cs.filter (fun c => c.die == d && s.coreHolds c line)).eraseDups

/-- The slice copy takes dirty bytes: data, and the mask where the copy keeps one: SW lines anywhere
(R264, R282) and every line on its home die (what DRAM does not hold yet). -/
def L2Line.take (k : L2Line) (atHome : Bool) (data : List Byte) (mask : BitVec 128) : L2Line :=
  { k with data := overlay k.data data mask,
           mask := if k.cc == 1 || atHome then k.mask ||| mask else k.mask }

/-- The controller of a range's target: 0 to 7 the stacks, 8 to 23 the ports (R422, item 8). -/
def targetCtrl : MapTarget → Option Nat
  | .hbm k => some k
  | .cxl p => some (8 + p)
  | .host => none

/-- The four counter indices of a page number (R430). -/
def hotIndices (p : Nat) : List Nat :=
  let g := fun i => bitsN p (12 * i + 11) (12 * i)
  let r := fun n x => rotlN 12 n x
  [g 0 ^^^ g 1 ^^^ g 2, g 0 ^^^ r 4 (g 1) ^^^ r 8 (g 2), r 4 (g 0) ^^^ r 8 (g 1) ^^^ g 2,
   r 8 (g 0) ^^^ g 1 ^^^ r 4 (g 2)]

/-- A counter of a sketch (R430). -/
def Hot.count (h : Hot) (c j u : Nat) : Nat :=
  match h.sketch.find? (fun x => x.1 == c && x.2.1 == j && x.2.2.1 == u) with
  | some x => x.2.2.2
  | none => 0

/-- Counts `n` more accesses in a counter, which saturates (R430). -/
def Hot.bump (h : Hot) (c j u : Nat) (n : Nat := 1) : Hot :=
  { h with
    sketch := (c, j, u, min 0xFFFF (h.count c j u + n)) ::
      h.sketch.filter (fun x => !(x.1 == c && x.2.1 == j && x.2.2.1 == u)) }

/-- A memory controller counts an access of DRAM to its page, or `n` of them (R430). -/
def State.hotTouch (s : State) (line : Nat) (n : Nat := 1) : State :=
  match (s.rangeOf (line * 128)).bind (fun r => targetCtrl r.target) with
  | none => s
  | some c =>
    { s with hot := ((hotIndices (line / 512)).zipIdx).foldl (fun h x => h.bump c x.2 x.1 n) s.hot }

/-- A read or write of a line in DRAM: counted for its page, and waiting while the check bits of its row group are
being recomputed (R415, R430). -/
def State.dramAccess (s : State) (line : Nat) : State :=
  (if s.eccPending.contains (line / 4096) then s.unreached (.ecc (line / 4096)) else s).hotTouch line

/-- Writes the bytes of a mask into the home copy. -/
def State.homeTake (s : State) (line : Nat) (data : List Byte) (mask : BitVec 128) : State :=
  match s.homeOfLine line with
  | some h => match s.l2? h line with
    | some _ => s.modL2 h line (fun k => k.take true data mask)
    | none =>
      { s.dramAccess line with dram := Memory.writeMasked s.dram (line * 128) mask 0 data }
  | none => s

/-- The dirty bytes of a first-level or stash copy go into the die's copy of the line, or where it has none
(a stash line of a class that is not cached there) into the home copy (R208, R264). -/
def State.sink (s : State) (d line : Nat) (data : List Byte) (mask : BitVec 128) : State :=
  if (s.l2? d line).isSome then s.modL2 d line (fun k => k.take (s.homeOfLine line == some d) data mask)
  else s.homeTake line data mask

/-- Recalls a core's copies of a line: the slice takes the dirty bytes; the copies stay in S and clean, or
are dropped (R264, R266). -/
def State.recall (s : State) (c : CoreId) (line : Nat) (drop : Bool) : State :=
  let s := match s.l1? c line with
    | some x => if x.st == Mesi.m then s.sink c.die line x.data x.mask else s
    | none => s
  let s := (s.stashLines c line).foldl (fun (s : State) (x : StashLine) =>
    if x.st == Mesi.m then s.sink c.die line x.data x.mask else s) s
  if drop then (s.dropL1 c line).mapStash c line (fun _ => none)
  else (s.modL1 c line (fun x => { x with st := .s, mask := 0 })).mapStash c line
    (fun x => some { x with st := .s, mask := 0 })

/-- Recalls every copy of a line on a die but those of `except`. -/
def State.recallAll (s : State) (d line : Nat) (drop : Bool) (except : Option CoreId := none) : State :=
  ((s.holders d line).filter (fun c => some c != except)).foldl (fun s c => s.recall c line drop) s

/-- Every copy on a die is recalled to S, so that an owner is a sharer and the sharers stay, or dropped (R263, R264). -/
def State.recallDie (s : State) (d line : Nat) (drop : Bool) : State :=
  let s := s.recallAll d line drop
  s.modL2 d line (fun k => { k with
    dir := if drop then .i else match k.dir with
      | .em o => .s [o]
      | e => e })

/-- The 128 bytes of a line in DRAM. -/
def State.dramLine (s : State) (line : Nat) : List Byte := Memory.read s.dram (line * 128) 128

/-- The home copy of a line: the home die's L2 copy, or DRAM (R258). -/
def State.homeCopy (s : State) (line : Nat) : List Byte :=
  match s.homeOfLine line with
  | some h => match s.l2? h line with
    | some k => k.data
    | none => s.dramLine line
  | none => s.dramLine line

/-- Reads the home copy at the home slice: any M copy of the home die is recalled first (R264, R343;
DEDUCED for strong loads, log entry 14). -/
def State.homeRead (s : State) (line : Nat) : List Byte × State :=
  match s.homeOfLine line with
  | some h =>
    let s := (s.ask h).recallDie h line false
    (s.homeCopy line, if (s.l2? h line).isSome then s else s.dramAccess line)
  | none => (s.dramLine line, s)

/-- A change of the home copy: first every first-level copy of the home die goes, an M copy recalled
first (R266). -/
def State.homeWrite (s : State) (line : Nat) (data : List Byte) (mask : BitVec 128) : State :=
  match s.homeOfLine line with
  | some h => ((s.ask h).recallDie h line true).homeTake line data mask
  | none => s

/-- Writes the home copy's dirty bytes into DRAM; the copy stays valid and clean (R241). -/
def State.homeClean (s : State) (line : Nat) : State :=
  match s.homeOfLine line with
  | some h => match s.l2? h line with
    | some k =>
      if k.mask == 0 then s
      else ({ s.dramAccess line with
              dram := Memory.writeMasked s.dram (line * 128) k.mask 0 k.data }).modL2 h line
        (fun k => { k with mask := 0 })
    | none => s
  | none => s

/-- Enters a line in a die's cumulative signature (R277). -/
def State.enterCsig (s : State) (d line : Nat) : State :=
  s.modDie d (fun k => { k with csig := k.csig ||| sigOfLine line })

/-- The maximal runs of bytes whose copy value differs from the twin value (R271): `i` numbers the next
byte, `cur` is the open run, reversed. -/
def maximalRuns : List Byte → List Byte → Nat → Option (Nat × List Byte) → List Run
  | a :: as, b :: bs, i, cur =>
    if a == b then
      match cur with
      | some (o, r) => { off := o, data := r.reverse } :: maximalRuns as bs (i + 1) none
      | none => maximalRuns as bs (i + 1) none
    else
      match cur with
      | some (o, r) => maximalRuns as bs (i + 1) (some (o, a :: r))
      | none => maximalRuns as bs (i + 1) (some (i, [a]))
  | _, _, _, some (o, r) => [{ off := o, data := r.reverse }]
  | _, _, _, none => []

/-- The number of the line of a record, its EARLY bit and its sequence number (R271). -/
def DiffRec.line (r : DiffRec) : Nat := fieldN r.bytes 0 8 % 2 ^ 45
def DiffRec.early (r : DiffRec) : Bool := (fieldN r.bytes 0 8).testBit 50
def DiffRec.seq (r : DiffRec) : Nat := fieldN r.bytes 8 4

/-- The bytes of runs: each a run word and its data; `pos` is where the run before ended (R271). -/
def runBytes (pos : Nat) : List Run → List Byte
  | [] => []
  | x :: xs => bytesOfNat 2 ((x.off - pos) * 512 + (x.data.length - 1)) ++ x.data ++
      runBytes (x.off + x.data.length) xs

/-- The record that a die sends of a line (R271, R272). -/
def diffRec (line src : Nat) (early : Bool) (seq : BitVec 32) (runs : List Run) : DiffRec :=
  let body := runBytes 0 runs
  let len := (16 + body.length + 15) / 16 * 16
  { src := src, merged := false,
    bytes := bytesOfNat 8 (line % 2 ^ 45 + src * 2 ^ 48 + (if early then 2 ^ 50 else 0)) ++ bytesOfNat 4 seq.toNat ++
      bytesOfNat 2 runs.length ++ bytesOfNat 2 len ++ body ++ List.replicate (len - 16 - body.length) 0 }

/-- The runs of the bytes after a header, `n` of them, the run before having ended at `pos`; none where a run word has
reserved bits, a run ends past byte 128, the bytes run out, or the padding is no zero padding (R271). -/
def runsOf (bs : List Byte) (pos : Nat) : Nat → Option (List Run)
  | 0 => if bs.length < 16 && bs.all (· == 0) then some [] else none
  | n + 1 =>
    let w := fieldN bs 0 2
    let o := pos + w / 512
    let k := w % 128 + 1
    if bitsN w 8 7 != 0 || 128 < o + k || bs.length < 2 + k then none
    else (runsOf (bs.drop (2 + k)) (o + k) n).map (fun l => { off := o, data := (bs.drop 2).take k } :: l)

/-- The runs of a well-formed record; none for a malformed one (R271). -/
def DiffRec.runs? (r : DiffRec) : Option (List Run) :=
  let h := fieldN r.bytes 0 8
  let n := fieldN r.bytes 12 2
  let len := fieldN r.bytes 14 2
  if bitsN h 47 45 == 0 && bitsN h 63 51 == 0 && bitsN h 49 48 == r.src && 1 ≤ n && n ≤ 64 &&
      len == r.bytes.length && 32 ≤ len && len ≤ 224 && len % 16 == 0 then
    runsOf (r.bytes.drop 16) 0 n
  else none

/-- The number of this home operation of a line, counting from 1, where the log records (R428). -/
def State.nextOrd (s : State) (line : Nat) : Nat × State :=
  let n := (match s.reckon.ords.find? (fun p => p.1 == line) with | some p => p.2 | none => 0) + 1
  (n, { s with reckon := { s.reckon with ords := (line, n) :: s.reckon.ords.filter (fun p => p.1 != line) } })

/-- Writes bytes at a physical address through the home slice, byte-masked, line by line; `fuel` bounds
the lines. -/
def State.physWriteN (s : State) (pa : Nat) (bs : List Byte) : Nat → State
  | 0 => s
  | n + 1 =>
    if bs.isEmpty then s
    else
      let o := pa % 128
      let k := min (128 - o) bs.length
      let s := match s.rangeOf pa with
        | some r => match r.target with
          | .host => { s with hostMem := Memory.write s.hostMem pa (bs.take k) }
          | _ => s.homeWrite (pa / 128) (spliceAt (List.replicate 128 0) o (bs.take k)) (byteMask o k)
        | none => { s with badPa := some pa }
      s.physWriteN (pa + k) (bs.drop k) n

/-- A write of a control structure at its home (R343). -/
def State.physWrite (s : State) (pa : Nat) (bs : List Byte) : State :=
  s.physWriteN pa bs (bs.length + 1)

/-- Reads bytes at a physical address at their home slices (R343); `fuel` bounds the lines. -/
def State.physReadN (s : State) (pa len : Nat) : Nat → List Byte × State
  | 0 => ([], s)
  | n + 1 =>
    if len == 0 then ([], s)
    else
      let o := pa % 128
      let k := min (128 - o) len
      let (bs, s) := match s.rangeOf pa with
        | some r => match r.target with
          | .host => (Memory.read s.hostMem pa k, s)
          | _ => let (l, s) := s.homeRead (pa / 128); ((l.drop o).take k, s)
        | none => (List.replicate k 0, { s with badPa := some pa })
      let (r, s) := s.physReadN (pa + k) (len - k) n
      (bs ++ r, s)

/-- A read of a control structure at its home. -/
def State.physRead (s : State) (pa len : Nat) : List Byte × State := s.physReadN pa len (len + 1)

/-- Adds an entry to the reckoning log while it records; a full log stops (R428). The home slice of a line writes the
entries of its operations. -/
def State.logEntry (s : State) (stamp kind src data aux : Nat) : State :=
  if s.reckon.mode == 1 && !s.reckon.stopped then
    let s := match (if 4 ≤ kind then s.homeOfLine data else none) with
      | some h => s.reach h (s.reckon.addr / 128)
      | none => s
    if 32 * (s.reckon.written + 1) + 32 ≤ s.reckon.size then
      let a := s.reckon.addr + 32 + 32 * s.reckon.written
      let s := s.physWrite a (bytesOfNat 8 stamp ++ bytesOfNat 1 kind ++ bytesOfNat 1 src ++
        bytesOfNat 6 0 ++ bytesOfNat 8 data ++ bytesOfNat 8 aux)
      let w := s.reckon.written + 1
      let s := { s with reckon := { s.reckon with written := w } }
      s.physWrite s.reckon.addr (bytesOfNat 8 w)
    else
      let s := { s with reckon := { s.reckon with stopped := true } }
      (s.physWrite (s.reckon.addr + 8) [1]).report .logStopped
  else s

/-- An entry of the reckoning log (R428): stamp, kind, source, data, auxiliary word. -/
def State.logAt (s : State) (k : Nat) : Nat × Nat × Nat × Nat × Nat :=
  let (b, _) := s.physRead (s.reckon.addr + 32 + 32 * k) 32
  (fieldN b 0 8, fieldN b 8 1, fieldN b 9 1, fieldN b 16 8, fieldN b 24 8)

/-- The logged home operations of a line (R428). -/
def State.logOf (s : State) (line : Nat) : List (Nat × Nat × Nat × Nat) :=
  let (h, _) := s.physRead s.reckon.addr 8
  ((List.range (natOfBytes h)).map s.logAt).filterMap (fun e =>
    if (e.2.1 == 4 || e.2.1 == 5) && e.2.2.2.1 == line then some (e.1, e.2.1, e.2.2.1, e.2.2.2.2) else none)

/-- The number of the next home operation of a line (R428). -/
def State.ordOf (s : State) (line : Nat) : Nat :=
  (match s.reckon.ords.find? (fun p => p.1 == line) with | some p => p.2 | none => 0) + 1

/-- What a replay does with a home operation (R428, R429): `same` recognises it in the log. It is performed
at its turn, held while its turn is still to come, and diverges where the log has no turn for it. -/
inductive Turn where
  | now | held | diverges
  deriving DecidableEq, Repr

def State.turn (s : State) (line : Nat) (same : Nat × Nat × Nat × Nat → Bool) : Turn :=
  if s.reckon.mode != 2 then .now
  else
    let l := s.logOf line
    let n := s.ordOf line
    if l.any (fun e => e.1 == n && same e) then .now
    else if l.any (fun e => n < e.1 && same e) then .held
    else .diverges

/-- Whether a log entry is a merge of a die's record (R428). -/
def sameMerge (home d : Nat) (e : Nat × Nat × Nat × Nat) : Bool := e.2.1 == 5 && e.2.2.1 == home + 4 * d

/-- The launches that have blocks on a die. -/
def State.rcbsOn (s : State) (d : Nat) : List Nat :=
  sortedSet ((s.blocks.filter (fun b => b.core.die == d && b.st != .killed)).map (·.rcb))

/-- The turn of a merge of a die at a home (R428); merges of a launch that has diverged are no longer held (R429). -/
def State.mergeTurn (s : State) (line home src : Nat) : Turn :=
  if (s.rcbsOn src).any s.reckon.diverged.contains then .now else s.turn line (sameMerge home src)

/-- A replay divergence at a line (R429): it is reported, and nothing more is enforced for the launches. -/
def State.diverge (s : State) (rcbs : List Nat) (line : Nat) : State :=
  ({ s with reckon := { s.reckon with diverged := rcbs.foldl (fun l q => insertNat q l) s.reckon.diverged } } :
    State).report (.replayDivergence line)

/-- Applies a record to the home copy at one instant; a replay holds it for its logged predecessor (R428). A malformed
one is discarded and reported (R271, R275); its sender gets its acknowledgement all the same: DESIGN CHOICE (log entry
82). -/
def State.mergeRecord (s : State) (r : DiffRec) : State :=
  match r.runs? with
  | some runs =>
    let s := if s.mergeTurn r.line ((s.homeOfLine r.line).getD 0) r.src == .held then s.unreached (.turn r.line) else s
    let data := runs.foldl (fun l x => spliceAt l x.off x.data) (List.replicate 128 0)
    let mask := runs.foldl (fun m x => m ||| byteMask x.off x.data.length) 0
    let s := (s.reach r.src r.line).homeWrite r.line data mask
    let s := if s.mergeTurn r.line ((s.homeOfLine r.line).getD 0) r.src == .diverges then
        s.diverge (s.rcbsOn r.src) r.line else s
    let (n, s) := s.nextOrd r.line
    s.logEntry n 5 ((s.homeOfLine r.line).getD 0 + 4 * r.src) r.line
      (r.seq + (if r.early then 2 ^ 32 else 0))
  | none => s.report (.recordFault r.line)

/-- Merges, in the order sent, every record of a die that has not been merged, to one home or to all, and
takes their acknowledgements (R274, R275). -/
def State.flushRecords (s : State) (src : Nat) (home : Option Nat) : State :=
  let mine := fun (r : DiffRec) => r.src == src && (home.isNone || s.homeOfLine r.line == home)
  let s' := (s.records.filter (fun r => mine r && !r.merged)).foldl (fun s r => s.mergeRecord r) s
  { s' with records := s'.records.filter (fun r => !(mine r)) }

/-- Sends the record of a line whose M copies have been recalled, where its bytes differ from the twin;
the twin takes the copy and is clean (R270, R273). -/
def State.difference (s : State) (d line : Nat) (early : Bool) (seq : BitVec 32) : State :=
  let s := s.recallDie d line false
  match s.l2? d line with
  | none => s
  | some k => match k.twin with
    | none => s
    | some t =>
      if t.dirty then
        let runs := maximalRuns k.data t.data 0 none
        let s := if runs.isEmpty then s else
          { s.enterCsig d line with
            records := s.records ++ [{ diffRec line d early seq runs with sent := s.wall.toNat }] }
        s.modL2 d line (fun k => { k with twin := some { data := k.data, dirty := false, since := 0 } })
      else s

/-- Early differencing of one line (R270); its record carries RSEQ + 1 (R272). -/
def State.earlyDiff (s : State) (d line : Nat) : State :=
  s.difference d line true ((s.die d).rseq + 1)

/-- The lines of a die with a dirty twin. -/
def Die.dirtyLines (k : Die) : List Nat :=
  (k.copies.filter (fun c => match c.twin with | some t => t.dirty | none => false)).map (·.line)

/-- The twins of a die. -/
def Die.twins (k : Die) : Nat := (k.copies.filter (fun c => c.twin.isSome)).length

/-- Frees one twin: a clean one, else the dirty one marked longest ago, differenced first (R268). DESIGN CHOICE (log entry
80): of several clean twins that of the copy made last. -/
def State.freeTwin (s : State) (d : Nat) : State :=
  let tw := (s.die d).copies.filter (fun c => c.twin.isSome)
  let clean := tw.filter (fun c => match c.twin with | some t => !t.dirty | none => false)
  let drop := fun (s : State) (l : Nat) => s.modL2 d l (fun k => { k with twin := none })
  match clean with
  | c :: _ => drop s c.line
  | [] => match minBy (fun (c : L2Line) => match c.twin with | some t => t.since | none => 0) tw with
    | some c => drop (s.earlyDiff d c.line) c.line
    | none => s

/-- The die's dirty bytes of an SW line written to its home by their masks; the copies stay valid and
clean (R233, R241, R282). -/
def State.writeBack (s : State) (d line : Nat) : State :=
  let s := s.recallDie d line false
  match s.l2? d line with
  | some k =>
    if s.homeOfLine line != some d && k.mask != 0 then
      ((s.reach d line).homeWrite line k.data k.mask).modL2 d line (fun k => { k with mask := 0 })
    else s
  | none => s

/-- An L2 eviction of a line (R261, R270, R282). -/
def State.evict (s : State) (d line : Nat) : State :=
  let s := s.recallDie d line true
  match s.l2? d line with
  | none => s
  | some k =>
    let s := if s.homeOfLine line == some d then s.homeClean line
      else if k.cc == 1 then s.writeBack d line
      else s.earlyDiff d line
    s.dropL2 d line

/-- The lines of a slice of a die: 8 MiB, or 4 MiB where the store die is absent (R18, R19). -/
def sliceLines (d : Nat) : Nat := if Config.storeDie d then 65536 else 32768

/-- Makes room for one line, or one twin, in the slice of a line on a die (R18, R19): the line brought in longest ago is
evicted. DESIGN CHOICE which (log entry 65). The first test holds whatever the store die and the hash are. -/
def State.roomL2 (s : State) (d line : Nat) : State :=
  let k := s.die d
  if k.copies.length + k.twins < 32768 then s
  else
    let mine := k.copies.filter (fun c => Config.sliceHash d c.line % 128 == Config.sliceHash d line % 128)
    let twins := (mine.filter (fun c => c.twin.isSome)).length
    if mine.length + twins < sliceLines d then s
    else match (mine.filter (fun c => c.line != line)).getLast? with
      | some c => s.evict d c.line
      | none => s

/-- Makes room in the twin pool until it holds at most `n` twins; `fuel` bounds the frees (R268, R269). -/
def State.fitTwins (s : State) (d n : Nat) : Nat → State
  | 0 => s
  | f + 1 => if (s.die d).twins ≤ n then s else (s.freeTwin d).fitTwins d n f

/-- Makes room for a lower limit of the twin pool (R269): dirty twins are differenced and freed, that marked longest ago
first, and then, where no dirty twin is left, clean ones (log entry 80). -/
def State.shrinkTwins (s : State) (d n : Nat) : Nat → State
  | 0 => s
  | f + 1 =>
    if (s.die d).twins ≤ n then s
    else
      let dirty := (s.die d).copies.filter (fun c => match c.twin with | some t => t.dirty | none => false)
      match minBy (fun (c : L2Line) => match c.twin with | some t => t.since | none => 0) dirty with
      | some c => ((s.earlyDiff d c.line).modL2 d c.line (fun k => { k with twin := none })).shrinkTwins d n f
      | none => (s.freeTwin d).shrinkTwins d n f

/-- The twins a pool of `cap` MiB holds (R268). -/
def twinsOf (cap : Nat) : Nat := cap * 8192

/-- The line of a remote-homed RD page is about to be written on a die: its twin is made where it has
none, and marked dirty (R267). -/
def State.markTwin (s : State) (d line : Nat) : State :=
  match s.l2? d line with
  | none => s
  | some k =>
    if k.cc == 0 && s.homeOfLine line != some d then
      let (n, s) := s.fresh
      match k.twin with
      | some t => if t.dirty then s else
          s.modL2 d line (fun k => { k with twin := some { t with dirty := true, since := n } })
      | none =>
        let s := (s.fitTwins d (twinsOf (s.die d).twincap - 1) ((s.die d).twins + 1)).roomL2 d line
        s.modL2 d line (fun k => { k with twin := some { data := k.data, dirty := true, since := n } })
    else s

/-- Brings a line into a die's L2 where it is absent (R261): from DRAM at home, from the home slice
elsewhere, after the die's own records have reached that home. -/
def State.ensureL2 (s : State) (d line cc : Nat) : State :=
  match s.l2? d line with
  | some _ => s
  | none =>
    let s := s.roomL2 d line
    let add := fun (s : State) (data : List Byte) => s.modDie d (fun k => { k with
      copies := { line := line, data := data, mask := 0, dir := .i, twin := none, cc := cc } :: k.copies })
    if s.homeOfLine line == some d then add (s.dramAccess line) (s.dramLine line)
    else
      let s := (s.reach d line).flushRecords d (s.homeOfLine line)
      let (l, s) := s.homeRead line
      add s l

/-- Adds a sharer: the ninth changes pointers to the vector of their clusters (R262). -/
def Dir.addSharer (e : Dir) (p : Nat) : Dir :=
  match e with
  | .i => .s [p]
  | .s ps => if ps.contains p then .s ps else if ps.length < 8 then .s (ps ++ [p])
      else .sv (sortedSet ((p :: ps).map (· / 256)))
  | .sv cl => .sv (insertNat (p / 256) cl)
  | .em o => if o == p then .em o else .s [o, p]

/-- `GetS` from a core (R264): the granted state and the data. -/
def State.getS (s : State) (c : CoreId) (line cc : Nat) : Mesi × List Byte × State :=
  let s := s.ensureL2 c.die line cc
  let remoteRd := cc == 0 && s.homeOfLine line != some c.die
  match s.l2? c.die line with
  | none => (.s, s.dramLine line, s)
  | some k =>
    match k.dir with
    | .i =>
      let (st, e) := if remoteRd then (Mesi.s, Dir.s [corePtr c]) else (Mesi.e, Dir.em (corePtr c))
      (st, k.data, s.modL2 c.die line (fun k => { k with dir := e }))
    | .em o =>
      let s := s.recall (ptrCore c.die o) line false
      let s := s.modL2 c.die line (fun k => { k with dir := k.dir.addSharer (corePtr c) })
      (.s, ((s.l2? c.die line).map (·.data)).getD [], s)
    | _ => (.s, k.data, s.modL2 c.die line (fun k => { k with dir := k.dir.addSharer (corePtr c) }))

/-- `GetM` from a core (R264): every other copy of the die goes, the twin is marked (R267). -/
def State.getM (s : State) (c : CoreId) (line cc : Nat) : List Byte × State :=
  let s := s.ensureL2 c.die line cc
  let s := s.recallAll c.die line true (some c)
  let s := s.recall c line true
  let s := s.markTwin c.die line
  let s := s.modL2 c.die line (fun k => { k with dir := .em (corePtr c) })
  (((s.l2? c.die line).map (·.data)).getD [], s)

/-- `PutM` or `PutE` (R263, R264): from the owner the slice takes the data and the entry goes to I; from
another core the entry is unchanged. -/
def State.put (s : State) (c : CoreId) (line : Nat) : State :=
  match s.l2? c.die line with
  | some k =>
    if k.dir == .em (corePtr c) then
      (s.recall c line true).modL2 c.die line (fun k => { k with dir := .i })
    else s.dropL1 c line
  | none => s.dropL1 c line

/-- The lines that the first-level cache of a core has room for: what windows and scratchpads leave of the store, and
32 KiB at the least (R17). -/
def State.l1Lines (s : State) (c : CoreId) : Nat := max 256 ((storeSize - s.coreStore c) / 128)

/-- A core drops the first-level line that it has held longest, one in S without telling the directory (R263). DESIGN
CHOICE which (log entry 65). -/
def State.dropOldest (s : State) (c : CoreId) : State :=
  match (s.core c).l1.getLast? with
  | some x => if x.st == Mesi.s then s.dropL1 c x.line else s.put c x.line
  | none => s

/-- A core drops `n` first-level lines. -/
def State.dropL1s (s : State) (c : CoreId) : Nat → State
  | 0 => s
  | n + 1 => (s.dropOldest c).dropL1s c n

/-- The first-level cache of a core fits into what is left of its store, with `n` lines to spare (R17). -/
def State.fitL1 (s : State) (c : CoreId) (n : Nat) : State := s.dropL1s c ((s.core c).l1.length + n - s.l1Lines c)

/-- Puts a first-level line in place of any copy the core has, once there is room for it (R17). -/
def State.putL1 (s : State) (c : CoreId) (x : L1Line) : State :=
  ((s.dropL1 c x.line).fitL1 c 1).modCore c (fun k => { k with l1 := x :: k.l1 })

/-- A core that no longer holds a line it owned has told the directory (`PutE`, R263). -/
def State.relinquish (s : State) (c : CoreId) (line : Nat) : State :=
  if s.coreHolds c line then s
  else s.modL2 c.die line (fun k => if k.dir == .em (corePtr c) then { k with dir := .i } else k)

/-- Whether the directory counts a core among the sharers (R262). -/
def Dir.shares (e : Dir) (c : CoreId) : Bool :=
  match e with
  | .s ps => ps.contains (corePtr c)
  | .sv cl => cl.contains c.cluster
  | _ => false

/-- `Upg` from a core that holds S (R264, R265): M without data, or as `GetM`. -/
def State.upg (s : State) (c : CoreId) (line cc : Nat) : State :=
  let grant := fun (s : State) (data : List Byte) =>
    s.putL1 c { line := line, st := .m, data := data, mask := 0 }
  match s.l2? c.die line, s.l1? c line with
  | some k, some x =>
    if k.dir.shares c then
      let s := s.recallAll c.die line true (some c)
      let s := s.mapStash c line (fun _ => none)
      let s := s.markTwin c.die line
      grant (s.modL2 c.die line (fun k => { k with dir := .em (corePtr c) })) x.data
    else let (l, s) := s.getM c line cc; grant s l
  | _, _ => let (l, s) := s.getM c line cc; grant s l

/-- The copy that a core has of a line, in its first-level cache or in a stash. -/
def State.ownCopy (s : State) (c : CoreId) (line : Nat) : Option L1Line :=
  match s.l1? c line with
  | some x => some x
  | none => (s.stashLines c line).head?.map (fun x => { line := line, st := x.st, data := x.data, mask := x.mask })

/-- A core gives up its copies of a line without a message. -/
def State.dropOwn (s : State) (c : CoreId) (line : Nat) : State := (s.dropL1 c line).mapStash c line (fun _ => none)

/-- A core that has a line in a stash, and not in its first-level cache, moves it there, state and dirty bytes: it asks the
slice for nothing, whose entry may be EM(c) (R208, R263). -/
def State.ownL1 (s : State) (c : CoreId) (line : Nat) : State :=
  match s.l1? c line, s.ownCopy c line with
  | none, some x => (s.dropOwn c line).putL1 c x
  | _, _ => s

/-- A first-level line in a state to be read. -/
def State.l1Read (s : State) (c : CoreId) (line cc : Nat) : List Byte × State :=
  let s := s.ownL1 c line
  match s.l1? c line with
  | some x => (x.data, s)
  | none =>
    let (st, l, s) := s.getS c line cc
    (l, s.putL1 c { line := line, st := st, data := l, mask := 0 })

/-- A first-level line in M, obtained as R264 and R265 say, with bytes stored into it. -/
def State.l1Write (s : State) (c : CoreId) (line cc o : Nat) (bs : List Byte) : State :=
  let s := s.ownL1 c line
  let s := match s.l1? c line with
    | some x => match x.st with
      | .m => s
      | .e => s.modL1 c line (fun x => { x with st := .m })
      | .s => s.upg c line cc
    | none => let (l, s) := s.getM c line cc
      s.putL1 c { line := line, st := .m, data := l, mask := 0 }
  let s := s.modL1 c line (fun x =>
    { x with data := spliceAt x.data o bs, mask := x.mask ||| byteMask o bs.length })
  if cc == 0 && s.homeOfLine line == some c.die then s.enterCsig c.die line else s

/-- A load that the L2 performs for a core that keeps no first-level line (R232, no-L1). -/
def State.l2Read (s : State) (d line cc : Nat) : List Byte × State :=
  let s := (s.ensureL2 d line cc).recallDie d line false
  (((s.l2? d line).map (·.data)).getD [], s)

/-- A weak store that the L2 performs itself (R232, R267). -/
def State.l2Write (s : State) (d line cc o : Nat) (bs : List Byte) : State :=
  let s := ((s.ensureL2 d line cc).recallDie d line true).markTwin d line
  let atHome := s.homeOfLine line == some d
  let s := s.modL2 d line (fun k =>
    k.take atHome (spliceAt k.data o bs) (byteMask o bs.length))
  if cc == 0 && atHome then s.enterCsig d line else s

/-- Before a strong access or a control-structure access of a die at a home: the die's dirty bytes of the
line go ahead of it (R233, 1), and so do the die's earlier records to that home. -/
def State.beforeHome (s : State) (d line cc : Nat) : State :=
  if s.homeOfLine line == some d then s
  else
    let s := (s.reach d line).earlyDiff d line
    let s := s.flushRecords d (s.homeOfLine line)
    if cc == 1 then s.writeBack d line else s

/-- Copies bytes an access wrote at a home into the issuing die's copy of the line and its twin (R233, 3),
first-level and stash copies included (DEDUCED, log entry 14). -/
def State.patchDie (s : State) (d line o : Nat) (bs : List Byte) : State :=
  if s.homeOfLine line == some d then s
  else
    let s := s.modL2 d line (fun k => { k with
      data := spliceAt k.data o bs, twin := k.twin.map (fun t => { t with data := spliceAt t.data o bs }) })
    (s.holders d line).foldl (fun s c =>
      (s.modL1 c line (fun x => { x with data := spliceAt x.data o bs })).mapStash c line
        (fun x => some { x with data := spliceAt x.data o bs })) s

/-- A store at the home slice, byte-masked, by a die (R232, R233); an RD line enters the die's signature
once the store is performed (R277). -/
def State.homeStore (s : State) (d line cc o : Nat) (bs : List Byte) : State :=
  let s := s.beforeHome d line cc
  let s := s.homeWrite line (spliceAt (List.replicate 128 0) o bs) (byteMask o bs.length)
  let s := s.patchDie d line o bs
  if cc == 0 then s.enterCsig d line else s

/-- Bytes read or written at homes, copied into the issuing die's copies (R233, 3). -/
def State.patchRange (s : State) (d pa : Nat) (bs : List Byte) : State :=
  (linesOf pa bs.length).foldl (fun s l =>
    let a := max pa (128 * l)
    s.patchDie d l (a - 128 * l) ((bs.drop (a - pa)).take (128 * (l + 1) - a))) s

/-- A die reads or writes a control structure at its homes, once its own stores to those lines are there (R233, R343). -/
def State.ctlBefore (s : State) (d pa n : Nat) : State :=
  (linesOf pa n).foldl (fun s l => s.beforeHome d l 1) s
def State.ctlRead (s : State) (d pa n : Nat) : List Byte × State :=
  let (bs, s) := (s.ctlBefore d pa n).physRead pa n
  (bs, s.patchRange d pa bs)
def State.ctlWrite (s : State) (d pa : Nat) (bs : List Byte) : State :=
  ((s.ctlBefore d pa bs.length).physWrite pa bs).patchRange d pa bs

/-- A load at the home slice by a die, of `n` bytes from offset `o` (R232, R233): the line, and the state in which
the die's own copy has those bytes (DEDUCED from R302, log entry 14). -/
def State.homeLoad (s : State) (d line cc o n : Nat) : List Byte × State :=
  let (l, s) := (s.beforeHome d line cc).homeRead line
  (l, s.patchDie d line o ((l.drop o).take n))

/-- The way of a location's line in a die's signature table (R278). -/
def Die.way? (k : Die) (line : Nat) : Option SigWay := k.sigs.find? (fun w => w.line == line)

/-- Looks up a line's entry; a hit counts as a use (R278). -/
def State.sigLookup (s : State) (line : Nat) : Sig × State :=
  match s.homeOfLine line with
  | none => (0, s)
  | some h => match (s.die h).way? line with
    | some w =>
      let (n, s) := s.fresh
      (w.entry, s.modDie h (fun k => { k with
        sigs := modFirst (fun w => w.line == line) (fun w => { w with used := n }) k.sigs }))
    | none => (if (s.die h).ev.contains (line % 1024) then BitVec.allOnes 1024 else 0, s)

/-- The entry of a line as it stands, without a use (log entry 66). -/
def State.sigPeek (s : State) (line : Nat) : Sig :=
  match s.homeOfLine line with
  | none => 0
  | some h => match (s.die h).way? line with
    | some w => w.entry
    | none => if (s.die h).ev.contains (line % 1024) then BitVec.allOnes 1024 else 0

/-- ORs a signature into the way of a line, allocating the way used longest ago where there is none
(R278). -/
def State.sigOr (s : State) (line : Nat) (e : Sig) : State :=
  match s.homeOfLine line with
  | none => s
  | some h =>
    let (n, s) := s.fresh
    match (s.die h).way? line with
    | some _ => s.modDie h (fun k => { k with
        sigs := modFirst (fun w => w.line == line)
          (fun w => { w with entry := w.entry ||| e, used := n }) k.sigs })
    | none =>
      let set := line % 1024
      let ways := (s.die h).sigs.filter (fun w => w.line % 1024 == set)
      let start : Sig := if (s.die h).ev.contains set then BitVec.allOnes 1024 else 0
      let new : SigWay := { line := line, entry := start ||| e, used := n }
      if ways.length < 4 then s.modDie h (fun k => { k with sigs := new :: k.sigs })
      else
        let old := (minBy (·.used) ways).map (·.line)
        s.modDie h (fun k => { k with
          sigs := new :: k.sigs.filter (fun w => some w.line != old), ev := insertNat set k.ev })

/-- The fault domains of the blocks on a die (R288). -/
def State.fdomsOn (s : State) (d : Nat) : List Nat :=
  sortedSet ((s.blocks.filter (fun b => (b.st == .resident || b.st == .saved || b.st == .waitingJoin) &&
    b.core.die == d)).filterMap (fun b => (s.region? b.rcb).map (·.fdom)))

/-- The release run of a die (R273): the records of every dirty-twinned line, their merges, and the
acknowledgements. The release then carries CSIG. -/
def State.deviceRelease (s : State) (d : Nat) : State :=
  let s := s.modDie d (fun k => { k with rseq := k.rseq + 1 })
  let s := (s.die d).dirtyLines.foldl (fun s l => s.difference d l false (s.die d).rseq) s
  (s.flushRecords d none).modDie d (fun k => { k with fdoms := s.fdomsOn d })

/-- Applies an entry to one line of a die (R279). -/
def State.applyToLine (s : State) (d line : Nat) : State :=
  let s := s.recallDie d line true
  match s.l2? d line with
  | none => s
  | some k => match k.twin with
    | some t =>
      if t.dirty then
        let s := (s.reach d line).flushRecords d (s.homeOfLine line)
        let (h, s) := s.homeRead line
        let data := (List.range 128).map (fun i =>
          if k.data.getD i 0 == t.data.getD i 0 then h.getD i 0 else k.data.getD i 0)
        s.modL2 d line (fun k => { k with data := data, twin := some { t with data := h } })
      else s.dropL2 d line
    | none => s.dropL2 d line

/-- An acquire at device or system scope applies an entry to its die (R279). -/
def State.applyEntry (s : State) (d : Nat) (e : Sig) : State :=
  let ls := ((s.die d).copies.filter (fun k =>
    k.cc == 0 && s.homeOfLine k.line != some d && sigNames e k.line)).map (·.line)
  let s := ls.foldl (fun s l => s.applyToLine d l) s
  s.modDie d (fun k => { k with csig := k.csig ||| e })

/-- The numbers of the dies. -/
def dieList : List Nat := [0, 1, 2, 3]

/-- Drops every copy of a remote-homed RD line of a die, with its twin (R281, 3). -/
def State.dropRemoteRd (s : State) (d : Nat) : State :=
  let ls := ((s.die d).copies.filter (fun k => k.cc == 0 && s.homeOfLine k.line != some d)).map (·.line)
  ls.foldl (fun s l => (s.recallDie d l true).dropL2 d l) s

/-- A coherence sweep among the running dies (R281), which send each other its messages (R284). -/
def State.sweep (s : State) : State :=
  let ds := dieList.filter (fun d => (s.die d).st == .running)
  let s := ds.foldl (fun s a => ds.foldl (fun s b => s.carry a b) s) s
  let s := ds.foldl (fun s d =>
    ((s.die d).dirtyLines.foldl (fun s l => s.earlyDiff d l) s).flushRecords d none) s
  let s := ds.foldl (fun s d => s.dropRemoteRd d) s
  let s := ds.foldl (fun s d => s.modDie d (fun k => { k with csig := 0, sigs := [], ev := [] })) s
  { s with inbound := 0, sweepOwed := false }

/-- A sweep, or where a home that it needs does not answer, one that is still to run (R281, R289). -/
def State.sweepOr (s : State) : State :=
  let t := s.sweep
  if t.away == s.away then t else { s with sweepOwed := true }

/-- Whether the device starts a sweep (R281). -/
def State.sweepDue (s : State) : Bool :=
  s.sweepOwed || s.dies.any (fun k => 256 ≤ sigCount k.csig || 512 < k.ev.length)

/-- `RWB` on one line of a class that it acts on (R241): the die's dirty bytes reach the home, and the home
writes DRAM. -/
def State.rwbLine (s : State) (d line cc : Nat) : State :=
  if cc == 1 || cc == 3 then
    let s := s.writeBack d line
    match s.homeOfLine line with
    | some h => (s.recallDie h line false).homeClean line
    | none => s
  else s

/-- `RINV` on one line of a class that it acts on (R241). -/
def State.rinvLine (s : State) (d line cc : Nat) : State :=
  if cc == 1 || cc == 3 then
    if s.homeOfLine line == some d then ((s.recallDie d line true).homeClean line).dropL2 d line
    else
      ((s.holders d line).foldl (fun s c => (s.dropL1 c line).mapStash c line (fun _ => none)) s).dropL2
        d line
  else s

/-- Cleans a line on every die (R399): twins differenced and merged, dirty bytes at the home, DRAM
written; `flush` then drops every copy. -/
def State.maintainLine (s : State) (line : Nat) (flush : Bool) : State :=
  let s := dieList.foldl (fun s d =>
    if s.homeOfLine line == some d then s.recallDie d line false
    else ((s.earlyDiff d line).flushRecords d (s.homeOfLine line)).writeBack d line) s
  let s := s.homeClean line
  if flush then dieList.foldl (fun s d => (s.recallDie d line true).dropL2 d line) s else s

end Sys2Proof.Machine
end

