-- ==== Sys2Proof/Machine/Translate.lean ====
section
/-! DEFINITION. Translation (20 R383 to R387), handle-table entries (12 R226) and bindings (R227, R253). -/

namespace Sys2Proof.Machine

open Sys2Proof

/-- The kind of an access: what its permission check needs and how a trap names it (R366, R385, R386).
`engR` and `engW` are the reads and writes of an engine. -/
inductive AccKind where
  | load | store | atomic | fetch | bind | engR | engW | range | pf
  deriving DecidableEq, Repr

/-- ACC of TRAPINFO (R366). -/
def AccKind.code : AccKind → Nat
  | .load => 0 | .store => 1 | .atomic => 2 | .fetch => 3 | .bind => 4 | .engR => 5 | .engW => 5
  | .range => 6 | .pf => 0

/-- Whether a kind writes data, so that its walk sets D (R386). -/
def AccKind.writes : AccKind → Bool
  | .store | .atomic | .engW => true
  | _ => false

/-- The trap causes (R365). -/
def cIllegalOp : Nat := 0x01
def cIllegalOperand : Nat := 0x02
def cIllegalHint : Nat := 0x03
def cEmptyReg : Nat := 0x04
def cSplitLimit : Nat := 0x05
def cMisaligned : Nat := 0x06
def cBounds : Nat := 0x07
def cProtection : Nat := 0x08
def cPageFault : Nat := 0x09
def cRowAlign : Nat := 0x0A
def cRowClass : Nat := 0x0B
def cBarMismatch : Nat := 0x0C
def cGangMismatch : Nat := 0x0D
def cEngineFault : Nat := 0x0E
def cEngineReset : Nat := 0x0F
def cGateDenied : Nat := 0x10
def cGateSplit : Nat := 0x11
def cGateAbort : Nat := 0x12
def cDieLost : Nat := 0x13
def cPreemptDeadline : Nat := 0x14
def cSoft : Nat := 0x15
def cBreak : Nat := 0x16
def cHandlerNest : Nat := 0x17
def cEcc : Nat := 0x18
def cRegreqDenied : Nat := 0x19
def cRowStrict : Nat := 0x1A
def cLaunchAlmanac : Nat := 0x1B

/-- Whether a memory fault is first offered to the helm cores (R372). -/
def TrapInfo.offered (t : TrapInfo) : Bool :=
  t.cause == cPageFault || (t.cause == cProtection && (t.detail == 2 || t.detail == 4))

/-- The permissions a page gives an access kind, in or out of handler mode; none when allowed, else the
DETAIL of PROTECTION, the handler-page rules first (R364, R385). -/
def Leaf.denies (l : Leaf) (k : AccKind) (handler : Bool) : Option Nat :=
  if (match k with | .fetch => l.h != handler | _ => l.h && !handler) then some 4
  else
    let ok := match k with
      | .load | .pf | .engR => l.y
      | .store | .range | .engW => l.w
      | .atomic => l.y && l.w
      | .fetch => l.x
      | .bind => true
    if ok then none else some 2

/-- Whether the frame lies wholly inside ranges of the address map (R384, R435). -/
def State.covered (s : State) (base size : Nat) : Nat → Bool
  | 0 => false
  | n + 1 => if size == 0 then true else match s.rangeOf base with
    | none => false
    | some r =>
      let k := min size (r.base + r.size - base)
      s.covered (base + k) (size - k) n

/-- One level of a walk by a die and the levels below it (R384): the entry, its address and its level, or the
DETAIL of PAGE_FAULT. -/
def State.walkFrom (s : State) (d va t : Nat) : Nat → Except Nat (Nat × Nat × Nat) × State
  | 0 => (.error 0, s)
  | n + 1 =>
    let lvl := 3 - n
    let a := t + 8 * bitsN va (54 - 13 * (lvl - 1)) (42 - 13 * (lvl - 1))
    let (bs, s) := (s.reach d (a / 128)).physRead a 8
    let p := natOfBytes bs
    if p % 2 == 0 then (.error lvl, s)
    else if bitsN p 55 52 != 0 || bitsN p 15 11 != 0 then (.error (lvl + 128), s)
    else if p / 2 % 2 == 1 then (.ok (p, a, lvl), s)
    else if lvl == 3 then (.error (3 + 128), s)
    else s.walkFrom d va (bitsN p 51 16 * 2 ^ 16) n

/-- The lost die whose home slices a step has asked and did not reach (R288). -/
def State.lostIn (s t : State) : Option Nat :=
  match s.away, t.away with
  | none, some (.home d) => if (t.die d).st == .lost then some d else none
  | _, _ => none

/-- The leaf of a page table entry found at a level. -/
def leafOf (p a lvl asid va : Nat) : Leaf :=
  let size := 2 ^ (16 + 13 * (3 - lvl))
  { vbase := va - va % size, pbase := bitsN p 51 16 * 2 ^ 16, size := size,
    y := p.testBit 2, w := p.testBit 3, x := p.testBit 4, h := p.testBit 5, d := p.testBit 7,
    g := p.testBit 10, cc := bitsN p 9 8, asid := asid, pte := a }

/-- The walker of a die (R384): a table on a lost home faults with `DIE_LOST` (R288). `wantD` sets D as well where the
page allows writing (R386, HBIND). -/
def State.walk (s : State) (d asid va : Nat) (k : AccKind) (handler wantD : Bool) :
    Except TrapInfo Leaf × State :=
  let pf := fun (d : Nat) => (Except.error
    { cause := cPageFault, detail := d, acc := k.code } : Except TrapInfo Leaf)
  match (if 2 ^ 55 ≤ va then none else s.roots.find? (fun r => r.1 == asid)) with
  | none => (pf 0, s)
  | some root =>
    let (res, t) := s.walkFrom d va root.2 3
    match s.lostIn t with
    | some h => (.error { cause := cDieLost, detail := h, acc := k.code }, s)
    | none => match res, t with
    | .error d, s => (pf d, s)
    | .ok (p, a, lvl), s =>
      let l := leafOf p a lvl asid va
      if l.pbase % l.size != 0 || !(s.covered l.pbase l.size 65) then (pf (lvl + 128), s)
      else match l.denies k handler with
        | some d => (.error { cause := cProtection, detail := d, acc := k.code }, s)
        | none =>
          let dirty := k.writes || (wantD && l.w)
          let p' := p ||| 64 ||| (if dirty then 128 else 0)
          let s := if p' == p then s else s.physWrite a (bytesOfNat 8 p')
          (.ok { l with d := p'.testBit 7 }, s)

/-- Whether a cached leaf serves an address (R386). -/
def Leaf.covers (l : Leaf) (asid va : Nat) : Bool :=
  (l.g || l.asid == asid) && l.vbase ≤ va && va < l.vbase + l.size

/-- Translates an address on a core: through a cached leaf, or by a walk that fills the TLB (R386). -/
def State.translate (s : State) (c : CoreId) (asid va : Nat) (k : AccKind) (handler : Bool)
    (wantD : Bool := false) : Except TrapInfo (Nat × Leaf) × State :=
  let walk := fun (s : State) => match s.walk c.die asid va k handler wantD with
    | (.error e, s) => ((.error e, s) : Except TrapInfo (Nat × Leaf) × State)
    | (.ok l, s) =>
      (.ok (l.pbase + (va - l.vbase), l), s.modCore c (fun q => { q with
        tlb := l :: q.tlb.filter (fun x => !(x.vbase == l.vbase && x.asid == l.asid)) }))
  match (s.core c).tlb.find? (fun l => l.covers asid va) with
  | some l =>
    if (k.writes || (wantD && l.w)) && !l.d then walk s
    else match l.denies k handler with
      | some d => (.error { cause := cProtection, detail := d, acc := k.code }, s)
      | none => (.ok (l.pbase + (va - l.vbase), l), s)
  | none => walk s

/-- A handle-table entry as read (R226). -/
structure HandleEntry where
  bytes : List Byte
  vbase : Nat
  bound : Nat
  attr : Attr
  deriving DecidableEq, Repr

/-- The attributes of an entry (R226). -/
def attrOf (bs : List Byte) : Attr :=
  let a := fieldN bs 16 1
  { space := a % 4, policy := a / 4 % 4, r := a.testBit 4, w := a.testBit 5, a := a.testBit 6,
    row := a.testBit 7, dev := fieldN bs 18 2, die := fieldN bs 20 1 }

/-- Whether the entry's fields make a valid handle (R226). -/
def entryValid (bs : List Byte) : Bool :=
  let a := attrOf bs
  fieldN bs 17 1 == 1 && a.policy != 3 && fieldN bs 0 8 < 2 ^ 55 &&
  (if a.space == 3 then a.dev < 1024 && a.die < 4 else a.dev == 0 && a.die == 0) &&
  fieldN bs 21 11 == 0

/-- The entry that a strong load or atomic at system scope returns from the home of a line of this package, the inbound
signature with it (R278, R309), and from host memory, whose writers no table of this package names (all ones; DEDUCED
from R297 and R310, log entry 18). -/
def State.systemEntry (s : State) (pa : Nat) : Sig × State :=
  match (s.rangeOf pa).map (fun r => r.target) with
  | some MapTarget.host => (BitVec.allOnes 1024, s)
  | _ => let (e, s) := s.sigLookup (pa / 128); (e ||| s.inbound, s)

/-- A read of a control structure as a relaxed load at system scope of a group, whose entries stay pending (R235, R343). -/
def State.ctlLoad (s : State) (d : Nat) (r : GRef) (pa n : Nat) : List Byte × State :=
  let (bs, s) := s.ctlRead d pa n
  (bs, (linesOf pa n).foldl (fun s l =>
    let (e, s) := s.systemEntry (128 * l)
    s.modGroup r (fun g => { g with acqSig := g.acqSig ||| e })) s)

/-- Reads entry `i` of a context's handle table for a group, at the entry's home, after the die's own stores to the
line, as a relaxed access at system scope, whose entry stays pending (R235, R343, R360). An invalid handle is refused as
R366 names it, and a table on a lost home faults with `DIE_LOST` (R288). -/
def State.handleEntry (s : State) (d : Nat) (r : GRef) (ctx : Ctx) (i : Nat) : Except TrapInfo HandleEntry × State :=
  let bad : TrapInfo := { cause := cProtection, detail := 7, acc := 4 }
  if ctx.hcount ≤ i then (.error bad, s)
  else
    let (bs, t) := s.ctlLoad d r (ctx.htab + 32 * i) 32
    match s.lostIn t with
    | some h => (.error { cause := cDieLost, detail := h, acc := 4 }, s)
    | none =>
      if entryValid bs then
        (.ok { bytes := bs, vbase := fieldN bs 0 8, bound := fieldN bs 8 8, attr := attrOf bs }, t)
      else (.error bad, t)

/-- A binding in handle form (R253): the entry's copies, one translation, the limit. Errors carry the
address that faulted, where there is one. -/
def State.bindHandle (s : State) (c : CoreId) (r : GRef) (ctx : Ctx) (handler : Bool) (i boff : Nat) :
    Except (TrapInfo × Option Int) HandleX × State :=
  match s.handleEntry c.die r ctx i with
  | (.error t, s) => (.error (t, none), s)
  | (.ok e, s) =>
    let base : HandleX :=
      { index := i, boff := boff, vbase := e.vbase, bound := e.bound, attr := e.attr, frame := none,
        limit := 0, lazy := false }
    if e.bound < boff then (.error ({ cause := cBounds, acc := 4 }, some (e.vbase + boff)), s)
    else if boff == e.bound then (.ok base, s)
    else match s.translate c ctx.asid (e.vbase + boff) .bind handler e.attr.w with
      | (.error t, s) => (.error (t, some (e.vbase + boff)), s)
      | (.ok (pa, l), s) =>
        (.ok { base with
          frame := some { pa := pa, leaf := l },
          limit := min (l.vbase + l.size - (e.vbase + boff)) (e.bound - boff) }, s)

end Sys2Proof.Machine
end

