-- ==== Sys2Proof/Machine/Access.lean ====
section
/-! DEFINITION. Accesses: address formation (12 R228), where an access is performed (R232, R233, R237),
windows, scratchpads and stashes (11), releases and acquires of a group (R235, R247). -/

namespace Sys2Proof.Machine

open Sys2Proof

/-- A memory fault of a lane: the trap and the faulting address, where it has one (R231). -/
abbrev MFault := TrapInfo × Option Int

/-- The ordering kind of an access (R69). -/
inductive OKind where
  | weak | rlx | acq | rel | ar
  deriving DecidableEq, Repr

/-- Ordering kind and scope of an access. -/
structure AOrd where
  kind : OKind
  scope : Nat
  deriving DecidableEq, Repr

def AOrd.weak : AOrd := ⟨.weak, 0⟩

/-- Whether the access is strong at device or system scope, so that it is performed at the home (R232). -/
def AOrd.atHome (o : AOrd) : Bool := o.kind != OKind.weak && 4 ≤ o.scope
def AOrd.acquires (o : AOrd) : Bool := o.kind == .acq || o.kind == .ar
def AOrd.releases (o : AOrd) : Bool := o.kind == .rel || o.kind == .ar

/-- Where an address leads. -/
inductive Loc where
  /-- byte of a block's scratchpad -/
  | scr (blk off : Nat)
  /-- byte of the callee scratchpad of a group at a gate depth (R379) -/
  | callee (depth off : Nat)
  /-- byte of the group's own register window (R206) -/
  | win (off : Nat)
  /-- byte of a stash of the block, with the physical address and class of that byte -/
  | stash (id off pa cc : Nat)
  /-- byte at a physical address through a handle -/
  | mem (pa cc : Nat) (attr : Attr)
  /-- byte of the caller's handle table, reached through x6 of a callee (R379) -/
  | table (pa : Nat)
  deriving DecidableEq, Repr

/-- Whether the group is inside a gate call. -/
def Group.inGate (g : Group) : Bool := !g.gates.isEmpty

/-- Whether the group is in handler mode (R389). -/
def Group.handler (g : Group) : Bool := g.level != 0

/-- Whether a range of a scratchpad, the block's or that of group `grp` at a gate depth, meets a stash
(R207). -/
def Block.inStash (b : Block) (grp depth off n : Nat) : Bool :=
  b.stashes.any (fun t => t.depth == depth && (depth == 0 || t.grp == grp) &&
    off < t.scr + t.size && t.scr < off + n)

/-- A fault of class M at an address. -/
def mfault (cause detail : Nat) (k : AccKind) (va : Option Int) : MFault :=
  ({ cause := cause, detail := detail, acc := k.code }, va)

/-- An address through x0 (R200, R207, R379). -/
def resolveScr (b : Block) (g : Group) (r : GRef) (o : Int) (n : Nat) (k : AccKind) :
    Except MFault Loc :=
  match natOfInt o with
  | none => .error (mfault cBounds 0 k (some o))
  | some a =>
    if g.inGate then
      if g.calleeSize < a + n then .error (mfault cBounds 0 k (some o))
      else if b.inStash r.grp g.gates.length a n then .error (mfault cProtection 5 k (some o))
      else .ok (.callee g.gates.length a)
    else if b.scrSize < a + n then .error (mfault cBounds 0 k (some o))
    else if b.inStash r.grp 0 a n then .error (mfault cProtection 5 k (some o))
    else .ok (.scr r.blk a)

/-- Whether a block reaches another of its cohort (R202): one that stands on its core, or for the engine work of a block
that has ended or been killed, one that stands as it does (R191, R408). -/
def Block.cohortMate (a b : Block) : Bool :=
  a.rcb == b.rcb && a.index + b.rank == b.index + a.rank &&
  (b.st == .resident || (a.st != .resident && b.st == a.st))

/-- An address through x1 (R204, R206, R379). -/
def State.resolveClu (s : State) (b : Block) (g : Group) (o : Int) (n : Nat) (k : AccKind) :
    Except MFault Loc :=
  let bad : Except MFault Loc := .error (mfault cProtection 3 k (some o))
  match natOfInt o with
  | none => bad
  | some a =>
    if 2 ^ 27 ≤ a then bad
    else
      let core := a / 2 ^ 19
      let off := a % 2 ^ 19
      if core == b.core.core && g.vb ≤ off && off + n ≤ g.vb + 128 * g.regcnt then
        .ok (.win (off - g.vb))
      else if g.inGate then bad
      else
        let mates := indicesWhere (fun (m : Block) => b.cohortMate m &&
          m.core == { b.core with core := core } &&
          1024 * m.sbk ≤ off && off + n ≤ 1024 * m.sbk + m.scrSize) s.blocks
        match mates with
        | m :: _ => match s.blocks[m]? with
          | some mb =>
            if mb.inStash 0 0 (off - 1024 * mb.sbk) n then .error (mfault cProtection 5 k (some o))
            else .ok (.scr m (off - 1024 * mb.sbk))
          | none => bad
        | [] => bad

/-- The permission a handle gives an access kind (R229). -/
def Attr.allows (a : Attr) : AccKind → Bool
  | .load | .engR => a.r
  | .store | .range | .engW => a.w
  | .atomic => a.a
  | .fetch | .bind | .pf => true

/-- Whether a local physical address is in range of a running or lost home: the access to a lost home takes
`DIE_LOST` (R288). -/
def State.lostHome (s : State) (pa : Nat) (a : Attr) : Option Nat :=
  if a.space == 3 then none
  else match s.homeOf pa with
    | some h => if (s.die h).st == .lost then some h else none
    | none => none

/-- Where a physical access of a space goes: another device, the host, DRAM of this package, or nowhere. -/
inductive Target where
  | remote (key : Nat) | host | home | unpopulated
  deriving DecidableEq, Repr

/-- The target of an access (R232, R237, R435). Where SPACE names host memory or this package, the range of the address
map that holds the address decides, whatever SPACE says of it: DESIGN CHOICE (log entry 67), so that aliases of one
byte meet (R58). -/
def State.target (s : State) (pa : Nat) (a : Attr) : Target :=
  if a.space == 3 then .remote (a.dev * 2 ^ 52 + pa)
  else match s.rangeOf pa with
    | none => .unpopulated
    | some r => match r.target with
      | .host => .host
      | _ => .home

/-- The checks once the physical address is known: the handle's permission, the lost home, and for reads
the uncorrectable errors (R228, R230, R288). -/
def State.checkPa (s : State) (pa cc n : Nat) (a : Attr) (k : AccKind) (va : Int) : Except MFault Loc :=
  if !(a.allows k) then .error (mfault cProtection 1 k (some va))
  else match s.lostHome pa a with
    | some h => .error (mfault cDieLost h k (some va))
    | none =>
      if (k == .load || k == .atomic) && a.space != 3 &&
          (s.eccBad.contains (pa / 128) || s.eccBad.contains ((pa + n - 1) / 128)) then
        .error (mfault cEcc 0 k (some va))
      else .ok (.mem pa cc a)

/-- An address through a handle form (R228): the frame path, else the translated path, which a write through a leaf
whose D is clear takes too (R386). -/
def State.resolveHandle (s : State) (c : CoreId) (g : Group) (h : HandleX) (o : Int) (n : Nat)
    (k : AccKind) : Except MFault Loc × State :=
  let va : Int := (h.vbase : Int) + h.boff + o
  let viaWalk := fun (s : State) =>
    let b : Int := (h.boff : Int) + o
    if b < 0 || (h.bound : Int) < b + n then
      ((.error (mfault cBounds 0 k (some va)) : Except MFault Loc), s)
    else match s.translate c g.ctx.asid va.toNat k g.handler with
      | (.error t, s) => (.error (t, some va), s)
      | (.ok (pa, l), s) => (s.checkPa pa l.cc n h.attr k va, s)
  match natOfInt o, h.frame with
  | some a, some f =>
    if a + n ≤ h.limit && (f.leaf.denies k g.handler).isNone && (f.leaf.d || !k.writes) then
      (s.checkPa (f.pa + a) f.leaf.cc n h.attr k va, s)
    else viaWalk s
  | _, _ => viaWalk s

/-- Whether a stash keeps a line of a place: as the first-level cache does, by its class (R208, R232, R259), and so none of
the host or of another device (R237, log entry 68). -/
def State.stashKeeps (s : State) (c : CoreId) (pa cc : Nat) (a : Attr) : Bool :=
  s.target pa a == .home && (cc < 2 || (cc == 3 && s.homeOf pa == some c.die))

/-- An address through a stash (R207, R208, R238): strong accesses at device or system scope, atomics and prefetches
are refused. A valid line needs no translation, but a first write through it does (R386). A line that the stash does
not keep is accessed where its class says (R259). `RWB` and `RINV` do not translate for a line that is held: DESIGN CHOICE (log
entry 98). -/
def State.resolveStash (s : State) (c : CoreId) (b : Block) (g : Group) (id : Nat) (o : Int) (n : Nat)
    (k : AccKind) (home : Bool) : Except MFault Loc × State :=
  match b.stashes.find? (fun t => t.id == id) with
  | none => (.error (mfault cProtection 5 k none), s)
  | some t =>
    let va : Int := (t.va : Int) + o
    if o < 0 || (t.size : Int) < o + n then (.error (mfault cBounds 0 k (some va)), s)
    else if home || k == .atomic || k == .pf then (.error (mfault cProtection 5 k (some va)), s)
    else if !(t.attr.allows k) then (.error (mfault cProtection 1 k (some va)), s)
    else
      let a := o.toNat
      let held := t.lines.find? (fun x => x.idx == a / 128)
      match held.filter (fun x => x.st == Mesi.m || !k.writes) with
      | some x => (.ok (.stash id a (x.line * 128 + a % 128) x.cc), s)
      | none => match s.translate c t.asid va.toNat k g.handler with
        | (.error e, s) => (.error (e, some va), s)
        | (.ok (pa, l), s) => match held with
          | some x => (.ok (.stash id a (x.line * 128 + a % 128) x.cc), s)
          | none => match s.checkPa pa l.cc n t.attr k va with
            | .error e => (.error e, s)
            | .ok q => (.ok (if s.stashKeeps c pa l.cc t.attr then .stash id a pa l.cc else q), s)

/-- The attributes of memory that no handle names. -/
def noAttr : Attr :=
  { space := 0, policy := 0, r := true, w := true, a := true, row := false, dev := 0, die := 0 }

/-- Address formation through a binding (R228): offset `o`, `n` bytes. -/
def State.resolveX (s : State) (r : GRef) (b : Block) (g : Group) (x : XReg) (o : Int) (n : Nat)
    (k : AccKind) (home : Bool := false) : Except MFault Loc × State :=
  match x with
  | .unbound => (.error (mfault cProtection 0 k none), s)
  | .scratch => (resolveScr b g r o n k, s)
  | .cluster => (s.resolveClu b g o n k, s)
  | .stash id => s.resolveStash b.core b g id o n k home
  | .callerTable base size =>
    if o < 0 || (size : Int) < o + n then (.error (mfault cBounds 0 k (some (base + o))), s)
    else if k == .atomic then (.error (mfault cProtection 1 k (some (base + o))), s)
    else match s.lostHome (base + o.toNat) noAttr with
      | some d => (.error (mfault cDieLost d k (some (base + o))), s)
      | none => (.ok (.table (base + o.toNat)), s)
  | .handle h => s.resolveHandle b.core g h o n k

/-- The context whose handle table a binding is made again from: in handler mode x2 to x5 are those of the
interrupted context (R227, R367; DEDUCED, log entry 19). -/
def Group.bindCtx (g : Group) (n : Nat) : Ctx :=
  match g.frames.getLast? with
  | some f => if n < 6 then { g.ctx with htab := f.htab, hcount := f.hcount } else g.ctx
  | none => g.ctx

/-- Makes a binding that waits to be made again at its first access (R227, R379). FAULTVA of a fault met there is the address
that the binding translates: DESIGN CHOICE (log entry 97). -/
def State.rebind (s : State) (r : GRef) (x : Nat) (k : AccKind) : Except MFault XReg × State :=
  match s.blocks[r.blk]?, s.group? r with
  | some b, some g =>
    match g.x.getD x .unbound with
    | .handle h =>
      if h.lazy then
        match s.bindHandle b.core r (g.bindCtx x) g.handler h.index h.boff with
        | (.error e, s) => (.error ({ e.1 with acc := k.code }, e.2), s)
        | (.ok h, s) => (.ok (.handle h), s.modGroup r (fun g => { g with x := g.x.set x (.handle h) }))
      else (.ok (.handle h), s)
    | q => (.ok q, s)
  | _, _ => (.error (mfault cProtection 0 k none), s)

/-- Address formation for one lane (R228): x register `x`, offset `o`, `n` bytes. -/
def State.resolve (s : State) (r : GRef) (x : Nat) (o : Int) (n : Nat) (k : AccKind)
    (home : Bool := false) : Except MFault Loc × State :=
  match s.rebind r x k with
  | (.error e, s) => (.error e, s)
  | (.ok q, s) => match s.blocks[r.blk]?, s.group? r with
    | some b, some g => s.resolveX r b g q o n k home
    | _, _ => (.error (mfault cProtection 0 k none), s)

/-- The callee scratchpad of a group at a gate depth: the running callee's, or that kept in the frame of a
further call. -/
def Group.scrAt (g : Group) (d : Nat) : List Host.Cell :=
  if d == g.gates.length then g.calleeScr
  else match g.gates[g.gates.length - 1 - d]? with
    | some f => f.scr
    | none => []

/-- The size of the callee scratchpad at a gate depth. -/
def Group.scrSizeAt (g : Group) (d : Nat) : Nat :=
  if d == g.gates.length then g.calleeSize
  else match g.gates[g.gates.length - 1 - d]? with
    | some f => f.scrSize
    | none => 0

/-- A group with the callee scratchpad of a gate depth changed. -/
def Group.setScrAt (g : Group) (d : Nat) (m : List Host.Cell) : Group :=
  if d == g.gates.length then { g with calleeScr := m }
  else { g with gates := modAt g.gates (g.gates.length - 1 - d) (fun f => { f with scr := m }) }

/-- Bytes of one line read for a core (R232): the bytes and, for a strong access, the entry of its line: returned at
device or system scope (R235), as it stands at a narrower one (R298, log entry 66). -/
def State.lineRead (s : State) (c : CoreId) (pa n cc : Nat) (a : Attr) (o : AOrd) :
    List Byte × Sig × State :=
  let line := pa / 128
  let cut := fun (l : List Byte) => (l.drop (pa % 128)).take n
  if o.atHome then
    let (l, s) := s.homeLoad c.die line cc (pa % 128) n
    let (e, s) := s.sigLookup line
    (cut l, if o.scope == 5 then e ||| s.inbound else e, s)
  else
    let e := if o.kind == OKind.weak then 0 else s.sigPeek line
    let far := fun (s : State) => let (l, s) := (s.reach c.die line).homeRead line; (cut l, e, s)
    if cc == 2 || (cc == 3 && s.homeOfLine line != some c.die) then far s
    else if a.policy == 2 then
      match s.l2? c.die line with
      | some _ => let (l, s) := s.l2Read c.die line cc; (cut l, e, s)
      | none => far ((s.reach c.die line).flushRecords c.die (s.homeOfLine line))
    else if a.policy == 1 then
      let (l, s) := s.l2Read c.die line cc
      (cut l, e, s)
    else
      let (l, s) := s.l1Read c line cc
      (cut l, e, s)

/-- Whether a store is performed at the home of a line whose copies the die keeps: a strong one at device or system scope,
and at a narrower scope one to an RD line of another die, which R232 allows, so that no record takes it apart (R303, log
entry 66). -/
def AOrd.toHome (o : AOrd) (s : State) (d cc pa : Nat) : Bool :=
  o.atHome || (o.kind != OKind.weak && cc == 0 && s.homeOf pa != some d)

/-- Bytes of one line stored for a core (R232): `sig` is the signature that the store carries (R247, R273). -/
def State.lineWrite (s : State) (c : CoreId) (pa cc : Nat) (bs : List Byte) (a : Attr) (o : AOrd)
    (sig : Option Sig) : State :=
  let line := pa / 128
  let s := match sig with | some e => s.sigOr line e | none => s
  if o.toHome s c.die cc pa then
    s.homeStore c.die line cc (pa % 128) bs
  else if cc == 2 || (cc == 3 && s.homeOfLine line != some c.die) then
    (s.reach c.die line).homeWrite line (spliceAt (List.replicate 128 0) (pa % 128) bs) (byteMask (pa % 128) bs.length)
  else if a.policy == 2 then s.homeStore c.die line cc (pa % 128) bs
  else if a.policy == 1 then s.l2Write c.die line cc (pa % 128) bs
  else s.l1Write c line cc (pa % 128) bs

/-- Bytes read from a physical address, line by line; `fuel` bounds the lines. An access of the host or of another device
returns an entry of all ones (R309; for the host DEDUCED from R297 and R310, log entry 18). -/
def State.memRead (s : State) (c : CoreId) (pa n cc : Nat) (a : Attr) (o : AOrd) :
    Nat → List Byte × Sig × State
  | 0 => ([], 0, s)
  | f + 1 =>
    if n == 0 then ([], 0, s)
    else match s.target pa a with
      | .remote key => (Memory.read s.remote key n, BitVec.allOnes 1024, s)
      | .host => (Memory.read s.hostMem pa n, BitVec.allOnes 1024, s)
      | .unpopulated => (List.replicate n 0, 0, { s with badPa := some pa })
      | .home =>
        let k := min (128 - pa % 128) n
        let (b, e, s) := s.lineRead c pa k cc a o
        let (b', e', s) := s.memRead c (pa + k) (n - k) cc a o f
        (b ++ b', e ||| e', s)

/-- Bytes stored at a physical address; outer-link and host stores are pending until their target
acknowledges them (R309, R310). -/
def State.memWrite (s : State) (r : GRef) (c : CoreId) (pa cc : Nat) (bs : List Byte) (a : Attr)
    (o : AOrd) (sig : Option Sig) : Nat → State
  | 0 => s
  | f + 1 =>
    if bs.isEmpty then s
    else
      let pend := fun (s : State) =>
        let (n, s) := s.fresh
        s.modGroup r (fun g => { g with unacked := g.unacked ++ [n] })
      match s.target pa a with
      | .remote key => pend { s with remote := Memory.write s.remote key bs }
      | .host => pend { s with hostMem := Memory.write s.hostMem pa bs }
      | .unpopulated => { s with badPa := some pa }
      | .home =>
        let k := min (128 - pa % 128) bs.length
        (s.lineWrite c pa cc (bs.take k) a o sig).memWrite r c (pa + k) cc (bs.drop k) a o sig f

/-- The bytes of the register window (R41): V[n][L] at 128 n + 4 L. -/
def winByte (g : Group) (o : Nat) : Byte :=
  ((g.v.getD (o / 128) []).getD (o % 128 / 4) 0).extractLsb' (8 * (o % 4)) 8

/-- A register window with one byte stored (R206). -/
def winSet (v : List Row) (o : Nat) (b : Byte) : List Row :=
  modAt v (o / 128) (fun r => modAt r (o % 128 / 4) (fun w =>
    (w &&& ~~~((0xFF : Word) <<< (8 * (o % 4)))) ||| (b.setWidth 32 <<< (8 * (o % 4)))))

def winWrite (v : List Row) (o : Nat) : List Byte → List Row
  | [] => v
  | b :: bs => winWrite (winSet v o b) (o + 1) bs

/-- Changes a stash of a block. -/
def State.modStash (s : State) (blk id : Nat) (f : Stash → Stash) : State :=
  s.modBlock blk (fun b => { b with stashes := modFirst (fun t => t.id == id) f b.stashes })

/-- A stash of a block. -/
def State.stash? (s : State) (blk id : Nat) : Option Stash :=
  (s.blocks[blk]?).bind (fun b => b.stashes.find? (fun t => t.id == id))

/-- Brings a line into a stash, in M where it is to be written (R208): the core's own copy moves there, and for what that
does not give the slice is asked (R263, R264). That the line moves, so that a load by either way meets the last
store, is a DESIGN CHOICE among the values that R209 allows (log entry 94). -/
def State.stashFill (s : State) (c : CoreId) (blk id idx line cc : Nat) (m : Bool) : State :=
  let put := fun (s : State) (x : L1Line) => (s.dropOwn c line).modStash blk id (fun t => { t with
    lines := { idx := idx, line := line, cc := cc, st := x.st, data := x.data, mask := x.mask } ::
      t.lines.filter (fun y => y.idx != idx) })
  let ask := fun (s : State) =>
    let (l, s) := s.getM c line cc
    put s { line := line, st := .m, data := l, mask := 0 }
  match s.ownCopy c line with
  | some x => match x.st with
    | .s => if m then ask s else put s x
    | st => put s { x with st := if m then .m else st }
  | none =>
    if m then ask s
    else
      let (st, l, s) := s.getS c line cc
      put s { line := line, st := st, data := l, mask := 0 }

/-- The dirty bytes of a line of a stash are written back; the line stays, clean (R208). -/
def State.stashLineBack (s : State) (blk : Nat) (t : Stash) (x : StashLine) : State :=
  if x.st == Mesi.m then
    (s.sink (s.coreOf blk).die x.line x.data x.mask).modStash blk t.id (fun t => { t with
      lines := modFirst (fun y => y.idx == x.idx) (fun y => { y with st := .e, mask := 0 }) t.lines })
  else s

/-- The dirty bytes of a block's stashes are written back (R208); `only` names one. -/
def State.stashBack (s : State) (blk : Nat) (only : Option Nat := none) : State :=
  match s.blocks[blk]? with
  | none => s
  | some b => (b.stashes.filter (fun t => only.isNone || only == some t.id)).foldl (fun s t =>
      t.lines.foldl (fun s x => s.stashLineBack blk t x) s) s

/-- The lines of a block's stashes become invalid, and the directory hears of those that the core owned (R208, R263);
`only` names one stash. -/
def State.stashDrop (s : State) (blk : Nat) (only : Option Nat := none) : State :=
  match s.blocks[blk]? with
  | none => s
  | some b =>
    let mine := fun (t : Stash) => only.isNone || only == some t.id
    let s := s.modBlock blk (fun b => { b with stashes := b.stashes.map (fun t =>
      if mine t then { t with lines := [] } else t) })
    (b.stashes.filter mine).foldl (fun s t =>
      t.lines.foldl (fun s x => s.relinquish b.core x.line) s) s

/-- A stash ends: its dirty bytes are written back, and its lines go (R208, R256). -/
def State.stashEnd (s : State) (blk id : Nat) : State :=
  ((s.stashBack blk (some id)).stashDrop blk (some id)).modBlock blk (fun b =>
    { b with stashes := b.stashes.filter (fun t => t.id != id) })

/-- The entries that a strong access at the homes of some lines returns: as a strong access of one line does (R235, R298,
log entry 66). -/
def State.sigsRead (s : State) (pa n : Nat) (o : AOrd) : Sig × State :=
  (linesOf pa n).foldl (fun (p : Sig × State) l =>
    if o.atHome then
      let (e, s) := p.2.sigLookup l
      (p.1 ||| (if o.scope == 5 then e ||| s.inbound else e), s)
    else if o.kind == OKind.weak then p
    else (p.1 ||| p.2.sigPeek l, p.2)) (0, s)

/-- The signature that a store carries enters the lines that it reaches (R273, R278). -/
def State.sigsOr (s : State) (pa n : Nat) (sig : Option Sig) : State :=
  match sig with
  | some e => (linesOf pa n).foldl (fun s l => s.sigOr l e) s
  | none => s

/-- Bytes read at a place, for a group: the bytes, the entry returned, the state. -/
def State.readLoc (s : State) (r : GRef) (l : Loc) (n : Nat) (o : AOrd) : List Byte × Sig × State :=
  let c := s.coreOf r.blk
  match l with
  | .scr b off => (Memory.read (((s.blocks[b]?).map (·.scr)).getD []) off n, 0, s)
  | .callee d off => (Memory.read (((s.group? r).map (·.scrAt d)).getD []) off n, 0, s)
  | .win off => ((List.range n).map (fun i =>
      match s.group? r with | some g => winByte g (off + i) | none => 0), 0, s)
  | .stash id off pa cc =>
    let s := s.stashFill c r.blk id (off / 128) (pa / 128) cc false
    let line := (s.stash? r.blk id).bind (fun t => t.lines.find? (fun x => x.idx == off / 128))
    (((((line.map (·.data)).getD []).drop (off % 128)).take n),
      if o.kind == OKind.weak then 0 else s.sigPeek (pa / 128), s)
  | .mem pa cc a => s.memRead c pa n cc a o (n + 1)
  | .table pa =>
    let (b, s) := s.ctlRead c.die pa n
    let (e, s) := s.sigsRead pa n o
    (b, e, s)

/-- Bytes stored at a place, for a group. -/
def State.writeLoc (s : State) (r : GRef) (l : Loc) (bs : List Byte) (o : AOrd) (sig : Option Sig) :
    State :=
  let c := s.coreOf r.blk
  match l with
  | .scr b off => s.modBlock b (fun k => { k with scr := Memory.write k.scr off bs })
  | .callee d off => s.modGroup r (fun g => g.setScrAt d (Memory.write (g.scrAt d) off bs))
  | .win off => s.modGroup r (fun g => { g with v := winWrite g.v off bs })
  | .stash id off pa cc =>
    let s := match sig with | some e => s.sigOr (pa / 128) e | none => s
    let s := (s.stashFill c r.blk id (off / 128) (pa / 128) cc true).modStash r.blk id (fun t => { t with
      lines := modFirst (fun y => y.idx == off / 128)
        (fun y => { y with data := spliceAt y.data (off % 128) bs,
                           mask := y.mask ||| byteMask (off % 128) bs.length }) t.lines })
    if cc == 0 && s.homeOf pa == some c.die then s.enterCsig c.die (pa / 128) else s
  | .mem pa cc a => s.memWrite r c pa cc bs a o sig (bs.length + 1)
  | .table pa => (s.sigsOr pa bs.length sig).ctlWrite c.die pa bs

/-- A group's count of atomics to a line so far, and one more (R428). -/
def State.amoCount (s : State) (r : GRef) (line : Nat) : Nat :=
  match s.reckon.amoOrds.find? (fun p => p.1 == r && p.2.1 == line) with | some p => p.2.2 | none => 0

def State.amoCounted (s : State) (r : GRef) (line : Nat) : State :=
  { s with reckon := { s.reckon with
      amoOrds := (r, line, s.amoCount r line + 1) ::
        s.reckon.amoOrds.filter (fun p => !(p.1 == r && p.2.1 == line)) } }

/-- The slot of a group. -/
def State.slotOf (s : State) (r : GRef) : Nat := ((s.group? r).map (·.slot)).getD 0

/-- AUX [7:0] of an atomic: cluster and core, two bits and eight, of which the low eight are kept (R428; DESIGN CHOICE,
log entry 73). -/
def placeByte (c : CoreId) : Nat := (c.cluster + 4 * c.core) % 256

/-- Whether a log entry is a given atomic: die, cluster and core, slot and count (R428). -/
def sameAmo (home : Nat) (c : CoreId) (slot count : Nat) (e : Nat × Nat × Nat × Nat) : Bool :=
  e.2.1 == 4 && e.2.2.1 == home + 4 * c.die && bitsN e.2.2.2 7 0 == placeByte c && bitsN e.2.2.2 11 8 == slot &&
  bitsN e.2.2.2 63 32 == count

/-- The turn of an atomic of a group (R428); a launch that has diverged is no longer held (R429). -/
def State.amoTurn (s : State) (d : Nat) (r : GRef) (line : Nat) : Turn :=
  let rcb := ((s.blocks[r.blk]?).map (·.rcb)).getD 0
  if s.reckon.diverged.contains rcb then .now
  else s.turn line (sameAmo ((s.homeOfLine line).getD 0) { s.coreOf r.blk with die := d } (s.slotOf r)
    (s.amoCount r line + 1))

/-- The order of an atomic at its home in the log (R428): recorded, or checked against it. -/
def State.logAmo (s : State) (d : Nat) (r : GRef) (line : Nat) : State :=
  let t := s.amoTurn d r line
  let s := s.amoCounted r line
  let (k, s) := s.nextOrd line
  let rcb := ((s.blocks[r.blk]?).map (·.rcb)).getD 0
  let s := if t == .diverges then s.diverge [rcb] line else s
  s.logEntry k 4 ((s.homeOfLine line).getD 0 + 4 * d) line
    (placeByte (s.coreOf r.blk) + 2 ^ 8 * s.slotOf r + 2 ^ 32 * s.amoCount r line)

/-- An atomic at the home slice of an address, sent by a die for a group (R232, R244). -/
def State.amoHome (s : State) (d : Nat) (r : GRef) (pa cc n : Nat) (o : AOrd) (sig : Option Sig)
    (f : List Byte → Option (List Byte)) : List Byte × Sig × State :=
  let s := s.beforeHome d (pa / 128) cc
  let (line, s) := s.homeRead (pa / 128)
  let old := (line.drop (pa % 128)).take n
  let (e, s) := if o.atHome then s.sigLookup (pa / 128) else (s.sigPeek (pa / 128), s)
  let e := if o.scope == 5 then e ||| s.inbound else e
  let s := match sig with
    | some g => s.sigOr (pa / 128) g
    | none => s
  let s := s.logAmo d r (pa / 128)
  (old, e, match f old with
    | some new => s.homeStore d (pa / 128) cc (pa % 128) new
    | none => s.patchDie d (pa / 128) (pa % 128) old)

/-- An atomic at a place (R232, R244): the old bytes, the entry returned before the access's own signature
is ORed in (R278), the state. `f` gives the new bytes, or none for a compare that fails. -/
def State.amoLoc (s : State) (r : GRef) (l : Loc) (n : Nat) (o : AOrd) (sig : Option Sig)
    (f : List Byte → Option (List Byte)) : List Byte × Sig × State :=
  match l with
  | .mem pa cc a =>
    match s.target pa a with
    | .home =>
      let c := s.coreOf r.blk
      s.amoHome c.die r pa cc n o sig f
    | .remote key =>
      let old := Memory.read s.remote key n
      (old, BitVec.allOnes 1024, match f old with
        | some new => { s with remote := Memory.write s.remote key new }
        | none => s)
    | .host =>
      let old := Memory.read s.hostMem pa n
      (old, BitVec.allOnes 1024, match f old with
        | some new => { s with hostMem := Memory.write s.hostMem pa new }
        | none => s)
    | .unpopulated => (List.replicate n 0, 0, { s with badPa := some pa })
  | l =>
    let (old, _, s) := s.readLoc r l n AOrd.weak
    (old, 0, match f old with | some new => s.writeLoc r l new AOrd.weak none | none => s)

/-- The empty words of an access of `n` bytes to the group's own window, as register and lane (R44, R206). -/
def Group.emptyWords (g : Group) (l : Loc) (n : Nat) : List (Nat × Mask) :=
  match l with
  | .win off => ((range' (off / 4) ((off + n + 3) / 4 - off / 4)).filter (fun w =>
      !((g.fe.getD (w / 32) 0).getLsbD (w % 32)))).map (fun w => (w / 32, (1 : Mask) <<< (w % 32)))
  | _ => []

/-- Whether an access must wait at its place: for an empty word of the window (R44, R206). -/
def State.locWaits (_s : State) (g : Group) (l : Loc) (n : Nat) : Bool := !(g.emptyWords l n).isEmpty

/-- The 32-bit FE mask of a register in full. -/
def feFull : Mask := BitVec.allOnes 32

/-- Whether a die has a record, or a line with a dirty twin, whose home is in reset: its releases wait for
the merge (R289). -/
def State.toReset (s : State) (d : Nat) : Bool :=
  let inR := fun (line : Nat) => match s.homeOfLine line with
    | some h => (s.die h).st == .inReset
    | none => false
  (s.die d).dirtyLines.any inR || s.records.any (fun r => r.src == d && inR r.line)

/-- Whether a home holds a merge of a die for its logged predecessor (R428). -/
def State.mergeHeld (s : State) (d : Nat) : Bool :=
  s.reckon.mode == 2 &&
  ((s.die d).dirtyLines ++ (s.records.filter (fun r => r.src == d)).map (·.line)).any (fun l =>
    s.mergeTurn l ((s.homeOfLine l).getD 0) d == .held)

/-- Whether every memory instruction, RWB, RINV and engine write of a group that was issued before identity `id` has
completed: loads returned, outer and host stores acknowledged, engine instructions and queue entries ended, those that a
save has recorded among them (R235, R247, R355, R414). What sibling splits issued counts too, which changes timing only;
the loads of a killed block are awaited by nothing (R344). -/
def State.priorOwn (s : State) (r : GRef) (id : Nat) : Bool :=
  match s.group? r with
  | none => false
  | some g => (g.loads.all (fun l => id ≤ l.id) || (s.blocks[r.blk]?).any (fun b => b.st == .killed)) &&
    g.unacked.isEmpty &&
    !(s.engines.any (fun e => e.grp == r && e.id < id)) &&
    !(s.dies.any (fun d => d.cq.any (fun q => q.2.grp == r && q.2.id < id))) &&
    !((s.blocks[r.blk]?).any (fun b => b.recorded.any (fun q => q.2.grp == r && q.2.id < id)))

/-- Whether a release of a group can be performed that follows what it issued before identity `id`: that has completed,
and the merges that the die's release waits for can come (R235, R247, R289, R414). -/
def State.priorDone (s : State) (r : GRef) (id : Nat) : Bool :=
  s.priorOwn r id && !(s.toReset (s.coreOf r.blk).die) && !(s.mergeHeld (s.coreOf r.blk).die)

/-- Whether what precedes a release in program order has completed (R235, R247). -/
def State.releaseReady (s : State) (r : SRef) : Bool := s.priorDone r.gref s.nextId

/-- The release of a group at a scope (R235, R247): stash lines written back at die scope or wider, and
the die's release run at device or system scope, whose signature it returns. -/
def State.releaseAt (s : State) (r : GRef) (scope : Nat) : Option Sig × State :=
  let s := if 3 ≤ scope then s.stashBack r.blk else s
  if 4 ≤ scope then
    let d := (s.coreOf r.blk).die
    let s := s.deviceRelease d
    (some (s.die d).csig, s)
  else (none, s)

/-- The signature pending from a release fence: every later strong store or atomic of the group to an HBM or CXL-tier
line carries it (R247, R298, log entry 66). -/
def Group.pendingSig (g : Group) : Option Sig := if g.relPending then some g.relSig else none

def optOr (a b : Option Sig) : Option Sig :=
  match a, b with
  | some x, some y => some (x ||| y)
  | some x, none => some x
  | none, y => y

/-- Whether a place is an HBM or CXL-tier line, which carries signatures (R247, R273). -/
def State.carries (s : State) : Loc → Bool
  | .mem pa _ a => s.target pa a == .home
  | .stash _ _ _ _ => true
  | .table pa => (s.homeOf pa).isSome
  | _ => false

/-- Later memory and engine instructions of a split wait for its loads (R235, R247). -/
def Group.holdLoads (g : Group) (sp : Nat) : Group :=
  { g with loads := g.loads.map (fun l => if l.sp == sp then { l with acq := true } else l) }

/-- Whether a split may not issue a memory or engine instruction yet (R235, R247). -/
def Group.acquirePending (g : Group) (sp : Nat) : Bool := g.loads.any (fun l => l.sp == sp && l.acq)

/-- The acquire of a fence at a scope (R247): later memory and engine instructions wait for the loads, and
at device or system scope the pending entries are applied and cleared; at system scope the inbound signature with them,
which an acquire at that scope would have returned (R298, R309). -/
def State.acquireAt (s : State) (r : SRef) (scope : Nat) : State :=
  let s := s.modGroup r.gref (fun g => g.holdLoads r.sp)
  if 4 ≤ scope then
    match s.group? r.gref with
    | some g => (s.applyEntry (s.coreOf r.blk).die
        (if scope == 5 then g.acqSig ||| s.inbound else g.acqSig)).modGroup r.gref
        (fun g => { g with acqSig := 0 })
    | none => s
  else s

/-- A release fence: the signature of the run stays pending for the group (R247). -/
def State.fenceRel (s : State) (r : GRef) (scope : Nat) : State :=
  let (e, s) := s.releaseAt r scope
  match e with
  | some e => s.modGroup r (fun g => { g with relSig := g.relSig ||| e, relPending := true })
  | none => s

end Sys2Proof.Machine
end

