-- ==== Sys2Proof/Machine/EngCore.lean ====
section
/-! DEFINITION. What engines do in the background for a group: barrier objects (11 R213, R214), landing of
copies and tile loads (17 R332, 21 R404), rows (21 R411, R412), engine faults (R402, R403). -/

namespace Sys2Proof.Machine

open Sys2Proof

/-- Bytes of the scratchpad that a group reaches through x0 at a gate depth. -/
def State.scrRead (s : State) (r : GRef) (depth off n : Nat) : List Byte :=
  if depth == 0 then Memory.read (((s.blocks[r.blk]?).map (·.scr)).getD []) off n
  else Memory.read (((s.group? r).map (·.scrAt depth)).getD []) off n

/-- Stores bytes into that scratchpad. -/
def State.scrWrite (s : State) (r : GRef) (depth off : Nat) (bs : List Byte) : State :=
  if depth == 0 then s.modBlock r.blk (fun b => { b with scr := Memory.write b.scr off bs })
  else s.modGroup r (fun g => g.setScrAt depth (Memory.write (g.scrAt depth) off bs))

/-- `Dec(n)` on the bytes of a barrier object (R214). -/
def objDec (bs : List Byte) (n : Nat) : List Byte :=
  let cnt : Word := wd (fieldN bs 0 4) - wd n
  if cnt.toInt ≤ 0 then
    let flg := (fieldN bs 10 1) ||| (if cnt.toInt < 0 then 2 else 0)
    (bs.drop 4).take 4 ++ (bs.drop 4).take 4 ++ bytesOfNat 2 (fieldN bs 8 2 + 1) ++
      bytesOfNat 1 flg ++ bs.drop 11
  else bytesOfNat 4 cnt.toNat ++ bs.drop 4

/-- An engine or `MBARV` decrements an object as it stands (R214). -/
def State.decObj (s : State) (r : GRef) (depth off n : Nat) : State :=
  s.scrWrite r depth off (objDec (s.scrRead r depth off 16) n)

/-- The canonical NaN that an invalidated tile element holds (R314). -/
def tileNaN : Word := 0x7FC00000

/-- A tile invalidated (R314). -/
def tileInvalid : List Word := List.replicate 2048 tileNaN

/-- A tile after placement (R314). -/
def tileZero : List Word := List.replicate 2048 0

def State.modTile (s : State) (blk t : Nat) (f : List Word → List Word) : State :=
  s.modBlock blk (fun b => { b with tiles := modAt b.tiles t f })

/-- Writes the registers of lanes `m` of register `n`. -/
def putRow (v : List Row) (n : Nat) (m : Mask) (f : Nat → Word) : List Row :=
  modAt v n (fun old => lanes.map (fun L => if m.getLsbD L then f L else old.getD L 0))

/-- Changes the window of the block's own context: the group's, or while a gate call runs the one kept in
the frame of its caller (R395). -/
def Group.ownWin (g : Group) (f : List Row → List Row) (h : List Mask → List Mask) : Group :=
  if g.gates.isEmpty then { g with v := f g.v, fe := h g.fe }
  else { g with gates := modAt g.gates (g.gates.length - 1) (fun q => { q with v := f q.v, fe := h q.fe }) }

/-- A `TMOV` from a tile that waits for nothing more reads its columns and fills its registers (R334). -/
def tmovApply (tile : List Word) (g : Group) (t : PendTmov) : Group :=
  (List.range t.count).foldl (fun g c => g.ownWin
    (fun v => putRow v (t.d + c) t.lanes (fun L => tile.getD (64 * L + t.col + c) 0))
    (fun fe => modAt fe (t.d + c) (· ||| t.lanes))) g

/-- Drops the entries of some registers of a group, which something writes (R48). -/
def State.dropRegs (s : State) (r : GRef) (ns : List Nat) : State :=
  if ns.isEmpty then s
  else s.modCore (s.coreOf r.blk) (fun c => { c with latch := c.latch.filter (fun e =>
    !(e.grp == r && e.regs.any ns.contains)) })

/-- The operand-latch entries of the registers that some `TMOV`s of a block's groups write are dropped (R48). -/
def State.dropTmovs (s : State) (blk : Nat) (p : PendTmov → Bool) : State :=
  (((s.blocks[blk]?).map (·.groups)).getD []).zipIdx.foldl (fun s x =>
    s.dropRegs ⟨blk, x.2⟩ ((x.1.tmovs.filter p).flatMap (fun t => range' t.d t.count))) s

/-- Work `id` on a tile of a block has been applied: the `TMOV`s that waited for it alone complete (R334). -/
def State.workDone (s : State) (blk id : Nat) : State :=
  (s.dropTmovs blk (fun t => t.waits.all (· == id))).modBlock blk (fun b => { b with groups := b.groups.map (fun g =>
    let ts := g.tmovs.map (fun t => { t with waits := t.waits.filter (· != id) })
    let g := (ts.filter (fun t => t.waits.isEmpty)).foldl
      (fun g t => tmovApply (b.tiles.getD t.tile []) g t) g
    { g with tmovs := ts.filter (fun t => !t.waits.isEmpty) }) })

/-- Work `id` on a tile of a block has been thrown away: the `TMOV`s that waited for it, whatever else they wait for,
fill their registers with the canonical NaN (R325, 4). -/
def State.workGone (s : State) (blk id : Nat) : State :=
  (s.dropTmovs blk (fun t => t.waits.contains id)).modBlock blk (fun b => { b with groups := b.groups.map (fun g =>
    let hit := fun (t : PendTmov) => t.waits.contains id
    let g := (g.tmovs.filter hit).foldl (fun g t => tmovApply tileInvalid g t) g
    { g with tmovs := g.tmovs.filter (fun t => !(hit t)) }) })

/-- TRAPINFO of an engine fault: ACC 5 for a translation, where R403 names it, and 0 for every other cause of class E
(R366). -/
def TrapInfo.ofEngine (t : TrapInfo) : TrapInfo :=
  { t with acc := if t.cause == cPageFault || t.cause == cProtection then 5 else 0 }

/-- An engine fault that waits for delivery to a group; one of a group that has ended is reported (R402). -/
def State.pushEFault (s : State) (r : GRef) (f : EFault) : State :=
  let f := { f with info := f.info.ofEngine }
  match s.group? r with
  | none => s
  | some g =>
    if g.ended then s.report (.undelivered (((s.blocks[r.blk]?).map (·.rcb)).getD 0) f.info.cause)
    else s.modGroup r (fun g => { g with efaults := g.efaults ++ [f] })

/-- An engine fault that names no address: FAULTVA is a free value (log entry 6). `depth` is the gate depth of its
instruction. -/
def State.pushFault (s : State) (r : GRef) (t : TrapInfo) (obj : Option Nat) (matrix : Bool) (depth : Nat := 0)
    (tld : Bool := false) : State :=
  let (n, s) := s.freeN
  s.pushEFault r { info := t, va := BitVec.ofNat 64 n, obj := obj, depth := depth, matrix := matrix, tld := tld }

def State.engine? (s : State) (id : Nat) : Option EngOp := s.engines.find? (fun e => e.id == id)

def State.modEngine (s : State) (id : Nat) (f : EngOp → EngOp) : State :=
  { s with engines := modFirst (fun e => e.id == id) f s.engines }

/-- An engine instruction has ended. -/
def State.endEngine (s : State) (id : Nat) : State :=
  { s with engines := s.engines.filter (fun e => e.id != id) }

/-- The group of an engine instruction in the context that issued it: gate depth with its callee scratchpad, address
space, handler level (R364, R379, R385). -/
def Group.engView (g : Group) (depth asid level : Nat) : Group :=
  { g with gates := g.gates.drop (g.gates.length - depth), level := level,
           calleeSize := g.scrSizeAt depth, ctx := { g.ctx with asid := asid } }

/-- The virtual address that offset 0 of a binding stands for. -/
def Block.bindBase (b : Block) : XReg → Nat
  | .handle h => h.vbase + h.boff
  | .stash id => ((b.stashes.find? (fun t => t.id == id)).map (·.va)).getD 0
  | _ => 0

/-- The address of byte `k` of an endpoint. -/
def State.endVa (s : State) (r : GRef) (e : Endpoint) (k : Nat) : Int :=
  (((s.blocks[r.blk]?).map (·.bindBase e.x)).getD 0 : Nat) + e.off + k

/-- Reads one byte of an endpoint for the engine; the flag says that the line has an uncorrectable error
(R404). -/
def State.endRead (s : State) (r : GRef) (g : Group) (e : Endpoint) (k : Nat) :
    Except MFault (Byte × Bool) × State :=
  match s.blocks[r.blk]? with
  | none => (.error (mfault cProtection 0 .engR none), s)
  | some b => match s.resolveX r b g e.x (e.off + k) 1 .engR with
    | (.error f, s) => (.error f, s)
    | (.ok l, s) =>
      let bad := match l with | .mem pa _ a => a.space != 3 && s.eccBad.contains (pa / 128) | _ => false
      let (bs, _, s) := s.readLoc r l 1 AOrd.weak
      (.ok (bs.headD 0, bad), s)

/-- Writes one byte of an endpoint for the engine. -/
def State.endWrite (s : State) (r : GRef) (g : Group) (e : Endpoint) (k : Nat) (v : Byte) :
    Except MFault Unit × State :=
  match s.blocks[r.blk]? with
  | none => (.error (mfault cProtection 0 .engW none), s)
  | some b => match s.resolveX r b g e.x (e.off + k) 1 .engW with
    | (.error f, s) => (.error f, s)
    | (.ok l, s) => (.ok (), s.writeLoc r l [v] AOrd.weak none)

/-- Lands bytes of a copy from byte `k`, at most `n`: how many landed, the fault that stopped it, the
state (R404). -/
def State.copyBytes (s : State) (r : GRef) (g : Group) (dst src : Endpoint) (k : Nat) :
    Nat → Nat × Option MFault × State
  | 0 => (0, none, s)
  | n + 1 => match s.endRead r g src k with
    | (.error f, s) => (0, some f, s)
    | (.ok (v, bad), s) =>
      if bad then (0, some (mfault cEcc 0 .engR (some (s.endVa r src k))), s)
      else match s.endWrite r g dst k v with
        | (.error f, s) => (0, some f, s)
        | (.ok _, s) =>
          let (m, e, s) := s.copyBytes r g dst src (k + 1) n
          (m + 1, e, s)

/-- Lands bytes of a tile load from byte `k` (R332). -/
def State.tileBytes (s : State) (r : GRef) (g : Group) (tile : Nat) (src : Endpoint) (k : Nat)
    (poison : Bool) : Nat → Nat × Bool × Option MFault × State
  | 0 => (0, poison, none, s)
  | n + 1 => match s.endRead r g src k with
    | (.error f, s) => (0, poison, some f, s)
    | (.ok (v, bad), s) =>
      let s := s.modTile r.blk tile (fun t => modAt t (k / 4) (fun w =>
        (w &&& ~~~((0xFF : Word) <<< (8 * (k % 4)))) ||| (v.setWidth 32 <<< (8 * (k % 4)))))
      let (m, p, e, s) := s.tileBytes r g tile src (k + 1) (poison || bad) n
      (m + 1, p, e, s)

/-- Whether an engine instruction is a tile load. -/
def EngKind.isTld : EngKind → Bool
  | .tld _ _ _ _ => true
  | _ => false

/-- A fault that the engine met after issue: a fault record for a translation (R403), the end of the
instruction for any other. -/
def State.engineFaulted (s : State) (op : EngOp) (f : MFault) : State :=
  let (t, s) := s.fresh
  let (n, s) := s.freeN
  let va : BitVec 64 := match f.2 with | some a => BitVec.ofInt 64 a | none => BitVec.ofNat 64 n
  let info := { f.1 with acc := 5 }
  if info.offered then
    let rec? : Option FaultRec := (s.group? op.grp).map (fun g =>
      { token := t, va := va, asid := op.asid, fdom := op.fdom, info := info,
        core := s.coreOf op.grp.blk, slot := g.slot, mask := 0 })
    (s.modDie op.die (fun d => { d with faultq := d.faultq ++ rec?.toList })).modEngine op.id
      (fun e => { e with wait := some t })
  else ((s.endEngine op.id).pushEFault op.grp
    { info := info, va := va, obj := some op.obj, depth := op.depth, matrix := false,
      tld := op.kind.isTld }).workDone op.grp.blk op.id

/-- Whether an endpoint is in the scratchpad of a block or a cohort. -/
def Endpoint.onScratch (e : Endpoint) : Bool :=
  match e.x with | .scratch | .cluster | .stash _ => true | _ => false

/-- Whether a copy reads its byte `k` in a scratchpad, and so has begun to read there (R355). -/
def State.readsScr (s : State) (r : GRef) (g : Group) (e : Endpoint) (k : Nat) : Bool :=
  e.onScratch && (match (s.endRead r g e k).1 with | .ok _ => true | .error _ => false)

/-- A run of `n` bytes of a copy or tile load lands (R332, R404): the object is decremented by the bytes
that landed, after the release where the instruction ends with REL (R414). The instruction has begun once a byte has landed
or has been read in a scratchpad (R355). -/
def State.landRun (s : State) (op : EngOp) (n : Nat) : State :=
  match s.group? op.grp with
  | none => s.endEngine op.id
  | some g0 =>
    let g := g0.engView op.depth op.asid op.level
    match op.kind with
    | .copy dst src len done =>
      let read := s.readsScr op.grp g src done
      let (m, f, s) := s.copyBytes op.grp g dst src done (min n (len - done))
      let s := s.modEngine op.id (fun e => { e with began := e.began || m != 0 || read })
      let last := done + m == len
      let s := if last && op.rel then s.fenceRel op.grp op.scope else s
      let s := if m == 0 then s else s.decObj op.grp op.depth op.obj m
      let s := if last then s.endEngine op.id
        else s.modEngine op.id (fun e => { e with kind := .copy dst src len (done + m) })
      (match f with | some f => s.engineFaulted op f | none => s)
    | .tld tile src done poison =>
      let (m, p, f, s) := s.tileBytes op.grp g tile src done poison (min n (8192 - done))
      let s := s.modEngine op.id (fun e => { e with began := e.began || m != 0 })
      let last := done + m == 8192
      let s := if last && p then
          (s.modTile op.grp.blk tile (fun _ => tileInvalid)).pushFault op.grp
            { cause := cEcc } (some op.obj) false op.depth true
        else s
      let s := if m == 0 then s else s.decObj op.grp op.depth op.obj m
      let s := if last then (s.endEngine op.id).workDone op.grp.blk op.id
        else s.modEngine op.id (fun e => { e with kind := .tld tile src (done + m) p })
      (match f with | some f => s.engineFaulted op f | none => s)
    | _ => s

/-- The bits of `ROWOP` over bytes (R410). -/
def rowBits (op : Nat) (a b c : Byte) : Byte :=
  match op with
  | 0 => a &&& b
  | 1 => a ||| b
  | 2 => a ^^^ b
  | 3 => ~~~a
  | _ => (a &&& b) ||| (a &&& c) ||| (b &&& c)

/-- The 1024 bytes of a row in DRAM (R409); its controller counts an access to the page (R430). -/
def State.rowRead (s : State) (pa : Nat) : List Byte × State := (Memory.read s.dram pa 1024, s.hotTouch (pa / 128))

/-- The lines of a row. -/
def rowLines (pa : Nat) : List Nat := range' (pa / 128) 8

/-- Writes a row whole; its lines take the error marks `bad`, and its controller counts an access to the page (R412,
R415, R430). -/
def State.rowWrite (s : State) (pa : Nat) (bs : List Byte) (bad : List Nat) : State :=
  { s.hotTouch (pa / 128) with
    dram := Memory.write s.dram pa bs,
    eccBad := bad ++ s.eccBad.filter (fun l => !((rowLines pa).contains l)) }

/-- The error marks that a row takes from a source row (R415). -/
def State.rowBad (s : State) (src dst : Nat) : List Nat :=
  (List.range 8).filterMap (fun i =>
    if s.eccBad.contains (src / 128 + i) then some (dst / 128 + i) else none)

/-- Whether a row holds an uncorrectable error. -/
def State.rowIsBad (s : State) (pa : Nat) : Bool := (rowLines pa).any (fun l => s.eccBad.contains l)

/-- One row of a row instruction is done (R411, R412, R415); after the last one the release, before the
last decrement (R414). -/
def State.rowStep (s : State) (op : EngOp) : State :=
  let fin := fun (s : State) (n done : Nat) (k : EngKind) =>
    let last := done + 1 == n
    let s := if last && op.rel then s.fenceRel op.grp op.scope else s
    let s := s.decObj op.grp op.depth op.obj 1024
    if last then s.endEngine op.id else s.modEngine op.id (fun e => { e with kind := k, began := true })
  match op.kind with
  | .rowcpy dst src done =>
    let d := dst.getD done 0
    let q := src.getD done 0
    let (bs, s) := s.rowRead q
    fin (s.rowWrite d bs (s.rowBad q d)) dst.length done (.rowcpy dst src (done + 1))
  | .rowfill dst pat done =>
    let d := dst.getD done 0
    fin (s.rowWrite d (List.replicate 128 (bytesOfNat 8 pat.toNat)).flatten []) dst.length done
      (.rowfill dst pat (done + 1))
  | .rowop o dst s1 s2 s3 done =>
    let d := dst.getD done 0
    let used := [s1.getD done 0] ++ (if o == 3 then [] else [s2.getD done 0]) ++
      (if o == 4 then [s3.getD done 0] else [])
    let s :=
      if used.any (fun p => s.rowIsBad p) then
        s.pushFault op.grp { cause := cEcc } (some op.obj) false op.depth
      else
        let (a, s) := s.rowRead (s1.getD done 0)
        let (b, s) := if o == 3 then ([], s) else s.rowRead (s2.getD done 0)
        let (c, s) := if o == 4 then s.rowRead (s3.getD done 0) else ([], s)
        let bs := (List.range 1024).map (fun i => rowBits o (a.getD i 0) (b.getD i 0) (c.getD i 0))
        let s := s.rowWrite d bs []
        { s with eccPending := insertNat (d / 524288) s.eccPending }
    fin s dst.length done (.rowop o dst s1 s2 s3 (done + 1))
  | _ => s

/-- The rows of a row instruction that are still to do. -/
def EngKind.rowsLeft : EngKind → Nat
  | .rowcpy d _ k => d.length - k
  | .rowfill d _ k => d.length - k
  | .rowop _ d _ _ _ k => d.length - k
  | _ => 0

/-- Whether an engine instruction works on rows. -/
def EngKind.isRow : EngKind → Bool
  | .rowcpy _ _ _ | .rowfill _ _ _ | .rowop _ _ _ _ _ _ => true
  | _ => false

/-- A queue entry replaced, and an entry that has ended. -/
def State.putCpq (s : State) (die q : Nat) (old new : CpqEntry) : State :=
  s.modDie die (fun d => { d with cq := modFirst (· == (q, old)) (fun _ => (q, new)) d.cq })
def State.dropCpq (s : State) (die q : Nat) (e : CpqEntry) : State :=
  s.modDie die (fun d => { d with cq := dropFirst (· == (q, e)) d.cq })

/-- Reads the source bytes of a queue entry, at most `n` (R406). -/
def State.cpqRead (s : State) (die q : Nat) (e : CpqEntry) (n : Nat) : CpqEntry × Option MFault × State :=
  match s.group? e.grp with
  | none => (e, none, s)
  | some g0 =>
    let g := g0.engView e.depth e.asid e.level
    let (m, bs, f, s) := (List.range (min n (e.len - e.read))).foldl
      (fun (p : Nat × List Byte × Option MFault × State) _ =>
        let (m, bs, f, s) := p
        if f.isSome then p
        else match s.endRead e.grp g e.src (e.read + m) with
          | (.error x, s) => (m, bs, some x, s)
          | (.ok (v, bad), s) =>
            if bad then (m, bs, some (mfault cEcc 0 .engR (some (s.endVa e.grp e.src (e.read + m)))), s)
            else (m + 1, v :: bs, none, s)) (0, [], none, s)
    let e' := { e with data := e.data ++ bs.reverse, read := e.read + m, started := true }
    let s := match e.obj with
      | some o => if m == 0 then s else s.decObj e.grp e.depth o m
      | none => s
    (e', f, s.putCpq die q e e')


end Sys2Proof.Machine
end

