-- ==== Sys2Proof/Machine/Split.lean ====
section
/-! DEFINITION. Splits: division, parking, fusion and serialization (03 R32 to R38, 09 R186), exited lanes
(R33), and what ends a group, a block and a region (R33, R344). -/

namespace Sys2Proof.Machine

open Sys2Proof

/-- The splits of a group that are valid, with their entries. -/
def Group.valid (g : Group) : List (Nat × Split) :=
  (g.splits.zipIdx).filterMap (fun x => x.1.map (fun p => (x.2, p)))

/-- The lanes of the pending entries of a mask stack. -/
def MEntry.pendingLanes (e : MEntry) : Mask := if e.kind == .pending then e.mask else 0

/-- The live lanes of a group (R33). -/
def Group.live (g : Group) : Mask :=
  g.valid.foldl (fun m x => m ||| x.2.mask ||| x.2.mstk.foldl (fun k e => k ||| e.pendingLanes) 0) 0

/-- Whether a group is fused (R34): one split, MDEPTH 0, every live lane. -/
def Group.fused (g : Group) : Bool :=
  match g.valid with
  | [x] => x.2.mstk.isEmpty
  | _ => false

/-- The free entries of the split table, lowest first. -/
def Group.freeEntries (g : Group) : List Nat :=
  indicesWhere (fun (x : Option Split) => x.isNone) g.splits

/-- Step 3 of R37 at the head of the mask stack, while it applies; `n` bounds the pops. -/
def Split.pop (p : Split) : Nat → Split
  | 0 => p
  | n + 1 =>
    match p.mstk with
    | [] => p
    | e :: es =>
      let top := (p.mstk.find? (fun e => e.kind == .rejoin)).map (·.pc)
      if p.mask == 0 || some p.pc == top then
        ({ p with pc := e.pc, mask := e.mask, mstk := es } : Split).pop n
      else p

/-- A ready split acts on its mask stack (R37), then parks at the reconvergence address of its list
(R36). -/
def Split.arrive (p : Split) : Split :=
  if p.st == .ready then
    let p := p.pop 9
    match p.mstk, p.rlist.getLast? with
    | [], some e => if e.ra == p.pc then { p with st := .parkedRa } else p
    | _, _ => p
  else p

/-- Whether an entry leaves the table: no lanes and no stack (R33). -/
def Split.gone (p : Split) : Bool := p.mask == 0 && p.mstk.isEmpty

/-- The parked splits of one reconvergence list that may fuse (R36): their entries and the union. DEDUCED (log entry
63): where the splits parked at one address have different lists, those of each list fuse on their own.
While a pre-emption is pending they stay parked (R351). -/
def Group.fuseSet (g : Group) : Option (List Nat × Mask × Split) :=
  if g.preempting then none else (g.valid.filterMap (fun (x : Nat × Split) =>
    if x.2.st == .parkedRa then
      let same := g.valid.filter (fun y => y.2.st == .parkedRa && y.2.rlist == x.2.rlist)
      let u := same.foldl (fun m y => m ||| y.2.mask) 0
      if (x.2.rlist.getLast?).map (·.exp) == some u then some (same.map (·.1), u, x.2) else none
    else none)).head?

/-- Whether a split stands before its next unit, which issues or waits for operands. -/
def SplitSt.atIssue : SplitSt → Bool
  | .ready | .operand _ _ => true
  | _ => false

/-- Whether a split waits for operands. -/
def SplitSt.waiting : SplitSt → Bool
  | .operand _ _ => true
  | _ => false

/-- Two splits that fuse at issue selection (R38): equal PCs and RLISTs, and MDEPTH 0. -/
def Split.fuses (p q : Split) : Bool :=
  p.st.atIssue && q.st.atIssue && p.pc == q.pc && p.rlist == q.rlist && p.mstk.isEmpty && q.mstk.isEmpty &&
  p.replay.isNone && q.replay.isNone

/-- The splits of a group that fuse with the one in an entry at issue selection join it in the lowest of their entries
(R38). -/
def Group.fuseEqual (g : Group) (sp : Nat) : Group :=
  match g.splits.getD sp none with
  | none => g
  | some p =>
    let es := (g.valid.filter (fun x => x.1 == sp || x.2.fuses p)).map (·.1)
    if es.length < 2 then g
    else
      let u := g.valid.foldl (fun m x => if es.contains x.1 then m ||| x.2.mask else m) 0
      let low := es.headD sp
      { g with splits := (g.splits.zipIdx).map (fun x =>
          if x.2 == low then some { p with mask := u, st := .ready } else if es.contains x.2 then none else x.1) }

/-- The splits of a group after an issue: stacks, parking and fusion, until nothing more happens; `n`
bounds the rounds (R33, R36, R37). -/
def Group.settle (g : Group) : Nat → Group
  | 0 => g
  | n + 1 =>
    let g := { g with splits := g.splits.map (fun (x : Option Split) => (x.map Split.arrive).bind (fun p =>
      if p.gone then none else some p)) }
    match g.fuseSet with
    | some (es, u, p) =>
      let low := es.headD 0
      ({ g with splits := (g.splits.zipIdx).map (fun (x : Option Split × Nat) =>
          if x.2 == low then some { p with mask := u, st := .ready, rlist := p.rlist.dropLast }
          else if es.contains x.2 then none else x.1) } : Group).settle n
    | none => g

/-- Lanes leave a group (R33): its splits' masks, every EXP and every mask of a stack. -/
def Group.exitLanes (g : Group) (m : Mask) : Group :=
  { g with splits := g.splits.map (Option.map (fun p =>
      { p with mask := p.mask &&& ~~~m,
               rlist := p.rlist.map (fun e => { e with exp := e.exp &&& ~~~m }),
               mstk := p.mstk.map (fun e => { e with mask := e.mask &&& ~~~m }),
               replay := p.replay.map (fun q => { q with mask := q.mask &&& ~~~m }) })) }

/-- Divides or serializes a split (R35 to R37, R186): the kept destination, the others in ascending
order, the reconvergence address. None when neither can be done: `SPLIT_LIMIT`. -/
def Group.divide (g : Group) (sp : Nat) (kept : Pc × Mask) (others : List (Pc × Mask))
    (ra : Option Pc) : Option Group :=
  match g.splits.getD sp none with
  | none => none
  | some p =>
    let free := g.freeEntries
    if others.length ≤ free.length && p.mstk.isEmpty && (p.rlist.length < 4 || ra.isNone) then
      let rl := match ra with
        | some a => p.rlist ++ [{ ra := a, exp := p.mask }]
        | none => p.rlist
      let base : Split := { p with rlist := rl, st := .ready, replay := none }
      let g := { g with splits := g.splits.set sp (some { base with pc := kept.1, mask := kept.2 }) }
      some ((others.zip free).foldl (fun g x =>
        { g with splits := g.splits.set x.2 (some { base with pc := x.1.1, mask := x.1.2 }) }) g)
    else match ra with
      | none => none
      | some a =>
        if p.mstk.length + others.length + 1 ≤ 8 then
          let stk := (others.map (fun x => ({ kind := .pending, pc := x.1, mask := x.2 } : MEntry))) ++
            [{ kind := .rejoin, pc := a, mask := p.mask }] ++ p.mstk
          some { g with splits := g.splits.set sp (some { p with
            pc := kept.1, mask := kept.2, mstk := stk, st := .ready, replay := none }) }
        else none

/-- Drops the operand-latch entries of a group (R48). -/
def State.dropLatch (s : State) (r : GRef) : State :=
  s.modCore (s.coreOf r.blk) (fun c => { c with latch := c.latch.filter (fun e => e.grp != r) })

/-- Drops the entries of some splits of a group (R48: a split divides or fuses). -/
def State.dropHeld (s : State) (r : GRef) (sps : List Nat) : State :=
  if sps.isEmpty then s
  else s.modCore (s.coreOf r.blk) (fun c => { c with latch := c.latch.filter (fun e =>
    !(e.grp == r && sps.contains e.sp)) })

/-- The group takes the lowest free slots of a core when it is placed (R434). -/
def State.freeSlots (s : State) (c : CoreId) : List Nat :=
  let used := (s.groupsOn c).filterMap (fun r => (s.group? r).bind (fun g =>
    if g.ended then none else some g.slot))
  (List.range 16).filter (fun i => !used.contains i)

/-- The group of a block leaves every gang it belongs to (R321), and its undelivered engine faults are
reported (R402). -/
def State.groupEnd (s : State) (r : GRef) : State :=
  match s.group? r with
  | none => s
  | some g =>
    if g.live == 0 && !g.ended then
      let rcb := ((s.blocks[r.blk]?).map (·.rcb)).getD 0
      let s := g.efaults.foldl (fun s f => s.report (.undelivered rcb f.info.cause)) s
      (s.modGroup r (fun g => { g with ended := true, efaults := [], rgnOpen := false })).modBlock r.blk
        (fun b => { b with gang := b.gang.map (fun w => w &&& ~~~((1 : BitVec 16) <<< r.grp)) })
    else s

/-- Whether a block has ended: no group lives, no load, atomic or engine instruction of it is under way
(R191). -/
def State.blockDone (s : State) (n : Nat) : Bool :=
  match s.blocks[n]? with
  | none => false
  | some b => b.st == .resident && b.groups.all (fun g => g.ended && g.loads.isEmpty) &&
    !(s.engines.any (fun e => e.grp.blk == n))

/-- A block that has ended leaves its core; what its stashes hold dirty is written back (R208). -/
def State.blockEnd (s : State) (n : Nat) : State :=
  if s.blockDone n then ((s.stashBack n).stashDrop n).modBlock n (fun b => { b with st := .ended }) else s

/-- STATE of a region, written to its control block (R342). -/
def State.setRegionSt (s : State) (rcb st : Nat) : State :=
  (s.modRegion rcb (fun r => { r with st := st })).physWrite (rcb + 11) (bytesOfNat 1 st)

/-- COMPL of a region, written as a release at system scope (R344): every die where the region had blocks, a lost one
apart, has run its release (R295), and their signatures go with it. -/
def State.bumpCompl (s : State) (rcb : Nat) : State :=
  match s.region? rcb with
  | none => s
  | some r =>
    let ds := r.dies.filter (fun d => (s.die d).st != .lost)
    let s := ds.foldl (fun s d => s.deviceRelease d) s
    let e := ds.foldl (fun (e : Sig) d => e ||| (s.die d).csig) 0
    let s := s.modRegion rcb (fun r => { r with compl := r.compl + 1 })
    (s.sigOr ((rcb + 56) / 128) e).physWrite (rcb + 56) (bytesOfNat 8 (r.compl + 1))

/-- CHILDREN of a region changed (R342, R344, R358). -/
def State.setChildren (s : State) (rcb n : Nat) : State :=
  (s.modRegion rcb (fun r => { r with children := n })).physWrite (rcb + 64) (bytesOfNat 4 n)

/-- The time-loss record of a region is written before its completion counter (R427): what no other component
took of the time from START to END is QUEUE. -/
def State.writeTloss (s : State) (r : Region) : State :=
  if r.tloss == 0 then s
  else
    let (b, s) := s.physRead r.tloss 8
    let rest := r.tl.fault + r.tl.io + r.tl.engine + r.tl.other
    let queue := s.wall - BitVec.ofNat 64 (natOfBytes b) - BitVec.ofNat 64 rest
    s.physWrite (r.tloss + 8) (bytesOfNat 8 s.wall.toNat ++ bytesOfNat 8 queue.toNat ++
      bytesOfNat 8 r.tl.fault ++ bytesOfNat 8 r.tl.io ++ bytesOfNat 8 r.tl.engine ++
      bytesOfNat 8 r.tl.other ++ bytesOfNat 8 0)

/-- The steps of completion, with the final STATE 5 or 6 (R344); links return to the default table (R286),
and queued launches of the region are gone. -/
def State.completeRegion (s : State) (rcb final : Nat) : State :=
  match s.region? rcb with
  | none => s
  | some r =>
    let s := s.setRegionSt rcb 4
    let s := (s.writeTloss r).bumpCompl rcb
    let s := s.setRegionSt rcb final
    let s := { s with links := s.links.map (fun l =>
      if l.owner == some rcb then { l with owner := none, table := defaultAlmanac } else l) }
    match r.parent with
    | none => s
    | some p =>
      let s := match s.region? p with
        | some q => s.setChildren p (q.children - 1)
        | none => s
      match r.forkBlk with
      | some b => s.modBlock b (fun k => { k with children := k.children - 1 })
      | none => s

/-- Removes what a killed region still has: its blocks, queue entries, engine instructions but those on rows (R416), and
copy-queue entries that have not started, those of blocks that have ended among them (R191, R344, R408). -/
def State.clearRegion (s : State) (rcb : Nat) : State :=
  let all := indicesWhere (fun (b : Block) => b.rcb == rcb) s.blocks
  let bs := indicesWhere (fun (b : Block) => b.rcb == rcb && b.st != .ended) s.blocks
  let s := bs.foldl (fun s n =>
    match s.blocks[n]? with
    | some b => if b.st == .resident then (s.stashBack n).stashDrop n else s
    | none => s) s
  { s with
    blocks := (s.blocks.zipIdx).map (fun x =>
      if bs.contains x.2 then { x.1 with st := .killed } else x.1),
    engines := s.engines.filter (fun e => e.kind.isRow || !(bs.contains e.grp.blk)),
    dies := s.dies.map (fun d => { d with
      lq := d.lq.filter (fun q => match q.2 with
        | .launch r => r != rcb
        | .block b => !(bs.contains b)),
      cq := d.cq.filter (fun q => q.2.started || !(all.contains q.2.grp.blk)) }) }

/-- Whether a region may still be killed: STATE below 4. -/
def Region.alive (r : Region) : Bool := r.st < 4

/-- Kills a region, its descendants first (R344); `n` bounds the depth. -/
def State.killRegion (s : State) (rcb : Nat) : Nat → State
  | 0 => s
  | n + 1 =>
    let kids := (s.regions.filter (fun r => r.parent == some rcb && r.alive)).map (·.rcb)
    let s := kids.foldl (fun s k => s.killRegion k n) s
    match s.region? rcb with
    | some r => if r.alive then (s.clearRegion rcb).completeRegion rcb 6 else s
    | none => s

/-- Kills the region of a group and reports the cause (R371). -/
def State.killFor (s : State) (r : GRef) (cause : Nat) : State :=
  match s.blocks[r.blk]? with
  | none => s
  | some b =>
    let s := s.killRegion b.rcb (s.regions.length + 1)
    s.report (if cause == cHandlerNest then .handlerNest b.rcb else .killed b.rcb cause)

end Sys2Proof.Machine
end

