-- ==== Sys2Proof/Machine/Ops.lean ====
section
/-! DEFINITION. Shared operations: reading and writing registers, taking a trap and returning from one (20
R365 to R377), leaving a gate call (R382, R396), trace records (22 R425), and the issue of one unit: its
checks, its waits and its end (04 R83, 03 R51, R52). -/

namespace Sys2Proof.Machine

open Sys2Proof

/-- A predicate k1 to k7 (R53); 0 names none and reads as every lane. -/
def Group.kGet (g : Group) (n : Nat) : Mask := if n == 0 then feFull else g.k.getD (n - 1) 0

/-- Writes the lanes `m` of a predicate. -/
def Group.kSet (g : Group) (n : Nat) (m : Mask) (v : Mask) : Group :=
  { g with k := modAt g.k (n - 1) (fun old => (old &&& ~~~m) ||| (v &&& m)) }

def Group.sGet (g : Group) (n : Nat) : Word := g.s.getD n 0

def Group.vGet (g : Group) (n L : Nat) : Word := (g.v.getD n []).getD L 0

/-- What a parked unit left pending (R370): v registers, the lanes in which it cleared their FE bits, and s registers. -/
structure Owed where
  v : List Nat := []
  lanes : Mask := 0
  s : List Nat := []

def Parked.owed (k : Parked) : Owed := { v := k.vregs, lanes := k.mask, s := k.sregs }

/-- What a parked unit of a split left pending, or its replay has still to write (R370). -/
def Split.owed (p : Split) : Owed :=
  match p.st, p.replay with
  | .parkedFault k, _ => k.owed
  | _, some q => { v := q.vregs, lanes := q.mask, s := q.sregs }
  | _, none => {}

/-- What the parked units of a handler frame left pending: the trapping split's and its siblings' (R370). -/
def HFrame.owed (f : HFrame) : List Owed :=
  (match f.pend with | some (_, p) => [p.owed] | none => []) ++
  f.splits.filterMap (fun o => o.map Split.owed)

/-- What parked units left pending, while a handler runs, nested or not (R370). -/
def Group.owed (g : Group) : List Owed := g.frames.flatMap HFrame.owed

def Group.pendV (g : Group) : List Nat := g.owed.flatMap (·.v)

def Group.pendS (g : Group) : List Nat := g.owed.flatMap (·.s)

/-- The lanes of a v register that loads, atomics and `TMOV`s under way are still to fill (R51, R334). -/
def Group.comingLanes (g : Group) (n : Nat) : Mask :=
  g.tmovs.foldl (fun m t => if t.d ≤ n && n < t.d + t.count then m ||| t.lanes else m)
    (g.loads.foldl (fun m l => if l.v.any (fun x => x.1 == n) then m ||| l.lanes else m) 0)

/-- The lanes of a v register whose FE bits parked units left clear and handler code has not made wait for something of
its own (R370). -/
def Group.pendLanes (g : Group) (n : Nat) : Mask :=
  g.owed.foldl (fun m o => if o.v.contains n then m ||| o.lanes else m) 0 &&& ~~~(g.comingLanes n)

/-- Writes an s register. One that a parked unit left pending counts as written for the handler code that writes it, as
the FE bits of a v register do (R370; DEDUCED for s registers, log entry 77). -/
def Group.sSet (g : Group) (n : Nat) (w : Word) : Group :=
  { g with s := g.s.set n w,
           freshS := if g.pendS.contains n then insertNat n g.freshS else g.freshS }

/-- Writes lanes of a v register. Handler code that writes a register of the parked unit fills the lanes
it writes (R370). -/
def Group.vSet (g : Group) (n : Nat) (m : Mask) (f : Nat → Word) : Group :=
  { g with v := putRow g.v n m f,
           fe := if g.pendV.contains n then modAt g.fe n (· ||| m) else g.fe }

/-- A 32-bit source operand of a lane (R64). -/
def Group.src (g : Group) (v : BitVec 6) (L : Nat) : Word :=
  if isS v then g.sGet (sNum v) else g.vGet v.toNat L

/-- Word `j` of a multi-register source operand of a lane (R41). -/
def Group.srcAt (g : Group) (v : BitVec 6) (j L : Nat) : Word :=
  if isS v then g.sGet (sNum v + j) else g.vGet (v.toNat + j) L

/-- A 64-bit source operand of a lane (R41). -/
def Group.src64 (g : Group) (v : BitVec 6) (L : Nat) : DWord := pairOf (g.srcAt v 0 L) (g.srcAt v 1 L)

/-- Writes a 32-bit result in lanes `m`, or once in an s register (R65). -/
def Group.dst (g : Group) (v : BitVec 6) (m : Mask) (f : Nat → Word) : Group :=
  if isS v then g.sSet (sNum v) (f 0) else g.vSet v.toNat m f

/-- Writes a 64-bit result (R41). -/
def Group.dst64 (g : Group) (v : BitVec 6) (m : Mask) (f : Nat → DWord) : Group :=
  if isS v then (g.sSet (sNum v) (lo32 (f 0))).sSet (sNum v + 1) (hi32 (f 0))
  else (g.vSet v.toNat m (fun L => lo32 (f L))).vSet (v.toNat + 1) m (fun L => hi32 (f L))

/-- TRAPINFO (R366). -/
def TrapInfo.word (t : TrapInfo) : Word :=
  wd (t.acc % 16 * 2 ^ 16 + t.opnd % 16 * 2 ^ 8 + t.detail % 256)

/-- The trace unit's record of an event of a group (R425, R426): `ev` is the event, `bit` its bit of EVT.
A buffer page without a translation stops the unit, which then counts what it would have written. -/
def State.trace (s : State) (r : SRef) (pc : Pc) (m : Mask) (ev bit : Nat) (detail : Word) : State :=
  match s.blocks[r.blk]?, s.group? r.gref with
  | some b, some g =>
    if g.ctx.trace == 0 then s
    else
      let (d, s) := (s.reachAll b.core.die g.ctx.trace 64).physRead g.ctx.trace 64
      let size := fieldN d 8 8
      let lost := fun (s : State) =>
        s.physWrite (g.ctx.trace + 24) (bytesOfNat 8 (fieldN d 24 8 + 1))
      let off := s.tracesOff.contains g.ctx.trace
      if !((fieldN d 33 1).testBit bit) || size < 32 then s
      else if off then lost s
      else if !((fieldN d 32 1).testBit 0) then s
      else
        let widx := fieldN d 16 8
        let va := fieldN d 0 8 + 32 * (widx % (size / 32))
        match s.translate b.core g.ctx.asid va .store true with
        | (.ok (pa, _), s) =>
          let s := (s.reachAll b.core.die pa 32).physWrite pa (bytesOfNat 8 s.wall.toNat ++ bytesOfNat 8 pc.toNat ++
            bytesOfNat 4 m.toNat ++ bytesOfNat 1 (b.core.die + 4 * b.core.cluster) ++
            bytesOfNat 1 b.core.core ++ bytesOfNat 1 g.slot ++ bytesOfNat 1 ev ++
            bytesOfNat 4 b.index ++ bytesOfNat 4 detail.toNat)
          s.physWrite (g.ctx.trace + 16) (bytesOfNat 8 (widx + 1))
        | (.error _, s) =>
          let s := (lost s).physWrite (g.ctx.trace + 32) [0]
          ({ s with tracesOff := insertNat g.ctx.trace s.tracesOff } : State).report (.traceStopped g.ctx.trace)
  | _, _ => s

/-- The halt record of the debug agent (R374), written at the mailbox as a release at system scope. DESIGN CHOICE (log
entry 91): a region's first halt has number 1, and the release writes back the block's dirty stash lines too, as a release
of a group of the block does (R208, R235). -/
def State.haltRecord (s : State) (r : SRef) (t : TrapInfo) (pc : Pc) (m : Mask) : State :=
  match s.blocks[r.blk]?, s.group? r.gref with
  | some b, some g =>
    let seq := (((s.region? b.rcb).map (·.haltSeq)).getD 0) + 1
    let s := s.modRegion b.rcb (fun q => { q with haltSeq := seq })
    let place := b.core.die + 4 * b.core.cluster + 2 ^ 8 * b.core.core + 2 ^ 16 * g.slot +
      2 ^ 20 * (b.index % 2 ^ 12)
    let s := ((s.releaseAt r.gref 5).2).reachAll b.core.die g.ctx.mailbox 32
    (s.sigOr (g.ctx.mailbox / 128) (s.die b.core.die).csig).physWrite g.ctx.mailbox
      (bytesOfNat 8 pc.toNat ++ bytesOfNat 4 m.toNat ++ bytesOfNat 4 place ++
       bytesOfNat 4 (t.cause + 256 * t.detail) ++ bytesOfNat 4 seq ++ bytesOfNat 8 0)
  | _, _ => s

/-- What outstanding loads and atomics still bring to s12 to s15 and to `FLAGS` arrives before a frame saves
them (R52, R55, R367, 1). -/
def Group.landSaved (g : Group) : Group :=
  { g with
    s := g.loads.foldl (fun q l => (l.s.filter (fun n => 12 ≤ n.1)).foldl (fun q n => q.set n.1 n.2) q) g.s,
    flags := g.loads.foldl (fun w l => w ||| l.flags) g.flags,
    loads := g.loads.map (fun l => { l with s := l.s.filter (fun n => n.1 < 12), flags := 0 }) }

/-- Enters a handler or the debug agent (R367, R374): the frame is saved, the trap registers set, and the
group becomes one split at the entry. DESIGN CHOICE (log entry 86): a trap of the agent's own code nests with
`HSTATE.DEBUG` 0, and the frame gives it back. -/
def Group.enter (g : Group) (sp : Nat) (t : TrapInfo) (pc : Pc) (mask : Mask) (va : BitVec 64)
    (pend : Option (Pc × Parked)) (entry htab hcount : Nat) (debug : Bool) : Group :=
  let g := g.landSaved
  let m := ((g.splits.getD sp none).map (fun (p : Split) => p.mask)).getD 0
  let last := ((g.splits.getD sp none).map (fun (p : Split) => p.lastIssue)).getD 0
  let fr : HFrame :=
    { splits := g.splits, sp := sp, pend := pend, s := g.s.drop 12, k6 := g.kGet 6, k7 := g.kGet 7,
      x6 := g.x.getD 6 .unbound, x7 := g.x.getD 7 .unbound, flags := g.flags, htab := g.ctx.htab,
      hcount := g.ctx.hcount, regs := g.trap, debug := g.debug }
  { g with
    splits := [some { pc := BitVec.ofNat 55 entry, mask := m, st := .ready, rlist := [], mstk := [],
                      replay := none, lastIssue := last }, none, none, none],
    x := (g.x.set 6 .unbound).set 7 .unbound, flags := 0, level := g.level + 1, debug := debug,
    frames := fr :: g.frames,
    freshS := g.freshS.filter (fun n => !(fr.owed.any (fun q => q.s.contains n))),
    trap := { cause := wd t.cause, pc := pcTo64 pc, mask := mask, va := va, info := t.word },
    ctx := { g.ctx with htab := htab, hcount := hcount } }

/-- The lowest valid entry of a split table. -/
def firstEntry (l : List (Option Split)) : Nat := (indicesWhere (fun (x : Option Split) => x.isSome) l).headD 0

/-- Restores the caller of a gate call from its frame (R382, R396): no result is copied here. A single step of the callee's
last unit halts in the caller (R377). -/
def Group.popGate (g : Group) : Group :=
  match g.gates with
  | [] => g
  | f :: fs =>
    { g with
      splits := f.splits, v := f.v, fe := f.fe, s := f.s, k := f.k, x := f.x, flags := f.flags,
      vb := f.vb, regcnt := f.regcnt, rgnpc := f.rgnpc, rgnOpen := f.rgnOpen, ctx := f.ctx,
      calleeScr := f.scr, calleeSize := f.scrSize, gates := fs, gatestat := f.gatestat,
      step := g.step.map (fun p => (firstEntry f.splits, p.2)),
      level := 0, debug := false, frames := [], freshS := [], loads := [], unacked := [] }

/-- The stashes of a callee end with its scratchpad: their dirty bytes are written back (R208, R382). -/
def State.endStashes (s : State) (r : GRef) (depth : Nat) : State :=
  match s.blocks[r.blk]? with
  | none => s
  | some b =>
    let mine := fun (t : Stash) => t.grp == r.grp && t.depth == depth && depth != 0
    (b.stashes.filter mine).foldl (fun s t => s.stashEnd r.blk t.id) s

/-- Whether every memory access and engine instruction of a callee has completed (R382, R396); load data under way is
discarded. -/
def State.calleeIdle (s : State) (r : GRef) (depth : Nat) : Bool :=
  (match s.group? r with | some g => g.unacked.isEmpty | none => true) &&
  !(s.engines.any (fun e => e.grp == r && e.depth == depth)) &&
  !(s.dies.any (fun d => d.cq.any (fun q => q.2.grp == r && q.2.depth == depth && q.2.read < q.2.len)))

/-- The end of an abort (R382, 2 to 4): the caller is restored, s15, s14 and GATESTAT say why. -/
def State.popAbort (s : State) (r : GRef) (cause : Nat) : State :=
  match s.group? r with
  | none => s
  | some g => (s.endStashes r g.gates.length).modGroup r (fun g =>
      let g := g.popGate
      { (g.sSet 15 (wd cGateAbort)).sSet 14 (wd cause) with
        gatestat := wd (cause * 256 + cGateAbort) })

/-- A callee that is aborted waits for its accesses and engine instructions (R382, 1): its handler frames go, and nothing
of it issues. -/
def Group.abortWait (g : Group) (cause : Nat) : Group :=
  let m := g.frames.foldl (fun m f => m ||| ({ g with splits := f.splits } : Group).live) g.live
  let last := g.valid.foldl (fun n x => max n x.2.lastIssue) 0
  { g with
    splits := [some { pc := 0, mask := m, st := .blocked (.abort cause) 0, rlist := [], mstk := [], replay := none,
                      lastIssue := last }, none, none, none],
    frames := [], freshS := [], level := 0, debug := false, loads := [] }

/-- Delivers a trap (R363, R367, R368, R371, R374). `pc` and `mask` are TRAPPC and TRAPMASK, `va` FAULTVA,
`pend` the unit the split parked at, `unit` the trapping unit, which its trace record names (R425, log entry 89). `n`
bounds the gate calls that the trap may end. -/
def State.deliver (s : State) (r : SRef) (t : TrapInfo) (pc : Pc) (mask : Mask) (va : BitVec 64)
    (pend : Option (Pc × Parked)) (unit : Pc) : Nat → State
  | 0 => s
  | n + 1 =>
    match s.group? r.gref with
    | none => s
    | some g =>
      let m := ((g.splits.getD r.sp none).map (fun (p : Split) => p.mask)).getD 0
      let s := (s.trace r unit m 3 2 (wd t.cause)).dropLatch r.gref
      if 2 ≤ g.level then s.killFor r.gref cHandlerNest
      else
        let dom := (s.domains.find? (fun d => d.1 == g.ctx.fdom)).map (·.2)
        let valid := match dom with | some d => d.valid | none => false
        let d : Domain := dom.getD { hentry := 0, dentry := 0, htab := 0, hcount := 0, valid := false }
        if valid && t.cause == cBreak && g.ctx.mailbox != 0 && d.dentry != 0 && g.level == 0 then
          (s.haltRecord r t pc m).modGroup r.gref (fun g =>
            g.enter r.sp t pc mask va pend d.dentry d.htab d.hcount true)
        else if valid && d.hentry != 0 then
          s.modGroup r.gref (fun g => g.enter r.sp t pc mask va pend d.hentry d.htab d.hcount false)
        else if g.level != 0 then s.killFor r.gref t.cause
        else match g.gates with
          | [] => s.killFor r.gref t.cause
          | f :: _ =>
            if !s.calleeIdle r.gref g.gates.length then s.modGroup r.gref (fun g => g.abortWait t.cause)
            else
              let s := s.popAbort r.gref t.cause
              if f.abort then s
              else match s.group? r.gref with
                | none => s
                | some g =>
                  let e := ((g.valid.head?).map (·.1)).getD 0
                  let (v, s) := s.freeN
                  s.deliver ⟨r.blk, r.grp, e⟩ { cause := cGateAbort, detail := t.cause } f.ret 0
                    (BitVec.ofNat 64 v) none f.ret n

/-- Takes a trap (R367); `unit` is the trapping unit where it is not at TRAPPC. -/
def State.takeTrap (s : State) (r : SRef) (t : TrapInfo) (pc : Pc) (mask : Mask) (va : BitVec 64)
    (pend : Option (Pc × Parked) := none) (unit : Option Pc := none) : State :=
  s.deliver r t pc mask va pend (unit.getD pc) 6

/-- Takes a trap that names no address, with TRAPMASK 0: FAULTVA is a free value (log entry 6). -/
def State.trapAt (s : State) (r : SRef) (t : TrapInfo) (pc : Pc) (unit : Option Pc := none) : State :=
  let (n, s) := s.freeN
  s.takeTrap r t pc 0 (BitVec.ofNat 64 n) none unit

/-- An abort whose callee is idle ends (R382): the caller goes on at the unit after its call, or takes `GATE_ABORT`
there, as the gate says. -/
def State.abortEnd (s : State) (r : GRef) (cause : Nat) : State :=
  match (s.group? r).bind (fun g => g.gates.head?) with
  | none => s.killFor r cause
  | some f =>
    let s := s.popAbort r cause
    if f.abort then s
    else match s.group? r with
      | none => s
      | some g => s.trapAt ⟨r.blk, r.grp, ((g.valid.head?).map (·.1)).getD 0⟩
          { cause := cGateAbort, detail := cause } f.ret

/-- The unrecoverable end of a trap whose handler issues `TRET.kill` (R371): at level 1 the trap arose at
level 0. -/
def State.unrecoverable (s : State) (r : SRef) (cause : Nat) : State :=
  match s.group? r.gref with
  | none => s
  | some g =>
    if 2 ≤ g.level || g.gates.isEmpty then s.killFor r.gref cause
    else if !s.calleeIdle r.gref g.gates.length then s.modGroup r.gref (fun g => g.abortWait cause)
    else s.abortEnd r.gref cause

/-- Ends the pending state of a parked unit that is not replayed (R370). -/
def Group.endPending (g : Group) (p : Parked) : Group :=
  { g with fe := (g.fe.zipIdx).map (fun x => if p.vregs.contains x.2 then x.1 ||| p.mask else x.1) }

/-- Restores the frame of the current level and resumes by R370 with a TRAPPC and a TRAPMASK. -/
def Group.resume (g : Group) (pc : DWord) (mask : Mask) : Group :=
  match g.frames with
  | [] => g
  | f :: fs =>
    let g := { g with
      splits := f.splits, s := g.s.take 12 ++ f.s, flags := f.flags, frames := fs,
      freshS := if fs.isEmpty then [] else g.freshS,
      x := (g.x.set 6 f.x6).set 7 f.x7, level := g.level - 1, debug := f.debug, trap := f.regs,
      ctx := { g.ctx with htab := f.htab, hcount := f.hcount } }
    let g := (g.kSet 6 feFull f.k6).kSet 7 feFull f.k7
    let replays := mask != 0
    let same := match f.pend with | some (u, _) => u == pcOf pc | none => false
    let g := match f.pend with
      | some (_, p) => if replays && same then g else g.endPending p
      | none => g
    g.modSplit f.sp (fun p => { p with
      pc := pcOf pc, st := .ready,
      replay := if replays then some {
          mask := mask &&& p.mask,
          vregs := if same then (f.pend.map (·.2.vregs)).getD [] else [],
          sregs := if same then (f.pend.map (·.2.sregs)).getD [] else [],
          fl := same && (f.pend.map (·.2.fl)).getD false,
          va := (f.pend.map (·.2.va)).getD 0 }
        else none })

/-- What the issue of a unit sees: its split, block, group, entry and unit. -/
structure Iss where
  r : SRef
  b : Block
  g : Group
  p : Split
  cur : Cur

/-- The issuing split, where `cur` names one of a resident block. -/
def State.iss? (s : State) : Option Iss :=
  match s.cur with
  | none => none
  | some c => match s.blocks[c.ref.blk]?, s.group? c.ref.gref, s.split? c.ref with
    | some b, some g, some p =>
      if b.st == .resident then some { r := c.ref, b := b, g := g, p := p, cur := c } else none
    | _, _, _ => none

/-- `Guard(L)` for a guard field (R67). -/
def Iss.guard (i : Iss) (gf : BitVec 3) : Mask := i.g.kGet gf.toNat

/-- `Part`: the lanes of `Active` whose guard holds (R127, R180). -/
def Iss.part (i : Iss) (gf : BitVec 3) : Mask := i.cur.active &&& i.guard gf

/-- What the body of a unit answers. -/
inductive Res where
  /-- the unit is complete; the split goes to Next -/
  | done (s : State)
  /-- the unit is complete and has set the split itself, or a trap of it has been delivered -/
  | moved (s : State)
  /-- a trap of class I: the unit has no effect -/
  | trap (t : TrapInfo)
  /-- the split parks on a memory fault with unfinished lanes and pending registers; `fl` says that the unfinished lanes
  may still raise exceptions (R55) -/
  | park (f : MFault) (mask : Mask) (vregs sregs : List Nat) (s : State) (fl : Bool := false)
  /-- the split stands at a blocking point -/
  | block (w : Wake) (s : State)
  /-- the unit cannot issue yet -/
  | wait
  /-- the unit waits for these lanes of v registers and these s registers (R51, R52) -/
  | waitOn (v : List (Nat × Mask)) (s : List Nat)
  /-- its load or atomic waits for a home in reset (R289) -/
  | waitHome
  /-- its release at a scope waits for what precedes it (R235, R288) -/
  | waitRel (scope : Nat)

/-- A trap that rests on what was read in a state: it waits where the read did not reach its home (log entry 64). -/
def Res.readIn (res : Res) (t : State) : Res := if t.away.isSome then .moved t else res

/-- The address of a split's next unit: a yield, and an `MWAIT` that delivers, stand before the unit after them
(R190, R365). -/
def Split.nextPc (p : Split) : Pc :=
  match p.st with
  | .blocked .yielded n => n
  | .blocked (.mwait _) n => n
  | _ => p.pc

/-- The single step of a resumed split (R377): once the unit that it issued next has ended, it halts at its next
unit, at level 0 (R376); a handler that runs meanwhile leaves it pending. -/
def State.stepEnd (s : State) (r : GRef) : State :=
  match s.group? r with
  | none => s
  | some g => if g.level != 0 then s else match g.step with
    | some (sp, true) => match g.splits.getD sp none with
      | none => s.modGroup r (fun g => { g with step := none })
      | some p =>
        let ended : Bool := match p.st with
          | .blocked w _ => w == .yielded
          | .parkedFault _ => false
          | _ => true
        if ended then
          (s.modGroup r (fun g => { g with step := none })).trapAt ⟨r.blk, r.grp, sp⟩
            { cause := cBreak, detail := 128 } p.nextPc
        else s
    | _ => s

/-- The entries of `g` that have become one in `h`: those that left the table with lanes, and those that took
lanes over (R36, R38). -/
def Group.fusedIn (g h : Group) : List Nat :=
  (g.valid.filter (fun (x : Nat × Split) => x.2.mask != 0 && x.2.mstk.isEmpty && (match h.splits.getD x.1 none with
    | none => true
    | some q => (q.mask &&& ~~~x.2.mask) != 0))).map (·.1)

/-- A stepped split that has fused in a change of its group's table is followed to its new entry (R377). -/
def Group.follow (g h : Group) : Group :=
  { h with step := match g.step with
      | none => none
      | some (sp, done) => if g.level != 0 then some (sp, done) else
        let m := ((g.splits.getD sp none).map (fun (p : Split) => p.mask)).getD 0
        some ((if (h.splits.getD sp none).isSome then sp
          else ((h.valid.find? (fun x => x.2.mask &&& m != 0)).map (·.1)).getD sp), done) }

/-- A group after its splits have settled. -/
def Group.settled (g : Group) : Group := g.follow (g.settle 40)

/-- The splits that fuse with the issuing one do so (R38, R48): the state, and the entry that issues. -/
def State.fuseIssue (s : State) (r : SRef) : SRef × State :=
  match s.group? r.gref with
  | none => (r, s)
  | some g =>
    let h := g.follow (g.fuseEqual r.sp)
    if h.valid.length == g.valid.length then (r, s)
    else
      let low := ((h.valid.find? (fun x =>
        x.2.mask &&& ((g.splits.getD r.sp none).map (fun (p : Split) => p.mask)).getD 0 != 0)).map (·.1)).getD r.sp
      ({ r with sp := low }, (s.putGroup r.gref h).dropHeld r.gref (g.fusedIn h))

/-- After a unit: stacks, parking and fusion, the ends of the group and its block, and a single step
(R33, R36 to R38, R48, R377). -/
def State.after (s : State) (r : SRef) : State :=
  let gone := ((s.group? r.gref).map (fun g => g.fusedIn g.settled)).getD []
  let s := (s.modGroup r.gref Group.settled).dropHeld r.gref gone
  ((s.groupEnd r.gref).blockEnd r.blk).stepEnd r.gref

/-- The lowest of the causes that wait for a group (R365): asynchronous ones at level 0 (R369), `ENGINE_RESET`, of
class E, at any. -/
def Group.nextAsync (g : Group) : Option (Nat × Nat) :=
  minBy (fun c => c.1) (if g.level == 0 then g.async else g.async.filter (fun c => c.1 == cEngineReset))

/-- A split takes the cause that waits for its group, at its next unit (R365). -/
def State.takeAsync (s : State) (r : SRef) : State :=
  match (s.group? r.gref).bind Group.nextAsync with
  | none => s
  | some c =>
    let pc := ((s.split? r).map Split.nextPc).getD 0
    let s := s.modGroup r.gref (fun g => { g with async := dropFirst (· == c) g.async })
    let s := s.modSplit r (fun p => { p with pc := pc, st := .ready })
    (s.trapAt r { cause := c.1, detail := c.2 } pc).after r

/-- The unit of `i` has issued: the group's `YIELD` is over, or is this one, and a single step has its unit (R190,
R377). DESIGN CHOICE (log entry 86): a stepped `BRK` that enters the agent is the halt of its step. -/
def State.issued (s : State) (i : Iss) (yield : Bool) : State :=
  let stepped := i.g.step == some (i.r.sp, false) && i.g.level == 0
  s.modGroup i.r.gref (fun g => { g.modSplit i.r.sp (fun p => { p with pendSince := none, relNext := none }) with
    yielded := yield,
    step := if !stepped then g.step else if g.level != 0 && g.debug then none else g.step.map (fun p => (p.1, true)) })

/-- Sends a parked fault's record to the die's fault queue (R372). -/
def State.sendFault (s : State) (r : SRef) (t : TrapInfo) (va : BitVec 64) (mask : Mask) : Nat × State :=
  let (n, s) := s.fresh
  match s.group? r.gref with
  | none => (n, s)
  | some g =>
    let c := s.coreOf r.blk
    (n, s.modDie c.die (fun d => { d with faultq := d.faultq ++
      [{ token := n, va := va, asid := g.ctx.asid, fdom := g.ctx.fdom, info := t, core := c,
         slot := g.slot, mask := mask }] }))

/-- A split parks at a unit on a memory fault (R231): a fault record, or the domain's handler (R372). -/
def State.parkAt (s : State) (r : SRef) (unit : Pc) (f : MFault) (mask : Mask) (vregs sregs : List Nat)
    (fl : Bool := false) : State :=
  let (n, s) := s.freeN
  let va : BitVec 64 := match f.2 with | some a => BitVec.ofInt 64 a | none => BitVec.ofNat 64 n
  let pk : Parked := { info := f.1, va := va, mask := mask, token := none, vregs := vregs, sregs := sregs,
                       fl := fl }
  let s := s.modSplit r (fun p => { p with pc := unit, st := .parkedFault pk, replay := none })
  if f.1.offered then
    let (t, s) := s.sendFault r f.1 va mask
    let all := ((s.split? r).map (fun (p : Split) => p.mask)).getD 0
    (s.trace r unit all 3 2 (wd f.1.cause)).modSplit r (fun p =>
      { p with st := .parkedFault { pk with token := some t } })
  else s.takeTrap r f.1 unit mask va (some (unit, pk))

/-- What a unit answers that met something it could not reach: it waits, as a load or atomic for a home in reset does
(R289), or takes `DIE_LOST` from a lost home (R288; log entry 64). -/
def State.awayRes (s : State) (i : Iss) (ld : Bool) : Away → Res
  | .home d =>
    if (s.die d).st == .lost then
      .park ({ cause := cDieLost, detail := d }, none) i.cur.active ((i.cur.replay.map (·.vregs)).getD [])
        ((i.cur.replay.map (·.sregs)).getD []) s ((i.cur.replay.map (·.fl)).getD false)
    else if ld then .waitHome else .wait
  | .link _ => .wait
  | .ecc _ => .wait
  | .turn _ => .wait

/-- A message that waits wakes its link (R287). -/
def State.rouse (s : State) : Away → State
  | .link l => s.modLink l (fun k => { k with waking := some (k.waking.getD s.wall.toNat) })
  | _ => s

/-- The state after what a unit's body answered (R73, R83, R231). A `wait` leaves everything as it stood but the
split's STATE. -/
def State.settleRes (s : State) (i : Iss) (res : Res) : Host.Outcome State Fault Refusal :=
  let clear := fun (s : State) => { s with cur := none }
  let out := fun (s : State) => match s.badPa with
    | some pa => (.fault (.unpopulated pa) : Host.Outcome State Fault Refusal)
    | none => .next s
  match res with
  | .done t => out ((clear ((t.issued i false).modSplit i.r (fun p =>
      { p with pc := i.cur.next, st := .ready, replay := none, lastIssue := s.cyclesOf i.b.core }))).after i.r)
  | .moved t => out ((clear (t.issued i false)).after i.r)
  | .block w t => out ((clear ((t.issued i (w == .yielded)).modSplit i.r (fun p =>
      { p with st := .blocked w i.cur.next, lastIssue := s.cyclesOf i.b.core }))).after i.r)
  | .trap t => out (((clear s).trapAt i.r t i.cur.unit).after i.r)
  | .park f m vr sr t fl => out (((clear t).parkAt i.r i.cur.unit f m vr sr fl).after i.r)
  | .wait => out (clear (s.modSplit i.r (fun p => { p with st := .operand [] [] })))
  | .waitHome => out (clear (s.modSplit i.r (fun p => { p with
      st := .operand [] [], pendSince := some (p.pendSince.getD (s.cyclesOf i.b.core)) })))
  | .waitOn v w => out (clear (s.modSplit i.r (fun p => { p with st := .operand v w })))
  | .waitRel sc => out (clear (s.modSplit i.r (fun p => { p with
      st := .operand [] [], relNext := some (i.cur.next, sc) })))

/-- The end of the issue of a unit: what its body answered, where the unit reached everything that it needed (log entry
64). `ld` marks loads and atomics. -/
def State.finish (s : State) (i : Iss) (res : Res) (ld : Bool := false) : Host.Outcome State Fault Refusal :=
  match s.settleRes i res with
  | .next t => match t.away with
    | none => .next t
    | some a => (s.rouse a).settleRes i ((s.rouse a).awayRes i ld a)
  | o => o

/-- Which hint words an instruction accepts (R75 to R79). -/
structure HAcc where
  ximm : Bool := false
  /-- the format takes its policy from XSRC FT -/
  ft : Bool := false
  /-- a third source through XSRC SV -/
  sv : Bool := false
  /-- an operand-class override through XSRC CV -/
  cv : Bool := false
  /-- XSRC stands before the instruction at all -/
  xsrc : Bool := true
  xrnd : BitVec 24 → Bool := fun _ => false
  xsch : Bool := true
  /-- XSCH Y = 1 -/
  y : Bool := false
  xrcv : Bool := false

/-- Whether every hint word of a unit is accepted (R83, check 4). An `XSRC` word that asks for nothing, SV, CV and FT being
0, is accepted, and SRC and CLS are not looked at where SV and CV are 0: DEDUCED for R155's "any other use" (log entry
78). -/
def HAcc.ok (a : HAcc) (h : Hints) : Bool :=
  (match h.ximm with | some _ => a.ximm | none => true) &&
  (match h.xsrc with
   | some p => a.xsrc && p.toNat / 2 ^ 13 == 0 && (a.cv || !p.getLsbD 12) && (a.ft || !p.getLsbD 7) &&
       (a.sv || !p.getLsbD 6)
   | none => true) &&
  (match h.xrnd with | some p => a.xrnd p | none => true) &&
  (match h.xsch with
   | some p => a.xsch && p.toNat / 2 ^ 11 == 0 && bitsN p.toNat 10 9 != 3 && (a.y || !p.getLsbD 8) &&
       bitsN p.toNat 7 5 == 0
   | none => true) &&
  (match h.xrcv with | some p => a.xrcv && p.toNat / 2 ^ 20 == 0 | none => true)

/-- FT of the unit's XSRC word (R76). -/
def hintFt (h : Hints) : Bool := match h.xsrc with | some p => p.getLsbD 7 | none => false
/-- The third source of the unit's XSRC word (R76). -/
def hintSrc3 (h : Hints) : Option (BitVec 6) :=
  match h.xsrc with
  | some p => if p.getLsbD 6 then some (p.setWidth 6) else none
  | none => none

/-- The registers of a role from a field value, by number: v registers, then s registers. -/
def Role.width : Role → Nat
  | .reg w | .vreg w | .sreg w => w
  | .spack n | .vrun n => n
  | _ => 0

def Role.vRegs (r : Role) (v : BitVec 6) : List Nat := if isS v then [] else range' v.toNat r.width
def Role.sRegs (r : Role) (v : BitVec 6) : List Nat := if isS v then range' (sNum v) r.width else []

/-- How an instruction issues: its fields, hints, policy and what it reads beside its fields. -/
structure Issue where
  sig : OpSig
  acc : HAcc
  /-- f of a format-R word; none where XSRC FT rules (R63) -/
  f : Option Bool := none
  /-- the operand that d is as a source: the third source of format R, the data of a store -/
  dOp : Opnd := .third
  /-- the privilege rule of R82 holds -/
  priv : Bool := true
  /-- a further field check of the description, for check 5 -/
  field : Option Opnd := none
  /-- a memory or engine instruction, which waits for an acquire (R235) -/
  mem : Bool := false
  /-- s registers read beside the fields, or read and written -/
  sx : List Nat := []
  /-- s registers written beside the fields -/
  sd : List Nat := []
  /-- v registers read beside the fields -/
  vx : List Nat := []
  /-- v registers written beside the fields -/
  vd : List Nat := []
  /-- the lanes from which source a is read, where these are not `Active` -/
  aMask : Option Mask := none
  /-- the lanes from which source b is read, where these are not `Active` -/
  bMask : Option Mask := none
  /-- no wait and no trap on an empty source (R252) -/
  free : Bool := false
  /-- registers of the third source of XSRC: a pair for a 64-bit operand (R41, R76) -/
  w3 : Nat := 1
  /-- the registers that h copies into the operand latch as one value (R47) -/
  hold : Option (List Nat) := none

/-- Whether a v register is empty in lanes `m`. -/
def Group.emptyIn (g : Group) (n : Nat) (m : Mask) : Bool := (g.fe.getD n 0) &&& m != m

/-- The s registers that a parked unit, or one that waits, of a split has still to write. -/
def Split.busyS (p : Split) : List Nat :=
  (match p.st with
    | .parkedFault k => k.sregs
    | .blocked (.dyield _ _ _ sd _ _) _ => [sd]
    | _ => []) ++
  (match p.replay with | some q => q.sregs | none => [])

/-- The s registers that a load, an atomic or a parked unit of the group has still to write, those of the splits
that stand in a handler frame among them (R52, R370); s12 to s15 of a handler are its own (R367). -/
def Group.busyS (g : Group) : List Nat :=
  g.loads.flatMap (fun l => l.s.map (·.1)) ++ g.valid.flatMap (fun x => x.2.busyS) ++
  (g.frames.flatMap (fun f => f.splits.flatMap (fun o => (o.map Split.busyS).getD []))).filter (fun n =>
    n < 12 && !(g.freshS.contains n))

/-- The first empty source of a unit, and the lanes of the v registers that it is read from (R51). An implicit v47
is no field: OPND is 4 for it (log entry 25). -/
def Issue.emptySrc (u : Issue) (i : Iss) : Option (Opnd × List (Nat × Mask)) :=
  let act := i.cur.active
  let own := (i.cur.replay.map (·.vregs)).getD []
  let empty := fun (ns : List Nat) (m : Mask) =>
    ns.any (fun n => i.g.emptyIn n m && !own.contains n)
  let isSrc := fun (r : Role) => match r with
    | .reg _ | .vreg _ | .vrun _ => true
    | _ => false
  let third := match hintSrc3 i.cur.hints with
    | some v => if isS v then [] else range' v.toNat u.w3
    | none => []
  let src := fun (o : Opnd) (ns : List Nat) (m : Mask) => if empty ns m then some (o, ns.map (fun n => (n, m))) else none
  ([if isSrc u.sig.aR then src .a (u.sig.aR.vRegs u.sig.a) (u.aMask.getD act) else none,
    if isSrc u.sig.bR then src .b (u.sig.bR.vRegs u.sig.b) (u.bMask.getD act) else none,
    if u.sig.dSrc then src u.dOp (u.sig.dR.vRegs u.sig.d) act else none,
    src .third third act, src .other u.vx act]).findSome? id

/-- The v registers that the unit writes and waits on: all but its own replay's, and, for handler code, but the lanes that
parked units left clear (R51, R370). -/
def Issue.busyV (u : Issue) (i : Iss) : List Nat :=
  let own := (i.cur.replay.map (·.vregs)).getD []
  ((if u.sig.dst then u.sig.dR.vRegs u.sig.d else []) ++ u.vd).filter (fun n =>
    i.g.emptyIn n (i.cur.active &&& ~~~(i.g.pendLanes n)) && !own.contains n)

/-- The s registers that the unit reads. -/
def Issue.readsS (u : Issue) (h : Hints) : List Nat :=
  (if u.sig.dst && !u.sig.dSrc then [] else u.sig.dR.sRegs u.sig.d) ++
  u.sig.aR.sRegs u.sig.a ++ u.sig.bR.sRegs u.sig.b ++ u.sx ++
  (match hintSrc3 h with | some v => if isS v then range' (sNum v) u.w3 else [] | none => [])

/-- The s registers that the unit reads or writes and waits on; handler code may write, and not read, those that
the parked unit left pending (R52, R370). -/
def Issue.busyS (u : Issue) (i : Iss) : List Nat :=
  let own := (i.cur.replay.map (·.sregs)).getD []
  let pend := i.g.busyS.filter (fun n => !own.contains n)
  (u.readsS i.cur.hints).filter (fun n => pend.contains n) ++
  ((if u.sig.dst then u.sig.dR.sRegs u.sig.d else []) ++ u.sd).filter (fun n =>
    pend.contains n && !i.g.pendS.contains n)

/-- The limits of the issuing group (R42, R313). -/
def Iss.limits (i : Iss) : Limits := { regcnt := i.g.regcnt, tiles := i.b.tiles.length }

/-- A trap of class I that names an operand (R366). -/
def trapOp (cause : Nat) (o : Opnd) : Res := .trap { cause := cause, opnd := o.code }

/-- The decode checks of a unit (R83, checks 3 to 5). -/
def Issue.refuse (u : Issue) (i : Iss) : Option Res :=
  if !u.priv then some (.trap { cause := cIllegalOp })
  else if !u.acc.ok i.cur.hints then some (.trap { cause := cIllegalHint })
  else match u.sig.bad i.limits with
    | some o => some (trapOp cIllegalOperand o)
    | none =>
      if (match (hintSrc3 i.cur.hints) with
        | some v => !(Role.reg u.w3).ok i.limits v | none => false) then
        some (trapOp cIllegalOperand .third)
      else u.field.map (trapOp cIllegalOperand)

/-- The wait, or the trap, of a unit on an empty source (R51). -/
def Issue.empties (u : Issue) (i : Iss) : Option Res :=
  match u.emptySrc i with
  | some (o, vs) => if u.f.getD (hintFt i.cur.hints) then some (trapOp cEmptyReg o) else some (.waitOn vs [])
  | none => none

/-- The waits of a unit, and the trap on an empty source (R51, R52, R235). A b that says which lanes of a are read
is waited for first. An empty source comes before the traps of the description (check 6 of R83: DEDUCED, log entry
25), but where a description orders it itself (`free`). -/
def Issue.stall (u : Issue) (i : Iss) : Option Res :=
  let first := if u.aMask.isSome then
    (u.sig.bR.sRegs u.sig.b).filter (fun n => (u.busyS i).contains n) else []
  if !first.isEmpty then some (.waitOn [] first)
  else match (if u.free then none else u.empties i) with
  | some r => some r
  | none =>
    if !((u.busyV i).isEmpty && (u.busyS i).isEmpty) then
      some (.waitOn ((u.busyV i).map (fun n => (n, i.cur.active))) (u.busyS i))
    else if u.mem && i.g.acquirePending i.r.sp then some .wait
    else none

/-- The operand latch after a unit that issued (R47, R48): entries age with the units of their split,
written registers leave, and a held value enters. -/
def State.latchStep (s : State) (i : Iss) (writes : List Nat) (hold : Option (List Nat)) : State :=
  let g := i.r.gref
  if hold.isNone && (s.core i.b.core).latch.isEmpty then s
  else s.modCore i.b.core (fun c =>
    let l := c.latch.filterMap (fun (e : LatchEnt) =>
      if e.grp == g && e.regs.any (fun n => writes.contains n) then none
      else if e.grp == g && e.sp == i.r.sp then
        (if e.left ≤ 1 then none else some { e with left := e.left - 1 })
      else some e)
    let l := match hold with
      | some n => l ++ [{ grp := g, sp := i.r.sp, regs := n, left := 2 }]
      | none => l
    { c with latch := if 3 < l.length then l.drop 1 else l })

/-- Issues the unit in `cur` (R83): its checks, its waits, then its body. -/
def State.issue (s : State) (u : Iss → Issue) (body : Iss → Res) : Host.Outcome State Fault Refusal :=
  match s.iss? with
  | none => .fault .noIssuingSplit
  | some i =>
    match (u i).refuse i with
    | some r => s.finish i r
    | none => match (u i).stall i with
      | some r => s.finish i r
      | none => s.finish i (match body i with
        | .done t => .done (t.latchStep i
            ((if (u i).sig.dst then (u i).sig.dR.vRegs (u i).sig.d else []) ++ (u i).vd) (u i).hold)
        | .moved t => .moved (t.latchStep i (u i).vd none)
        | .block w t => .block w (t.latchStep i [] none)
        | r => r) ((u i).mem && (u i).sig.dst)

/-- The registers of the value that h names (R47): none for an s register, an unread slot, no hold, or a source that the
unit itself writes, whose entry is dropped at once (R48). -/
def OpSig.hold (s : OpSig) (h : BitVec 2) : Option (List Nat) :=
  let w := if s.dst then s.dR.vRegs s.d else []
  let src := fun (ns : List Nat) => if ns.any w.contains then none else some ns
  match h.toNat with
  | 1 => if s.aR.isReg && !isS s.a then src (s.aR.vRegs s.a) else none
  | 2 => if s.bR.isReg && !isS s.b then src (s.bR.vRegs s.b) else none
  | 3 => if s.dst && !isS s.d then some (s.dR.vRegs s.d) else none
  | _ => none

/-- A unit whose only effect is on the registers of its group. -/
def State.regs (s : State) (u : Iss → Issue) (body : Iss → Group) : Host.Outcome State Fault Refusal :=
  s.issue u (fun i => .done (s.putGroup i.r.gref (body i)))

/-- A step of the device that is enabled or not; one that met something it could not reach is not taken (log entry
64), and one that a die link holds says which, so that the link wakes (R287). -/
@[inline] def stepIf (name : String) (ok : Bool) (t : State) : Host.Outcome State Fault Refusal :=
  if ok then
    match t.away with
    | none => match t.badPa with
      | some pa => .fault (.unpopulated pa)
      | none => .next t
    | some (.link l) => .fault (.asleep l)
    | some _ => .fault (.notEnabled name)
  else .fault (.notEnabled name)

end Sys2Proof.Machine
end

