-- ==== Sys2Proof/Machine/Operands.lean ====
section
/-! DEFINITION. Operand forms: how the instructions of each format issue, and the lane-by-lane forms they
share (07 R127 to R130, R143). -/

namespace Sys2Proof.Machine

open Sys2Proof

/-- A format-R instruction that accepts no hint but `XSCH` (R128). -/
def issueR (sig : OpSig) (x : RF) : Issue :=
  { sig := sig, acc := {}, f := some (x.f == 1), hold := sig.hold x.h }

/-- A format-I instruction: `XIMM` and FT (R128). -/
def issueI (sig : OpSig) : Issue := { sig := sig, acc := { ximm := true, ft := true }, dOp := .d }

/-- A format-E instruction: FT alone (R246, R330, R390, R400). -/
def issueE (sig : OpSig) (mem : Bool) : Issue :=
  { sig := sig, acc := { ft := true }, mem := mem, dOp := .d }

/-- `d := op a` in the lanes of `Part`. -/
def Iss.map1 (i : Iss) (x : RF) (op : Word → Word) : Group :=
  i.g.dst x.d (i.part x.g) (fun L => op (i.g.src x.a L))

/-- `d := op a b` in the lanes of `Part` (R131, R133). -/
def Iss.map2 (i : Iss) (x : RF) (op : Word → Word → Word) : Group :=
  i.g.dst x.d (i.part x.g) (fun L => op (i.g.src x.a L) (i.g.src x.b L))

/-- `d := op a b d` in the lanes of `Part`. -/
def Iss.map3 (i : Iss) (x : RF) (op : Word → Word → Word → Word) : Group :=
  i.g.dst x.d (i.part x.g) (fun L => op (i.g.src x.a L) (i.g.src x.b L) (i.g.src x.d L))

/-- The 64-bit forms (R41, R131). -/
def Iss.map2w (i : Iss) (x : RF) (op : DWord → DWord → DWord) : Group :=
  i.g.dst64 x.d (i.part x.g) (fun L => op (i.g.src64 x.a L) (i.g.src64 x.b L))

def Iss.map3w (i : Iss) (x : RF) (op : DWord → DWord → DWord → DWord) : Group :=
  i.g.dst64 x.d (i.part x.g)
    (fun L => op (i.g.src64 x.a L) (i.g.src64 x.b L) (i.g.src64 x.d L))

/-- A 64-bit value and a 32-bit amount (R133). -/
def Iss.map2s (i : Iss) (x : RF) (op : DWord → Word → DWord) : Group :=
  i.g.dst64 x.d (i.part x.g) (fun L => op (i.g.src64 x.a L) (i.g.src x.b L))

/-- The 64-bit immediate of a format-I instruction (R75, R143): imm12, or P:imm12, sign-extended. -/
def immS (h : Hints) (x : IF) : DWord :=
  match h.ximm with
  | some p => ((p ++ x.imm : BitVec 36)).signExtend 64
  | none => x.imm.signExtend 64

/-- The same zero-extended, for `ANDI`, `ORI` and `XORI` (R75, R143). -/
def immZ (h : Hints) (x : IF) : DWord :=
  match h.ximm with
  | some p => ((p ++ x.imm : BitVec 36)).setWidth 64
  | none => x.imm.setWidth 64

/-- `d := op a I`, every lane of `Active` (R63, R143). -/
def Iss.mapI (i : Iss) (x : IF) (imm : DWord) (op : Word → Word → Word) : Group :=
  i.g.dst x.d i.cur.active (fun L => op (i.g.src x.a L) (lo32 imm))

/-- A predicate written in the lanes of `m` by a test of each lane. -/
def Group.setPred (g : Group) (n : Nat) (m : Mask) (f : Nat → Bool) : Group := g.kSet n m (maskOf f)

/-- The conditions of integer compares (R70). -/
def condI {w : Nat} (c : Nat) (a b : BitVec w) : Bool :=
  match c with
  | 0 => a == b
  | 1 => a != b
  | 2 => a.slt b
  | 3 => a.sle b
  | 4 => b.slt a
  | 5 => b.sle a
  | 6 => a.ult b
  | _ => b.ule a

end Sys2Proof.Machine
end

