-- ==== Sys2Proof/Machine/Int.lean ====
section
/-! DEFINITION. Integer, logic, predicate and move instructions, 0x00 to 0x3F (07 R131 to R145). -/

namespace Sys2Proof.Machine

open Sys2Proof

/-- An outcome of one unit. -/
abbrev Out := Host.Outcome State Fault Refusal

def aluR (sig : OpSig) (x : RF) (s : State) (f : Iss → Group) : Out := s.regs (fun _ => issueR sig x) f
def aluI (sig : OpSig) (s : State) (f : Iss → Group) : Out := s.regs (fun _ => issueI sig) f

/-- IADD.32 (R131). -/
def execIadd32 (x : RF) (s : State) : Out := aluR (sgAlu3 1 x) x s (fun i => i.map2 x (· + ·))
/-- IADD.64 (R131). -/
def execIadd64 (x : RF) (s : State) : Out := aluR (sgAlu3 2 x) x s (fun i => i.map2w x (· + ·))
/-- ISUB.32 (R131). -/
def execIsub32 (x : RF) (s : State) : Out := aluR (sgAlu3 1 x) x s (fun i => i.map2 x (· - ·))
/-- ISUB.64 (R131). -/
def execIsub64 (x : RF) (s : State) : Out := aluR (sgAlu3 2 x) x s (fun i => i.map2w x (· - ·))

/-- The carry into lane L: k7 of the lane, or of the lowest active lane on the scalar pipe (R130, R132). -/
def Iss.carry (i : Iss) (x : RF) (L : Nat) : Bool :=
  (i.g.kGet 7).getLsbD (if isS x.d then lowLane i.cur.active else L)

/-- An add or subtract through k7 (R130, R132): `f` gives the result and the carry out. -/
def Iss.chain (i : Iss) (x : RF) (f : Word → Word → Bool → Word × Bool) : Group :=
  let r := fun L => f (i.g.src x.a L) (i.g.src x.b L) (i.carry x L)
  let m := if isS x.d then i.cur.active else i.part x.g
  (i.g.dst x.d (i.part x.g) (fun L => (r L).1)).setPred 7 m (fun L => (r L).2)

/-- A + B + c and its carry (R132). -/
def addc (a b : Word) (c : Bool) : Word × Bool :=
  let t := a.toNat + b.toNat + c.toNat
  (wd t, decide (2 ^ 32 ≤ t))
/-- A - B - c and its borrow (R132). -/
def subb (a b : Word) (c : Bool) : Word × Bool :=
  (a - b - (if c then 1 else 0), decide (a.toNat < b.toNat + c.toNat))

/-- IADDC.32 (R132). -/
def execIaddc32 (x : RF) (s : State) : Out := aluR (sgAlu3 1 x) x s (fun i => i.chain x addc)
/-- ISUBB.32 (R132). -/
def execIsubb32 (x : RF) (s : State) : Out := aluR (sgAlu3 1 x) x s (fun i => i.chain x subb)

/-- IMUL.32 (R131). -/
def execImul32 (x : RF) (s : State) : Out := aluR (sgAlu3 1 x) x s (fun i => i.map2 x (· * ·))
/-- IMUL.64 (R131). -/
def execImul64 (x : RF) (s : State) : Out := aluR (sgAlu3 2 x) x s (fun i => i.map2w x (· * ·))

/-- The high half of the signed product (R131). -/
def mulhS (a b : Word) : Word := hi32 (a.signExtend 64 * b.signExtend 64)
/-- The high half of the unsigned product (R131). -/
def mulhN (a b : Word) : Word := hi32 (a.setWidth 64 * b.setWidth 64)

/-- IMULH.s32 (R131). -/
def execImulhS32 (x : RF) (s : State) : Out := aluR (sgAlu3 1 x) x s (fun i => i.map2 x mulhS)
/-- IMULH.n32 (R131). -/
def execImulhN32 (x : RF) (s : State) : Out := aluR (sgAlu3 1 x) x s (fun i => i.map2 x mulhN)
/-- IMAD.32 (R131). -/
def execImad32 (x : RF) (s : State) : Out :=
  aluR (sgAluD 1 x) x s (fun i => i.map3 x (fun a b d => a * b + d))
/-- IMAD.64 (R131). -/
def execImad64 (x : RF) (s : State) : Out :=
  aluR (sgAluD 2 x) x s (fun i => i.map3w x (fun a b d => a * b + d))

def minS (a b : Word) : Word := if a.slt b then a else b
def minN (a b : Word) : Word := if a.ult b then a else b
def maxS (a b : Word) : Word := if a.slt b then b else a
def maxN (a b : Word) : Word := if a.ult b then b else a

/-- IMIN.s32 (R131). -/
def execIminS32 (x : RF) (s : State) : Out := aluR (sgAlu3 1 x) x s (fun i => i.map2 x minS)
/-- IMIN.n32 (R131). -/
def execIminN32 (x : RF) (s : State) : Out := aluR (sgAlu3 1 x) x s (fun i => i.map2 x minN)
/-- IMAX.s32 (R131). -/
def execImaxS32 (x : RF) (s : State) : Out := aluR (sgAlu3 1 x) x s (fun i => i.map2 x maxS)
/-- IMAX.n32 (R131). -/
def execImaxN32 (x : RF) (s : State) : Out := aluR (sgAlu3 1 x) x s (fun i => i.map2 x maxN)
/-- IABS (R131): of 0x8000_0000 it is itself. -/
def execIabs (x : RF) (s : State) : Out :=
  aluR (sgAlu2 1 x) x s (fun i => i.map1 x (fun a => if a.msb then 0 - a else a))
/-- INEG (R131). -/
def execIneg (x : RF) (s : State) : Out := aluR (sgAlu2 1 x) x s (fun i => i.map1 x (fun a => 0 - a))

/-- AND (R133). -/
def execAnd (x : RF) (s : State) : Out := aluR (sgAlu3 1 x) x s (fun i => i.map2 x (· &&& ·))
/-- OR (R133). -/
def execOr (x : RF) (s : State) : Out := aluR (sgAlu3 1 x) x s (fun i => i.map2 x (· ||| ·))
/-- XOR (R133). -/
def execXor (x : RF) (s : State) : Out := aluR (sgAlu3 1 x) x s (fun i => i.map2 x (· ^^^ ·))
/-- ANDN (R133). -/
def execAndn (x : RF) (s : State) : Out :=
  aluR (sgAlu3 1 x) x s (fun i => i.map2 x (fun a b => a &&& ~~~b))
/-- ORN (R133). -/
def execOrn (x : RF) (s : State) : Out :=
  aluR (sgAlu3 1 x) x s (fun i => i.map2 x (fun a b => a ||| ~~~b))
/-- NOT (R133). -/
def execNot (x : RF) (s : State) : Out := aluR (sgAlu2 1 x) x s (fun i => i.map1 x (fun a => ~~~a))

/-- The amount of a 32-bit shift (R133). -/
def amt5 (b : Word) : Nat := b.toNat % 32
/-- The amount of a 64-bit shift (R133). -/
def amt6 (b : Word) : Nat := b.toNat % 64

/-- SHL.32 (R133). -/
def execShl32 (x : RF) (s : State) : Out :=
  aluR (sgAlu3 1 x) x s (fun i => i.map2 x (fun a b => a <<< amt5 b))
/-- SHR.32 (R133). -/
def execShr32 (x : RF) (s : State) : Out :=
  aluR (sgAlu3 1 x) x s (fun i => i.map2 x (fun a b => a >>> amt5 b))
/-- SAR.32 (R133). -/
def execSar32 (x : RF) (s : State) : Out :=
  aluR (sgAlu3 1 x) x s (fun i => i.map2 x (fun a b => a.sshiftRight (amt5 b)))
/-- ROL.32 (R133). -/
def execRol32 (x : RF) (s : State) : Out :=
  aluR (sgAlu3 1 x) x s (fun i => i.map2 x (fun a b => a.rotateLeft (amt5 b)))
/-- SHL.64 (R133). -/
def execShl64 (x : RF) (s : State) : Out :=
  aluR (sgShift64 x) x s (fun i => i.map2s x (fun a b => a <<< amt6 b))
/-- SHR.64 (R133). -/
def execShr64 (x : RF) (s : State) : Out :=
  aluR (sgShift64 x) x s (fun i => i.map2s x (fun a b => a >>> amt6 b))
/-- SAR.64 (R133). -/
def execSar64 (x : RF) (s : State) : Out :=
  aluR (sgShift64 x) x s (fun i => i.map2s x (fun a b => a.sshiftRight (amt6 b)))

/-- The funnel of a over b, shifted right by the amount (R134). -/
def funnel (a b d : Word) : Word := lo32 (pairOf b a >>> amt5 d)
/-- FSH (R134). -/
def execFsh (x : RF) (s : State) : Out := aluR (sgAluD 1 x) x s (fun i => i.map3 x funnel)

/-- The number of 1 bits (R133). -/
def popc (a : Word) : Word := wd ((lanes.filter (fun i => a.getLsbD i)).length)
/-- The number of trailing 0 bits, 32 for 0 (R133). -/
def ctz (a : Word) : Word := wd ((lanes.find? (fun i => a.getLsbD i)).getD 32)
/-- The number of leading 0 bits, 32 for 0 (R133). -/
def clz (a : Word) : Word := wd ((lanes.find? (fun i => a.getLsbD (31 - i))).getD 32)
/-- Bit i moved to bit 31 - i (R133). -/
def brev (a : Word) : Word := maskOf (fun i => a.getLsbD (31 - i))

/-- POPC (R133). -/
def execPopc (x : RF) (s : State) : Out := aluR (sgAlu2 1 x) x s (fun i => i.map1 x popc)
/-- CLZ (R133). -/
def execClz (x : RF) (s : State) : Out := aluR (sgAlu2 1 x) x s (fun i => i.map1 x clz)
/-- CTZ (R133). -/
def execCtz (x : RF) (s : State) : Out := aluR (sgAlu2 1 x) x s (fun i => i.map1 x ctz)
/-- BREV (R133). -/
def execBrev (x : RF) (s : State) : Out := aluR (sgAlu2 1 x) x s (fun i => i.map1 x brev)

/-- The position of a bit field (R135). -/
def bfPos (b : Word) : Nat := b.toNat % 32
/-- The length of a bit field as given (R135). -/
def bfLen (b : Word) : Nat := bitsW b 13 8
/-- The length that stops at bit 31 (R135). -/
def bfN (b : Word) : Nat := min (bfLen b) (32 - bfPos b)
/-- The mask of a bit field (R135). -/
def bfMask (b : Word) : Word := wd ((2 ^ bfN b - 1) * 2 ^ bfPos b)

def bfxN (a b : Word) : Word := (a &&& bfMask b) >>> bfPos b
def bfxS (a b : Word) : Word :=
  let v := bfxN a b
  let n := bfN b
  if n == 0 then 0 else if v.getLsbD (n - 1) then v ||| wd (2 ^ 32 - 2 ^ n) else v
def bfi (a b d : Word) : Word := (d &&& ~~~(bfMask b)) ||| ((a <<< bfPos b) &&& bfMask b)

/-- A bit-field instruction traps when the length of any lane of `Part` is above 32 (R135). -/
def bfRun (sig : OpSig) (x : RF) (s : State) (f : Iss → Group) : Out :=
  s.issue (fun _ => issueR sig x) (fun i =>
    let bad := if isS x.b then
        (if sig.scalar || i.part x.g != 0 then decide (32 < bfLen (i.g.src x.b 0)) else false)
      else (lanesOf (i.part x.g)).any (fun L => 32 < bfLen (i.g.src x.b L))
    if bad then trapOp cIllegalOperand .b else .done (s.putGroup i.r.gref (f i)))

/-- BFX.s (R135). -/
def execBfxS (x : RF) (s : State) : Out := bfRun (sgAlu3 1 x) x s (fun i => i.map2 x bfxS)
/-- BFX.n (R135). -/
def execBfxN (x : RF) (s : State) : Out := bfRun (sgAlu3 1 x) x s (fun i => i.map2 x bfxN)
/-- BFI (R135). -/
def execBfi (x : RF) (s : State) : Out := bfRun (sgAluD 1 x) x s (fun i => i.map3 x bfi)

/-- Byte `j` of a byte permutation (R136). -/
def permByte (u : DWord) (d : Word) (j : Nat) : Byte :=
  let n := bitsW d (4 * j + 3) (4 * j)
  if n < 8 then u.extractLsb' (8 * n) 8 else 0
/-- BPERM's result (R136). -/
def bperm (a b d : Word) : Word :=
  let u := pairOf a b
  permByte u d 3 ++ permByte u d 2 ++ permByte u d 1 ++ permByte u d 0
/-- BPERM (R136). -/
def execBperm (x : RF) (s : State) : Out := aluR (sgAluD 1 x) x s (fun i => i.map3 x bperm)

/-- SEL (R137): every lane of `Active`, whatever g holds. -/
def execSel (x : RF) (s : State) : Out := aluR (sgSel x) x s (fun i =>
  i.g.dst x.d i.cur.active (fun L =>
    if (i.guard x.g).getLsbD L then i.g.src x.a L else i.g.src x.b L))

/-- ICMP.32 (R138). -/
def execIcmp32 (x : RF) (s : State) : Out := aluR (sgCmp 1 x (predOk x.d)) x s (fun i =>
  i.g.setPred (x.d.toNat % 8) (i.part x.g)
    (fun L => condI (x.d.toNat / 8) (i.g.src x.a L) (i.g.src x.b L)))
/-- ICMP.64 (R138). -/
def execIcmp64 (x : RF) (s : State) : Out := aluR (sgCmp 2 x (predOk x.d)) x s (fun i =>
  i.g.setPred (x.d.toNat % 8) (i.part x.g)
    (fun L => condI (x.d.toNat / 8) (i.g.src64 x.a L) (i.g.src64 x.b L)))

/-- The operations of KOP (R139). -/
def kopOf (k : Nat) (a b : Mask) : Mask :=
  match k with
  | 0 => a &&& b
  | 1 => a ||| b
  | 2 => a ^^^ b
  | 3 => a &&& ~~~b
  | 4 => a ||| ~~~b
  | 5 => ~~~(a &&& b)
  | 6 => ~~~(a ||| b)
  | _ => ~~~(a ^^^ b)

/-- KOP (R139). -/
def execKop (x : RF) (s : State) : Out :=
  aluR (sgPred x (predOk x.d) (predOnly x.a) (predOnly x.b)) x s (fun i =>
    i.g.kSet (x.d.toNat % 8) (i.part x.g)
      (kopOf (x.d.toNat / 8) (i.g.kGet (x.a.toNat % 8)) (i.g.kGet (x.b.toNat % 8))))

/-- KMOV.kv (R140): an s source is read as a lane mask. -/
def execKmovKv (x : RF) (s : State) : Out := aluR (sgKmovKv x) x s (fun i =>
  i.g.setPred (x.d.toNat % 8) (i.part x.g) (fun L =>
    if isS x.a then (i.g.sGet (sNum x.a)).getLsbD L else i.g.vGet x.a.toNat L != 0))

/-- KMOV.vk (R141): an s destination receives the mask of `Part`. -/
def execKmovVk (x : RF) (s : State) : Out := aluR (sgKmovVk x) x s (fun i =>
  let k := i.g.kGet (x.a.toNat % 8)
  if isS x.d then i.g.sSet (sNum x.d) (k &&& i.part x.g)
  else i.g.vSet x.d.toNat (i.part x.g) (fun L => if k.getLsbD L then 1 else 0))

/-- MOV (R142). -/
def execMov (x : RF) (s : State) : Out := aluR (sgAlu2 1 x) x s (fun i => i.map1 x (fun a => a))
/-- MOV.64 (R142). -/
def execMov64 (x : RF) (s : State) : Out := aluR (sgAlu2 2 x) x s (fun i =>
  i.g.dst64 x.d (i.part x.g) (fun L => i.g.src64 x.a L))

/-- IADDI.32 (R143). -/
def execIaddi32 (x : IF) (s : State) : Out :=
  aluI (sgImm 1 x) s (fun i => i.mapI x (immS i.cur.hints x) (· + ·))
/-- IADDI.64 (R143). -/
def execIaddi64 (x : IF) (s : State) : Out := aluI (sgImm 2 x) s (fun i =>
  i.g.dst64 x.d i.cur.active (fun L => i.g.src64 x.a L + immS i.cur.hints x))
/-- ANDI (R143). -/
def execAndi (x : IF) (s : State) : Out :=
  aluI (sgImm 1 x) s (fun i => i.mapI x (immZ i.cur.hints x) (· &&& ·))
/-- ORI (R143). -/
def execOri (x : IF) (s : State) : Out :=
  aluI (sgImm 1 x) s (fun i => i.mapI x (immZ i.cur.hints x) (· ||| ·))
/-- XORI (R143). -/
def execXori (x : IF) (s : State) : Out :=
  aluI (sgImm 1 x) s (fun i => i.mapI x (immZ i.cur.hints x) (· ^^^ ·))

/-- A shift by an immediate traps when the amount lies outside 0 to 31 (R143). -/
def shiftI (x : IF) (s : State) (op : Word → Nat → Word) : Out :=
  s.regs (fun i => { issueI (sgImm 1 x) with
      field := if (immS i.cur.hints x).toNat < 32 then none else some .other })
    (fun i => i.mapI x (immS i.cur.hints x) (fun a b => op a b.toNat))

/-- SHLI (R143). -/
def execShli (x : IF) (s : State) : Out := shiftI x s (fun a n => a <<< n)
/-- SHRI (R143). -/
def execShri (x : IF) (s : State) : Out := shiftI x s (fun a n => a >>> n)
/-- SARI (R143). -/
def execSari (x : IF) (s : State) : Out := shiftI x s (fun a n => a.sshiftRight n)
/-- ICMPI.32 (R138). -/
def execIcmpi32 (x : IF) (s : State) : Out := aluI (sgCmpi x) s (fun i =>
  i.g.setPred (x.d.toNat % 8) i.cur.active
    (fun L => condI (x.d.toNat / 8) (i.g.src x.a L) (lo32 (immS i.cur.hints x))))
/-- IMULI.32 (R143). -/
def execImuli32 (x : IF) (s : State) : Out :=
  aluI (sgImm 1 x) s (fun i => i.mapI x (immS i.cur.hints x) (· * ·))

/-- LEA2 (R144). -/
def execLea2 (x : RF) (s : State) : Out :=
  aluR (sgAlu3 1 x) x s (fun i => i.map2 x (fun a b => a + b * 2))
/-- LEA4 (R144). -/
def execLea4 (x : RF) (s : State) : Out :=
  aluR (sgAlu3 1 x) x s (fun i => i.map2 x (fun a b => a + b * 4))
/-- LEA8 (R144). -/
def execLea8 (x : RF) (s : State) : Out :=
  aluR (sgAlu3 1 x) x s (fun i => i.map2 x (fun a b => a + b * 8))
/-- LEA16 (R144). -/
def execLea16 (x : RF) (s : State) : Out :=
  aluR (sgAlu3 1 x) x s (fun i => i.map2 x (fun a b => a + b * 16))

/-- The 32-bit value of `XIMM` and imm18 (R145). -/
def immK (p : BitVec 24) (x : KF) : Word := ((p ++ x.imm : BitVec 42)).setWidth 32

/-- MOVI (R145): P [23:14] must be 0 under `XIMM`. -/
def execMovi (x : KF) (s : State) : Out :=
  s.regs (fun i => { issueI (sgMov x false) with
      acc := { ximm := (match i.cur.hints.ximm with | some p => p.toNat < 2 ^ 14 | none => true),
               ft := true } })
    (fun i => i.g.dst x.d i.cur.active (fun _ => match i.cur.hints.ximm with
      | some p => immK p x
      | none => x.imm.signExtend 32))

/-- MOVHI (R145): without `XIMM` the upper 18 bits of d; with it, register d + 1 of an even d. -/
def execMovhi (x : KF) (s : State) : Out :=
  s.regs (fun i => match i.cur.hints.ximm with
      | some p => { issueI { sgMov x false with d := x.d + 1 } with
          acc := { ximm := decide (p.toNat < 2 ^ 14) && x.d.toNat % 2 == 0, ft := true } }
      | none => { issueI (sgMov x true) with dOp := .third })
    (fun i => match i.cur.hints.ximm with
      | some p => i.g.dst (x.d + 1) i.cur.active (fun _ => immK p x)
      | none => i.g.dst x.d i.cur.active (fun L =>
          (x.imm.setWidth 32 <<< 14) ||| (i.g.src x.d L &&& 0x3FFF)))

end Sys2Proof.Machine
end

