-- ==== Sys2Proof/Machine/Ctrl.lean ====
section
/-! DEFINITION. Control flow, 0x90 to 0x9C (09 R180 to R194). -/

namespace Sys2Proof.Machine

open Sys2Proof

/-- The hint words of a format-B instruction (R181). -/
def accB (rcv : Bool) : HAcc := { ximm := true, xsrc := false, y := true, xrcv := rcv }
/-- The hint words of the other control instructions (R181). -/
def accC (rcv : Bool) : HAcc := { xsrc := false, xrcv := rcv }

/-- The word offset of a format-B instruction (R75, R180). -/
def offB (h : Hints) (x : BF) : Pc :=
  match h.ximm with
  | some p => ((p ++ x.off : BitVec 44)).signExtend 55
  | none => x.off.signExtend 55

/-- The target of a format-B instruction (R180). -/
def Iss.targetB (i : Iss) (x : BF) : Pc := i.cur.next + 4 * offB i.cur.hints x

/-- The reconvergence address RA of an `XRCV` word (R35, R79). -/
def Iss.ra (i : Iss) : Option Pc :=
  i.cur.hints.xrcv.map (fun p => i.cur.next + 4 * ((p.setWidth 20).signExtend 55))

/-- The lanes of `M` whose condition holds (R67, R182). -/
def Iss.cond (i : Iss) (x : BF) : Mask :=
  let k := i.guard x.g
  i.p.mask &&& (if x.n == 1 then ~~~k else k)

/-- Y of the unit's `XSCH` word (R78). -/
def hintY (h : Hints) : Bool := match h.xsch with | some p => p.getLsbD 8 | none => false

/-- The issuing split goes on at an address. -/
def State.goto (s : State) (i : Iss) (pc : Pc) : State :=
  s.modSplit i.r (fun p => { p with pc := pc, st := .ready, replay := none, lastIssue := s.cyclesOf i.b.core })

/-- A taken backward branch with Y is a blocking point of each split that it leaves (R78, R195). -/
def State.yieldAt (s : State) (i : Iss) (on : Bool) : State :=
  if on then s.modGroup i.r.gref (fun g => { g with
    splits := (g.splits.zipIdx).map (fun x =>
      if x.2 == i.r.sp || (i.g.splits.getD x.2 none).isNone then
        x.1.map (fun p => if p.st == .ready then { p with st := .blocked .yielded p.pc } else p)
      else x.1) })
  else s

/-- The record of a taken branch (R425). -/
def State.traceBranch (s : State) (i : Iss) (target : Pc) : State :=
  s.trace i.r i.cur.unit i.p.mask 0 0 (target.setWidth 32)

/-- A branch to one target with taken lanes `t` (R35, R37, R182); `link` is done to the group first. -/
def State.branch (s : State) (i : Iss) (t : Mask) (target : Pc) (y : Bool) (link : Group → Group) : Res :=
  let n := i.p.mask &&& ~~~t
  let g := link i.g
  if t == 0 then .done (s.putGroup i.r.gref g)
  else if n == 0 then
    .moved ((((s.putGroup i.r.gref g).goto i target).yieldAt i y).traceBranch i target)
  else match g.divide i.r.sp (i.cur.next, n) [(target, t)] i.ra with
    | none => .trap { cause := cSplitLimit }
    | some g =>
      let s := (s.putGroup i.r.gref g).modSplit i.r (fun p => { p with lastIssue := s.cyclesOf i.b.core })
      let s := s.dropHeld i.r.gref [i.r.sp]
      .moved ((s.yieldAt i y).traceBranch i target)

/-- Whether a taken branch yields (R78). -/
def Iss.yields (i : Iss) (x : BF) : Bool := hintY i.cur.hints && (offB i.cur.hints x).msb

/-- BRA (R182). -/
def execBra (x : BF) (s : State) : Out :=
  s.issue (fun _ => { sig := sigOf (.bra x), acc := accB (x.g != 0) })
    (fun i => s.branch i (i.cond x) (i.targetB x) (i.yields x) (fun g => g))

/-- BRAU (R183): never divides. -/
def execBrau (x : BF) (s : State) : Out :=
  s.issue (fun _ => { sig := sigOf (.brau x), acc := accB false })
    (fun i =>
      let t := i.cond x
      if t != 0 && t != i.p.mask then .trap { cause := cSplitLimit, detail := 1 }
      else s.branch i t (i.targetB x) (i.yields x) (fun g => g))

/-- The return address in v47 of the taken lanes (R185). -/
def Group.link (g : Group) (next : Pc) (t : Mask) : Group := g.vSet 47 t (fun _ => next.setWidth 32)

/-- CALL (R185). -/
def execCall (x : BF) (s : State) : Out :=
  s.issue (fun _ => { sig := sigOf (.call x), acc := accB (x.g != 0), vd := [47] })
    (fun i => s.branch i (i.cond x) (i.targetB x) (i.yields x)
      (fun g => g.link i.cur.next (i.cond x)))

/-- BDEC (R184). -/
def execBdec (x : BF) (s : State) : Out :=
  s.issue (fun _ => { sig := sigOf (.bdec x), acc := accB false, sx := [x.g.toNat] })
    (fun i =>
      let c := i.g.sGet x.g.toNat - 1
      s.branch i (if c == 0 then 0 else i.p.mask) (i.targetB x) (i.yields x)
        (fun g => g.sSet x.g.toNat c))

/-- A register target (R180). -/
def Iss.targetR (i : Iss) (w : Word) : Pc :=
  (i.cur.unit.extractLsb' 32 23 ++ w : BitVec 55)

/-- The destinations of a register branch (R186), the kept one first: the Next set, else the lowest
target; the others by rising address. -/
def Iss.dests (i : Iss) (part : Mask) (v : Nat → Word) : List (Pc × Mask) :=
  let tgt := fun L => if part.getLsbD L then i.targetR (v L) else i.cur.next
  let addrs := sortedSet ((lanesOf i.p.mask).map (fun L => (tgt L).toNat))
  let set := fun (a : Nat) =>
    (BitVec.ofNat 55 a, i.p.mask &&& maskOf (fun L => (tgt L).toNat == a))
  let next := i.cur.next.toNat
  if addrs.contains next then (next :: addrs.filter (· != next)).map set else addrs.map set

/-- A branch of each lane to its register target (R186 to R189). -/
def State.regBranch (s : State) (i : Iss) (g3 : BitVec 3) (v : Nat → Word) (link : Group → Group) : Res :=
  let part := i.part g3 &&& i.p.mask
  if (lanesOf part).any (fun L => (v L).toNat % 4 != 0) then .trap { cause := cMisaligned }
  else
    let g := link i.g
    let trace := fun (s : State) (ds : List (Pc × Mask)) =>
      (ds.filter (fun d => d.2 &&& part != 0)).foldl (fun s d => s.traceBranch i d.1) s
    match i.dests part v with
    | [] => .done (s.putGroup i.r.gref g)
    | [d] => .moved (trace ((s.putGroup i.r.gref g).goto i d.1) [d])
    | d :: ds => match g.divide i.r.sp d ds i.ra with
      | none => .trap { cause := cSplitLimit }
      | some g =>
        .moved (trace (((s.putGroup i.r.gref g).modSplit i.r
          (fun p => { p with lastIssue := s.cyclesOf i.b.core })).dropHeld i.r.gref [i.r.sp]) (d :: ds))

/-- BRX (R187). -/
def execBrx (x : RF) (s : State) : Out :=
  s.issue (fun _ => { sig := sigOf (.brx x), acc := accC true, f := some (x.f == 1) })
    (fun i => s.regBranch i x.g (fun L => i.g.src x.a L) (fun g => g))

/-- CALLX (R188): the targets are read before v47 is written. -/
def execCallx (x : RF) (s : State) : Out :=
  s.issue (fun _ => { sig := sigOf (.callx x), acc := accC false, f := some (x.f == 1), vd := [47] })
    (fun i => s.regBranch i x.g (fun L => i.g.src x.a L)
      (fun g => g.link i.cur.next (i.part x.g &&& i.p.mask)))

/-- RET (R189). -/
def execRet (x : RF) (s : State) : Out :=
  s.issue (fun _ => { sig := sigOf (.ret x), acc := accC false, f := some (x.f == 1), vx := [47] })
    (fun i => s.regBranch i x.g (fun L => i.g.vGet 47 L) (fun g => g))

/-- YIELD (R190): a blocking point whose condition is met. -/
def execYield (x : RF) (s : State) : Out :=
  s.issue (fun _ => { sig := sigOf (.yield x), acc := accC false }) (fun _ => .block .yielded s)

/-- EXIT (R33, R191). -/
def execExit (x : RF) (s : State) : Out :=
  s.issue (fun _ => { sig := sigOf (.exit x), acc := accC false }) (fun i =>
    if i.g.inGate || i.g.handler then .trap { cause := cProtection, detail := 6 }
    else .done (s.modGroup i.r.gref (fun g => g.exitLanes (i.part x.g))))

/-- NOP (R192). -/
def execNop (x : RF) (s : State) : Out :=
  s.issue (fun _ => { sig := sigOf (.nop x), acc := accC false }) (fun _ => .done s)

/-- A trap taken after its instruction, with TRAPPC = Next (R193, R194, R365). -/
def trapAfter (i : Iss) (s : State) (cause m : Nat) : Res :=
  .moved ((s.goto i i.cur.next).trapAt i.r { cause := cause, detail := m } i.cur.next (some i.cur.unit))

/-- TRAP (R193). -/
def execTrap (x : EF) (s : State) : Out :=
  s.issue (fun _ => { sig := sigOf (.trap x), acc := accC false })
    (fun i => trapAfter i s cSoft x.m.toNat)

/-- BRK (R194). -/
def execBrk (x : EF) (s : State) : Out :=
  s.issue (fun _ => { sig := sigOf (.brk x), acc := accC false })
    (fun i => trapAfter i s cBreak x.m.toNat)

end Sys2Proof.Machine
end

