-- ==== Sys2Proof/Machine/Float.lean ====
section
/-! DEFINITION. Numbers: the IEEE formats and the binary8 family, exact sums and products, and the one
rounding of each (06 R102 to R115). -/

namespace Sys2Proof.Machine

open Sys2Proof

/-- The flags (R56, R107). -/
def fIV : Word := 1
def fDZ : Word := 2
def fOF : Word := 4
def fUF : Word := 8
def fNX : Word := 16
def fCL : Word := 32

/-- A rounding mode (R104). -/
inductive RMode where
  | rne | rtz | rup | rdn
  deriving DecidableEq, Repr

/-- RM of an `XRND` word, and MODE of `FRND` (R77, R164). -/
def rmOf (n : Nat) : RMode := match n % 4 with | 0 => .rne | 1 => .rtz | 2 => .rup | _ => .rdn

/-- An overflow mode (R113). -/
inductive OMode where
  | sat | inf | nan
  deriving DecidableEq, Repr

/-- The value of an operand: a NaN, signalling or not; an infinity; or (-1)^neg m 2^e, zeros signed. -/
inductive FVal where
  | nan (sig : Bool)
  | inf (neg : Bool)
  | fin (neg : Bool) (m : Nat) (e : Int)
  deriving DecidableEq, Repr

/-- An IEEE format: width and precision (R102). -/
structure FFmt where
  w : Nat
  p : Nat
  deriving DecidableEq, Repr

def fp64 : FFmt := ⟨64, 53⟩
def fp32 : FFmt := ⟨32, 24⟩
def fp16 : FFmt := ⟨16, 11⟩
def bf16 : FFmt := ⟨16, 8⟩

/-- emax, which is the bias (R102). -/
def FFmt.emax (f : FFmt) : Nat := 2 ^ (f.w - f.p - 1) - 1
/-- The exponent of the least significant bit of a subnormal. -/
def FFmt.q0 (f : FFmt) : Int := 1 - (f.emax : Int) - ((f.p : Int) - 1)
/-- The exponent field of infinities and NaNs. -/
def FFmt.eTop (f : FFmt) : Nat := 2 ^ (f.w - f.p) - 1
/-- The bits of +infinity. -/
def FFmt.inf (f : FFmt) : Nat := f.eTop * 2 ^ (f.p - 1)
/-- The canonical NaN (R102). -/
def FFmt.nan (f : FFmt) : Nat := f.inf + 2 ^ (f.p - 2)
/-- The sign bit as a number. -/
def FFmt.sign (f : FFmt) : Nat := 2 ^ (f.w - 1)
/-- The bits with their sign. -/
def FFmt.signed (f : FFmt) (neg : Bool) (mag : Nat) : Nat := if neg then mag + f.sign else mag

/-- Whether a pattern has its sign bit set. -/
def FFmt.isNeg (f : FFmt) (b : Nat) : Bool := b.testBit (f.w - 1)
/-- A pattern with its sign bit flipped (R77). -/
def FFmt.flip (f : FFmt) (b : Nat) : Nat := if f.isNeg b then b - f.sign else b + f.sign

/-- The value of a pattern (R102, R105). -/
def FFmt.decode (f : FFmt) (b : Nat) : FVal :=
  let frac := b % 2 ^ (f.p - 1)
  let ex := b / 2 ^ (f.p - 1) % 2 ^ (f.w - f.p)
  let neg := f.isNeg b
  if ex == f.eTop then (if frac == 0 then .inf neg else .nan (!frac.testBit (f.p - 2)))
  else if ex == 0 then .fin neg frac f.q0
  else .fin neg (2 ^ (f.p - 1) + frac) (f.q0 + (ex : Int) - 1)

/-- floor(log2 of m 2^e), for m above 0. -/
def topExp (m : Nat) (e : Int) : Int := e + (Nat.log2 m : Int)

/-- m 2^e as a whole number of quanta 2^q, rounded, and whether it is inexact; `odd` is the parity that the
quantum number 0 has as a code (R104, R112). -/
def quanta (mode : RMode) (neg : Bool) (m : Nat) (e q : Int) (odd : Bool) : Nat × Bool :=
  let d := q - e
  if d ≤ 0 then (m * 2 ^ (-d).toNat, false)
  else
    let sh := d.toNat
    if m.log2 + 1 < sh then
      (if m != 0 && (match mode with | .rup => !neg | .rdn => neg | _ => false) then 1 else 0, m != 0)
    else
    let k := m / 2 ^ sh
    let r := m % 2 ^ sh
    let up := match mode with
      | .rne => decide (2 ^ sh < 2 * r) || (2 * r == 2 ^ sh && ((k % 2 == 1) != odd))
      | .rtz => false
      | .rup => r != 0 && !neg
      | .rdn => r != 0 && neg
    (if up then k + 1 else k, r != 0)

/-- The rounding of m 2^e, m above 0, to precision p above the exponent `q0` of the least quantum: the code
of the magnitude counted from 0, whether it is inexact, and whether it is tiny (R104, R112). -/
def roundMag (p : Nat) (q0 : Int) (mode : RMode) (neg : Bool) (m : Nat) (e : Int) : Nat × Bool × Bool :=
  let qu := topExp m e - ((p : Int) - 1)
  let q := max qu q0
  let base := (q - q0).toNat
  let (r, ix) := quanta mode neg m e q (p == 1 && base % 2 == 1)
  let (ru, _) := quanta mode neg m e qu (p == 1 && (qu - q0) % 2 != 0)
  let tiny := ru != 0 && topExp ru qu < q0 + ((p : Int) - 1)
  (base * 2 ^ (p - 1) + r, ix, tiny)

/-- The flags of an inexact or tiny result. -/
def ufnx (ix tiny : Bool) : Word := if ix then fNX ||| (if tiny then fUF else 0) else 0

/-- Whether an overflow under a mode stops at the largest finite value (R104, R113). -/
def toward (mode : RMode) (neg : Bool) : Bool :=
  match mode with
  | .rne => false
  | .rtz => true
  | .rup => neg
  | .rdn => !neg

/-- A value rounded once to a format: the pattern and the flags (R104, R105, R107). -/
def FFmt.round (f : FFmt) (mode : RMode) (v : FVal) : Nat × Word :=
  match v with
  | .nan _ => (f.nan, 0)
  | .inf n => (f.signed n f.inf, 0)
  | .fin n m e =>
    if m == 0 then (f.signed n 0, 0)
    else
      let (c, ix, tiny) := roundMag f.p f.q0 mode n m e
      if f.inf ≤ c then
        (f.signed n (if toward mode n then f.inf - 1 else f.inf), fOF ||| fNX)
      else (f.signed n c, ufnx ix tiny)

/-- Invalid for a signalling NaN (R105). -/
def FVal.sigIV : FVal → Word
  | .nan true => fIV
  | _ => 0

def FVal.isNan : FVal → Bool
  | .nan _ => true
  | _ => false

/-- A value with its sign flipped. -/
def FVal.neg : FVal → FVal
  | .nan s => .nan s
  | .inf n => .inf (!n)
  | .fin n m e => .fin (!n) m e

/-- A finite value as a whole number of 2^q, q at most its exponent. -/
def scaled (n : Bool) (m : Nat) (e q : Int) : Int :=
  let a : Int := m * 2 ^ (e - q).toNat
  if n then -a else a

/-- The exact sum of two values and its invalid flag; an exact zero by R106. -/
def FVal.add (mode : RMode) (a b : FVal) : FVal × Word :=
  match a, b with
  | .nan _, _ | _, .nan _ => (.nan false, a.sigIV ||| b.sigIV)
  | .inf x, .inf y => if x == y then (.inf x, 0) else (.nan false, fIV)
  | .inf x, .fin _ _ _ => (.inf x, 0)
  | .fin _ _ _, .inf y => (.inf y, 0)
  | .fin x m e, .fin y k g =>
    let q := min e g
    let t := scaled x m e q + scaled y k g q
    if t == 0 then (.fin (if m == 0 && k == 0 && x == y then x else mode == .rdn) 0 0, 0)
    else (.fin (t < 0) t.natAbs q, 0)

/-- The exact product of two values and its invalid flag (R106, R107). -/
def FVal.mul (a b : FVal) : FVal × Word :=
  match a, b with
  | .nan _, _ | _, .nan _ => (.nan false, a.sigIV ||| b.sigIV)
  | .inf x, .inf y => (.inf (x != y), 0)
  | .inf x, .fin y k _ => if k == 0 then (.nan false, fIV) else (.inf (x != y), 0)
  | .fin x m _, .inf y => if m == 0 then (.nan false, fIV) else (.inf (x != y), 0)
  | .fin x m e, .fin y k g => (.fin (x != y) (m * k) (e + g), 0)

/-- The quotient of two values, with enough bits and a last bit that says whether more follow (R165). -/
def FVal.div (a b : FVal) : FVal × Word :=
  match a, b with
  | .nan _, _ | _, .nan _ => (.nan false, a.sigIV ||| b.sigIV)
  | .inf _, .inf _ => (.nan false, fIV)
  | .inf x, .fin y _ _ => (.inf (x != y), 0)
  | .fin x _ _, .inf y => (.fin (x != y) 0 0, 0)
  | .fin x m e, .fin y k g =>
    if k == 0 then (if m == 0 then (.nan false, fIV) else (.inf (x != y), fDZ))
    else
      let t := m * 2 ^ 128
      (.fin (x != y) (2 * (t / k) + (if t % k == 0 then 0 else 1)) (e - g - 129), 0)

/-- The integer square root, bit by bit from bit `n - 1`. -/
def isqrt (x : Nat) : Nat → Nat → Nat
  | 0, r => r
  | n + 1, r => let t := r + 2 ^ n; if t * t ≤ x then isqrt x n t else isqrt x n r

/-- The square root of a value, in the form of `FVal.div` (R165). -/
def FVal.sqrt (a : FVal) : FVal × Word :=
  match a with
  | .nan _ => (.nan false, a.sigIV)
  | .inf n => if n then (.nan false, fIV) else (.inf false, 0)
  | .fin n m e =>
    if m == 0 then (.fin n 0 0, 0)
    else if n then (.nan false, fIV)
    else
      let (m, e) := if e % 2 == 0 then (m, e) else (2 * m, e - 1)
      let t := m * 2 ^ 128
      let r := isqrt t 96 0
      (.fin false (2 * r + (if r * r == t then 0 else 1)) (e / 2 - 65), 0)

/-- A value times 2^n, exactly. -/
def FVal.scale (a : FVal) (n : Int) : FVal :=
  match a with
  | .fin s m e => .fin s m (e + n)
  | v => v

/-- Whether a is less than b; false for NaNs. `zeros` orders -0 below +0 (R159). -/
def FVal.lt (zeros : Bool) (a b : FVal) : Bool :=
  match a, b with
  | .nan _, _ | _, .nan _ => false
  | .inf x, .inf y => x && !y
  | .inf x, .fin _ _ _ => x
  | .fin _ _ _, .inf y => !y
  | .fin x m e, .fin y k g =>
    let q := min e g
    let s := scaled x m e q
    let t := scaled y k g q
    decide (s < t) || (zeros && m == 0 && k == 0 && x && !y)

/-- The conditions of `FCMP` (R70, R160): the predicate and the invalid flag. -/
def condF (c : Nat) (a b : FVal) : Bool × Word :=
  let un := a.isNan || b.isNan
  let lt := FVal.lt false a b
  let gt := FVal.lt false b a
  let quiet := a.sigIV ||| b.sigIV
  let loud := if un then fIV else 0
  match c with
  | 0 => (!un && !lt && !gt, quiet)
  | 1 => (un || lt || gt, quiet)
  | 2 => (lt, loud)
  | 3 => (!un && !gt, loud)
  | 4 => (gt, loud)
  | 5 => (!un && !lt, loud)
  | 6 => (un, quiet)
  | _ => (!un, quiet)

/-- Minimum and maximum on patterns (R159): `max` takes the greater, `num` prefers a number to a NaN. -/
def FFmt.minmax (f : FFmt) (isMax num : Bool) (a b : Nat) : Nat × Word :=
  let x := f.decode a
  let y := f.decode b
  let fl := x.sigIV ||| y.sigIV
  match x.isNan, y.isNan with
  | true, true => (f.nan, fl)
  | true, false => (if num then b else f.nan, fl)
  | false, true => (if num then a else f.nan, fl)
  | false, false =>
    (if isMax then (if FVal.lt true x y then b else a) else (if FVal.lt true y x then b else a), fl)

/-- The class mask of a pattern (R163). -/
def FFmt.cls (f : FFmt) (b : Nat) : Nat :=
  match f.decode b with
  | .nan true => 2 ^ 8
  | .nan false => 2 ^ 9
  | .inf n => if n then 2 ^ 0 else 2 ^ 7
  | .fin n m _ =>
    if m == 0 then (if n then 2 ^ 3 else 2 ^ 4)
    else if m < 2 ^ (f.p - 1) then (if n then 2 ^ 2 else 2 ^ 5)
    else (if n then 2 ^ 1 else 2 ^ 6)

/-- A value rounded to an integral value; the sign of a zero is that of the operand (R164). -/
def FVal.integral (mode : RMode) (v : FVal) : FVal × Bool :=
  match v with
  | .fin n m e => let (r, ix) := quanta mode n m e 0 false; (.fin n r 0, ix)
  | v => (v, false)

/-- The integer types of R170. -/
structure ITy where
  signed : Bool
  bits : Nat
  deriving DecidableEq, Repr

def iTyOf (t : Nat) : ITy := { signed := t % 2 == 0, bits := if 2 ≤ t then 64 else 32 }
def ITy.max (t : ITy) : Int := if t.signed then 2 ^ (t.bits - 1) - 1 else 2 ^ t.bits - 1
def ITy.min (t : ITy) : Int := if t.signed then -(2 ^ (t.bits - 1)) else 0

/-- A value converted to an integer type (R173). -/
def FVal.toInt (v : FVal) (t : ITy) (mode : RMode) : Int × Word :=
  match v with
  | .nan _ => (0, fIV)
  | .inf n => (if n then t.min else t.max, fIV)
  | .fin n m e =>
    let (r, ix) := quanta mode n m e 0 false
    let i : Int := if n then -(r : Int) else r
    if t.max < i then (t.max, fIV)
    else if i < t.min then (t.min, fIV)
    else (i, if ix then fNX else 0)

/-- The value of an integer. -/
def FVal.ofInt (i : Int) : FVal := .fin (i < 0) i.natAbs 0

/-- A binary8 format (R108). -/
structure B8 where
  s : Bool
  i : Bool
  p : Nat
  deriving DecidableEq, Repr

/-- The binary8 format of a byte: none where it is no binary8 byte or an invalid one (R108). -/
def b8Of (n : Nat) : Option B8 :=
  if 0x80 ≤ n && n < 0xA0 && n % 8 != 0 then
    some { s := n.testBit 4, i := n.testBit 3, p := n % 8 }
  else none

/-- The exponent of the least quantum (R109). -/
def B8.q0 (f : B8) : Int :=
  let w := (if f.s then 8 else 9) - f.p
  1 - 2 ^ (w - 1) - ((f.p : Int) - 1)
/-- The only NaN code (R109, R113). -/
def B8.nan (f : B8) : Nat := if f.s then 0x80 else 0xFF
/-- The code of +infinity, where the format has one. -/
def B8.inf (f : B8) : Nat := if f.s then 0x7F else 0xFE
/-- The code of the largest finite value (R109, R110). -/
def B8.mf (f : B8) : Nat := if f.i then f.inf - 1 else f.inf
/-- A code with its sign: the code of zero has none. -/
def B8.signed (f : B8) (neg : Bool) (c : Nat) : Nat := if neg && c != 0 && f.s then c + 0x80 else c

/-- Decode8 (R109). -/
def B8.decode (f : B8) (c : Nat) : FVal :=
  if c == f.nan then .nan false
  else
    let mag := if f.s then c % 128 else c
    let neg := f.s && 128 ≤ c
    if f.i && mag == f.inf then .inf neg
    else
      let e := mag / 2 ^ (f.p - 1)
      let fr := mag % 2 ^ (f.p - 1)
      if e == 0 then .fin (neg && fr != 0) fr f.q0
      else .fin neg (2 ^ (f.p - 1) + fr) (f.q0 + (e : Int) - 1)

/-- Conversion into binary8 (R112, R113): the code and the flags. -/
def B8.convert (f : B8) (mode : RMode) (om : OMode) (v : FVal) : Nat × Word :=
  let ofNeg : Nat × Word := match om with
    | .sat => (0, fCL ||| fNX)
    | _ => (f.nan, fIV)
  match v with
  | .nan s => (f.nan, if s then fIV else 0)
  | .inf n =>
    if n && !f.s then ofNeg
    else match om with
      | .sat => (f.signed n f.mf, fCL ||| fNX)
      | _ => if f.i then (f.signed n f.inf, 0) else (f.nan, fIV)
  | .fin n m e =>
    if m == 0 then (0, 0)
    else
      let (c, ix, tiny) := roundMag f.p f.q0 mode n m e
      if n && !f.s && c != 0 then ofNeg
      else if f.mf < c then
        match om with
        | .sat => (f.signed n f.mf, fCL ||| fNX)
        | .inf =>
          if toward mode n then (f.signed n f.mf, fOF ||| fNX)
          else (if f.i then f.signed n f.inf else f.nan, fOF ||| fNX)
        | .nan => (f.nan, fOF ||| fNX)
      else (f.signed n c, ufnx ix tiny)

/-- The scale 2^n of fixed-point numbers in the bounds of R166. -/
def fxBits : Nat := 256
/-- floor(pi 2^256). -/
def fxPi : Nat := 0x3243f6a8885a308d313198a2e03707344a4093822299f31d0082efa98ec4e6c89
/-- floor(ln 2 2^256). -/
def fxLn2 : Nat := 0xb17217f7d1cf79abc9e3b39803f2f6af40f343267298b62d8a0d175b8baafa2b

/-- A finite value in fixed point. -/
def toFx (n : Bool) (m : Nat) (e : Int) : Int :=
  let x := e + (fxBits : Int)
  let a : Int := if 0 ≤ x then (m : Int) * 2 ^ x.toNat else (m / 2 ^ (-x).toNat : Nat)
  if n then -a else a

def fxMul (a b : Int) : Int := a * b / 2 ^ fxBits

/-- The sum of a series: `f k t` gives term k + 1 from term k. -/
def fxSeries (f : Nat → Int → Int) : Nat → Nat → Int → Int
  | 0, _, _ => 0
  | n + 1, k, t => t + fxSeries f n (k + 1) (f k t)

/-- 2^A by n 2^f, f in [0, 1). -/
def fxExp2 (a : Int) : Int :=
  let n := a / 2 ^ fxBits
  let x := fxMul (a % 2 ^ fxBits) fxLn2
  let y := fxSeries (fun k t => fxMul t x / ((k : Int) + 1)) 60 0 (2 ^ fxBits)
  if 0 ≤ n then y * 2 ^ n.toNat else y / 2 ^ (-n).toNat

/-- log2 of m 2^e, m above 0. -/
def fxLog2 (m : Nat) (e : Int) : Int :=
  let k := topExp m e
  let x := toFx false m (e - k)
  let one : Int := 2 ^ fxBits
  let z := (x - one) * one / (x + one)
  let z2 := fxMul z z
  let pw := (List.range 85).foldl (fun (p : Int × Int) (j : Nat) =>
    (p.1 + p.2 / (2 * (j : Int) + 1), fxMul p.2 z2)) (0, z)
  k * one + 2 * pw.1 * one / fxLn2

/-- sin (c = 0) or cos (c = 1) of a fixed-point number. -/
def fxSin (c : Nat) (a : Int) : Int :=
  let half : Int := fxPi / 2
  let k := (a + half / 2) / half
  let x := a - k * half
  let x2 := fxMul x x
  let sn := fxSeries (fun j t => -(fxMul t x2) / ((2 * (j : Int) + 2) * (2 * (j : Int) + 3))) 40 0 x
  let cs := fxSeries (fun j t => -(fxMul t x2) / ((2 * (j : Int) + 1) * (2 * (j : Int) + 2))) 40 0
    (2 ^ fxBits)
  match ((k + (c : Int)) % 4).toNat with
  | 0 => sn
  | 1 => cs
  | 2 => -sn
  | _ => -cs

/-- A result whose exact value lies strictly inside `lim` (|sin A| < |A|, cos A < 1 for A ≠ 0), where the fixed point
cannot tell the two apart: the next number towards 0, so that `fxUlp` sees the gap below `lim` (R166). -/
def fxInside (lim y : Int) : Int :=
  if lim.natAbs ≤ y.natAbs then (if y < 0 then 1 - (lim.natAbs : Int) else (lim.natAbs : Int) - 1) else y

/-- 1 / (m 2^e) in fixed point. -/
def fxRcp (n : Bool) (m : Nat) (e : Int) : Int :=
  let x := 2 * (fxBits : Int) - (e + (fxBits : Int))
  let a : Int := (2 ^ x.toNat / m : Nat)
  if n then -a else a

/-- 1 / sqrt(m 2^e) in fixed point. -/
def fxRsq (m : Nat) (e : Int) : Int :=
  (isqrt (2 ^ (2 * (fxBits : Int) - e).toNat / m) 352 0 : Nat)

/-- A fixed-point number rounded to FP32, its last bit standing for what follows: pattern and flags. -/
def fxRound (y : Int) : Nat × Word :=
  if y == 0 then (0, fUF ||| fNX)
  else fp32.round .rne (.fin (y < 0) (2 * y.natAbs + 1) (-(fxBits : Int) - 1))

/-- ulp(y) in fixed point (R166). -/
def fxUlp (y : Int) : Int :=
  if y == 0 then 2 ^ (fxBits - 149)
  else
    let q := max (topExp y.natAbs (-(fxBits : Int)) - 23) (-149)
    2 ^ (q + (fxBits : Int)).toNat

/-- The value that the part returns for an inexact result y (R166): the free value `r` where it lies
within the bound, else y rounded (log entry 12). y is no FP32 value, and its error is less than its distance from the
nearest, so the test is as sharp as one of y itself. -/
def fxPick (r : Word) (y bound : Int) : Word :=
  match fp32.decode r.toNat with
  | .fin n m e =>
    if ((toFx n m e - y).natAbs : Int) ≤ bound then r
    else wd (fxRound y).1
  | _ => wd (fxRound y).1

end Sys2Proof.Machine
end

