-- ==== Sys2Proof/Machine/Flags.lean ====
section
/-! DEFINITION. The sticky flags (03 R55, R56) and the `XRND` word (04 R77): how floating-point
instructions read their operands and write their results and flags. -/

namespace Sys2Proof.Machine

open Sys2Proof

/-- The bits of FLAGS that exist (R56). -/
def flagsMask : Word := 0x3F

/-- The fields of an `XRND` word (R77). -/
structure Rnd where
  rm : RMode := .rne
  om : OMode := .sat
  nf : Bool := false
  na : Bool := false
  nb : Bool := false
  nc : Bool := false
  deriving DecidableEq, Repr

/-- The rounding of a unit: the defaults without an `XRND` word (R104, R114). -/
def rndOf (h : Hints) : Rnd :=
  match h.xrnd with
  | none => {}
  | some p =>
    { rm := rmOf (bitsN p.toNat 1 0),
      om := match bitsN p.toNat 3 2 with | 2 => .inf | 3 => .nan | _ => .sat,
      nf := p.getLsbD 4, na := p.getLsbD 5, nb := p.getLsbD 6, nc := p.getLsbD 7 }

/-- Whether an instruction accepts an `XRND` word, from the fields it accepts; NF is among them (R77,
R155). -/
def rndOk (rm ovf na nb nc : Bool) (p : BitVec 24) : Bool :=
  p.toNat / 2 ^ 8 == 0 && (rm || bitsN p.toNat 1 0 == 0) && (ovf || bitsN p.toNat 3 2 == 0) &&
  (na || !p.getLsbD 5) && (nb || !p.getLsbD 6) && (nc || !p.getLsbD 7)

/-- ORs the exceptions of lanes `m` into FLAGS, unless NF suppresses them (R55). -/
def Group.orFlags (g : Group) (r : Rnd) (m : Mask) (f : Nat → Word) : Group :=
  if r.nf then g
  else { g with flags := g.flags ||| ((lanesOf m).foldl (fun acc L => acc ||| f L) 0 &&& flagsMask) }

/-- The operand types of R153. -/
inductive FTy where
  | f64 | f32 | h2 | bh2
  deriving DecidableEq, Repr

def FTy.fmt : FTy → FFmt
  | .f64 => fp64 | .f32 => fp32 | .h2 => fp16 | .bh2 => bf16

/-- The type of code t (R153). -/
def fTyOf (t : Nat) : FTy := match t % 4 with | 0 => .f64 | 1 => .f32 | 2 => .h2 | _ => .bh2

/-- The elements of an operand value (R103). -/
def FTy.elems (t : FTy) (v : DWord) : List Nat :=
  match t with
  | .f64 => [v.toNat]
  | .f32 => [v.toNat % 2 ^ 32]
  | _ => [v.toNat % 2 ^ 16, v.toNat / 2 ^ 16 % 2 ^ 16]

/-- The value of result elements, with their exceptions (R103). -/
def FTy.pack (t : FTy) (l : List (Nat × Word)) : DWord × Word :=
  (BitVec.ofNat 64 (match t with
    | .h2 | .bh2 => (l.headD (0, 0)).1 + 2 ^ 16 * ((l.drop 1).headD (0, 0)).1
    | _ => (l.headD (0, 0)).1),
   l.foldl (fun f x => f ||| x.2) 0)

/-- `F(f, L)`: the elements of an operand in a lane, negated or not (R153). -/
def Iss.fsrc (i : Iss) (t : FTy) (v : BitVec 6) (neg : Bool) (L : Nat) : List Nat :=
  let w := match t with
    | .f64 => i.g.src64 v L
    | _ => (i.g.src v L).setWidth 64
  (t.elems w).map (fun b => if neg then t.fmt.flip b else b)

/-- The field that carries the addend: register d, or SRC of `XSRC` (R158). -/
def Iss.addend (i : Iss) (x : RF) : BitVec 6 := (hintSrc3 i.cur.hints).getD x.d

/-- Writes the results of lanes of `Part`, in a register or a pair, and ORs their exceptions (R55). -/
def Iss.fout (i : Iss) (x : RF) (wide : Bool) (f : Nat → DWord × Word) : Group :=
  let g := if wide then i.g.dst64 x.d (i.part x.g) (fun L => (f L).1)
    else i.g.dst x.d (i.part x.g) (fun L => lo32 (f L).1)
  g.orFlags (rndOf i.cur.hints) (i.part x.g) (fun L => (f L).2)

/-- An elementwise result of type t from two operands. -/
def Iss.felem2 (i : Iss) (x : RF) (t : FTy) (op : FFmt → Nat → Nat → Nat × Word) : Group :=
  let r := rndOf i.cur.hints
  i.fout x (t == .f64) (fun L => t.pack (List.zipWith (op t.fmt)
    (i.fsrc t x.a r.na L) (i.fsrc t x.b r.nb L)))

/-- An elementwise result of type t from one operand. -/
def Iss.felem1 (i : Iss) (x : RF) (t : FTy) (op : FFmt → Nat → Nat × Word) : Group :=
  let r := rndOf i.cur.hints
  i.fout x (t == .f64) (fun L => t.pack ((i.fsrc t x.a r.na L).map (op t.fmt)))

/-- An elementwise result of type t from two operands and the addend. -/
def Iss.felem3 (i : Iss) (x : RF) (t : FTy) (op : FFmt → Nat → Nat → Nat → Nat × Word) : Group :=
  let r := rndOf i.cur.hints
  i.fout x (t == .f64) (fun L => t.pack (List.zipWith (fun f c => f c)
    (List.zipWith (op t.fmt) (i.fsrc t x.a r.na L) (i.fsrc t x.b r.nb L))
    (i.fsrc t (i.addend x) r.nc L)))

end Sys2Proof.Machine
end

