-- ==== Sys2Proof/Machine/Fp.lean ====
section
/-! DEFINITION. Floating-point instructions and conversions, 0x40 to 0x7F (08 R153 to R178). -/

namespace Sys2Proof.Machine

open Sys2Proof

/-- How an instruction of 0x40 to 0x7F issues (R154, R155). -/
def issueF (sig : OpSig) (x : RF) (rnd : BitVec 24 → Bool) : Issue :=
  { sig := sig, acc := { xrnd := rnd }, f := some (x.f == 1), hold := sig.hold x.h }

/-- The same with a third source through `XSRC`, after which d is written only (R155, R158). -/
def issueF3 (sig : OpSig) (w : Nat) (x : RF) (i : Iss) : Issue :=
  { sig := { sig with dSrc := (hintSrc3 i.cur.hints).isNone },
    acc := { xrnd := rndOk true false true true true, sv := true }, f := some (x.f == 1),
    hold := sig.hold x.h, w3 := w }

def fpu (sig : OpSig) (x : RF) (rnd : BitVec 24 → Bool) (s : State) (f : Iss → Group) : Out :=
  s.regs (fun _ => issueF sig x rnd) f

def widthOf (t : FTy) : Nat := if t == .f64 then 2 else 1

/-- The rounding of an exact value, with the exceptions that formed it. -/
def roundWith (f : FFmt) (mode : RMode) (v : FVal × Word) : Nat × Word :=
  let (b, fl) := f.round mode v.1
  (b, fl ||| v.2)

/-- FADD, FSUB and FMUL (R157): `op` gives the exact result. -/
def arith (t : FTy) (x : RF) (s : State) (op : RMode → FVal → FVal → FVal × Word) : Out :=
  fpu (sgFp3 (widthOf t) x) x (rndOk true false true true false) s (fun i =>
    let r := rndOf i.cur.hints
    i.felem2 x t (fun f a b => roundWith f r.rm (op r.rm (f.decode a) (f.decode b))))

def opAdd (m : RMode) (a b : FVal) : FVal × Word := a.add m b
def opSub (m : RMode) (a b : FVal) : FVal × Word := a.add m b.neg
def opMul (_ : RMode) (a b : FVal) : FVal × Word := a.mul b
def opDiv (_ : RMode) (a b : FVal) : FVal × Word := a.div b

/-- FADD.f64 (R157). -/
def execFaddF64 (x : RF) (s : State) : Out := arith .f64 x s opAdd
/-- FADD.f32 (R157). -/
def execFaddF32 (x : RF) (s : State) : Out := arith .f32 x s opAdd
/-- FADD.h2 (R157). -/
def execFaddH2 (x : RF) (s : State) : Out := arith .h2 x s opAdd
/-- FADD.bh2 (R157). -/
def execFaddBh2 (x : RF) (s : State) : Out := arith .bh2 x s opAdd
/-- FSUB.f64 (R157). -/
def execFsubF64 (x : RF) (s : State) : Out := arith .f64 x s opSub
/-- FSUB.f32 (R157). -/
def execFsubF32 (x : RF) (s : State) : Out := arith .f32 x s opSub
/-- FSUB.h2 (R157). -/
def execFsubH2 (x : RF) (s : State) : Out := arith .h2 x s opSub
/-- FSUB.bh2 (R157). -/
def execFsubBh2 (x : RF) (s : State) : Out := arith .bh2 x s opSub
/-- FMUL.f64 (R157). -/
def execFmulF64 (x : RF) (s : State) : Out := arith .f64 x s opMul
/-- FMUL.f32 (R157). -/
def execFmulF32 (x : RF) (s : State) : Out := arith .f32 x s opMul
/-- FMUL.h2 (R157). -/
def execFmulH2 (x : RF) (s : State) : Out := arith .h2 x s opMul
/-- FMUL.bh2 (R157). -/
def execFmulBh2 (x : RF) (s : State) : Out := arith .bh2 x s opMul

/-- The product unrounded, plus the addend (R158). -/
def opFma (m : RMode) (a b c : FVal) : FVal × Word :=
  let (p, f) := a.mul b
  let (r, g) := p.add m c
  (r, f ||| g)

/-- FFMA (R158). -/
def fma (t : FTy) (x : RF) (s : State) : Out :=
  s.regs (issueF3 (sgFma (widthOf t) x) (widthOf t) x) (fun i =>
    let r := rndOf i.cur.hints
    i.felem3 x t (fun f a b c =>
      roundWith f r.rm (opFma r.rm (f.decode a) (f.decode b) (f.decode c))))

/-- FFMA.f64 (R158). -/
def execFfmaF64 (x : RF) (s : State) : Out := fma .f64 x s
/-- FFMA.f32 (R158). -/
def execFfmaF32 (x : RF) (s : State) : Out := fma .f32 x s
/-- FFMA.h2 (R158). -/
def execFfmaH2 (x : RF) (s : State) : Out := fma .h2 x s
/-- FFMA.bh2 (R158). -/
def execFfmaBh2 (x : RF) (s : State) : Out := fma .bh2 x s

/-- The minimum and maximum families (R159). -/
def minMax (isMax num : Bool) (t : FTy) (x : RF) (s : State) : Out :=
  fpu (sgFp3 (widthOf t) x) x (rndOk false false true true false) s (fun i =>
    i.felem2 x t (fun f a b => f.minmax isMax num a b))

/-- FMIN.f64 (R159). -/
def execFminF64 (x : RF) (s : State) : Out := minMax false false .f64 x s
/-- FMIN.f32 (R159). -/
def execFminF32 (x : RF) (s : State) : Out := minMax false false .f32 x s
/-- FMIN.h2 (R159). -/
def execFminH2 (x : RF) (s : State) : Out := minMax false false .h2 x s
/-- FMIN.bh2 (R159). -/
def execFminBh2 (x : RF) (s : State) : Out := minMax false false .bh2 x s
/-- FMAX.f64 (R159). -/
def execFmaxF64 (x : RF) (s : State) : Out := minMax true false .f64 x s
/-- FMAX.f32 (R159). -/
def execFmaxF32 (x : RF) (s : State) : Out := minMax true false .f32 x s
/-- FMAX.h2 (R159). -/
def execFmaxH2 (x : RF) (s : State) : Out := minMax true false .h2 x s
/-- FMAX.bh2 (R159). -/
def execFmaxBh2 (x : RF) (s : State) : Out := minMax true false .bh2 x s
/-- FMINN.f64 (R159). -/
def execFminnF64 (x : RF) (s : State) : Out := minMax false true .f64 x s
/-- FMINN.f32 (R159). -/
def execFminnF32 (x : RF) (s : State) : Out := minMax false true .f32 x s
/-- FMINN.h2 (R159). -/
def execFminnH2 (x : RF) (s : State) : Out := minMax false true .h2 x s
/-- FMINN.bh2 (R159). -/
def execFminnBh2 (x : RF) (s : State) : Out := minMax false true .bh2 x s
/-- FMAXN.f64 (R159). -/
def execFmaxnF64 (x : RF) (s : State) : Out := minMax true true .f64 x s
/-- FMAXN.f32 (R159). -/
def execFmaxnF32 (x : RF) (s : State) : Out := minMax true true .f32 x s
/-- FMAXN.h2 (R159). -/
def execFmaxnH2 (x : RF) (s : State) : Out := minMax true true .h2 x s
/-- FMAXN.bh2 (R159). -/
def execFmaxnBh2 (x : RF) (s : State) : Out := minMax true true .bh2 x s

/-- FCMP (R160): element 0 writes k p, element 1 of the 16-bit types k p + 1. -/
def fcmp (t : FTy) (x : RF) (s : State) : Out :=
  let two := t == .h2 || t == .bh2
  fpu (sgCmp (widthOf t) x (predOk x.d && !(two && x.d.toNat % 8 == 7))) x
    (rndOk false false true true false) s (fun i =>
      let r := rndOf i.cur.hints
      let p := x.d.toNat % 8
      let m := i.part x.g
      let cmp := fun (L : Nat) => List.zipWith
        (fun a b => condF (x.d.toNat / 8) (t.fmt.decode a) (t.fmt.decode b))
        (i.fsrc t x.a r.na L) (i.fsrc t x.b r.nb L)
      let g := i.g.setPred p m (fun L => ((cmp L).headD (false, 0)).1)
      let g := if two then g.setPred (p + 1) m (fun L => (((cmp L).drop 1).headD (false, 0)).1) else g
      g.orFlags r m (fun L => (cmp L).foldl (fun f c => f ||| c.2) 0))

/-- FCMP.f64 (R160). -/
def execFcmpF64 (x : RF) (s : State) : Out := fcmp .f64 x s
/-- FCMP.f32 (R160). -/
def execFcmpF32 (x : RF) (s : State) : Out := fcmp .f32 x s
/-- FCMP.h2 (R160). -/
def execFcmpH2 (x : RF) (s : State) : Out := fcmp .h2 x s
/-- FCMP.bh2 (R160). -/
def execFcmpBh2 (x : RF) (s : State) : Out := fcmp .bh2 x s

/-- An instruction whose type stands in b, on one operand (R161, R164). -/
def typed (x : RF) (ok : Bool) (rnd : BitVec 24 → Bool) (s : State)
    (op : FFmt → Nat → Nat × Word) : Out :=
  fpu (sgFp2T x (typeW x.b) ok) x rnd s (fun i => i.felem1 x (fTyOf x.b.toNat) op)

def noRnd : BitVec 24 → Bool := fun _ => false

/-- FABS (R161). -/
def execFabs (x : RF) (s : State) : Out := typed x (x.b.toNat < 4) noRnd s (fun f a =>
  (if (f.decode a).isNan then f.nan else if f.isNeg a then f.flip a else a, 0))
/-- FNEG (R161). -/
def execFneg (x : RF) (s : State) : Out := typed x (x.b.toNat < 4) noRnd s (fun f a =>
  (if (f.decode a).isNan then f.nan else f.flip a, 0))

/-- FCPYS (R162). -/
def copySign (t : FTy) (x : RF) (s : State) : Out :=
  fpu (sgFp3 (widthOf t) x) x noRnd s (fun i => i.felem2 x t (fun f a b =>
    (if (f.decode a).isNan then f.nan else if f.isNeg a == f.isNeg b then a else f.flip a, 0)))

/-- FCPYS.f32 (R162). -/
def execFcpysF32 (x : RF) (s : State) : Out := copySign .f32 x s
/-- FCPYS.f64 (R162). -/
def execFcpysF64 (x : RF) (s : State) : Out := copySign .f64 x s

/-- FCLASS (R163): a single register, whatever the type. -/
def execFclass (x : RF) (s : State) : Out := fpu (sgFclass x) x noRnd s (fun i =>
  let t := fTyOf x.b.toNat
  i.fout x false (fun L =>
    (match (i.fsrc t x.a false L).map t.fmt.cls with
      | [e] => BitVec.ofNat 64 e
      | e :: k :: _ => BitVec.ofNat 64 (e + 2 ^ 16 * k)
      | [] => 0, 0)))

/-- FRND (R164). -/
def execFrnd (x : RF) (s : State) : Out :=
  typed x (x.b.toNat < 32) (rndOk false false true false false) s (fun f a =>
    let mode : RMode := match x.b.toNat / 4 % 4 with | 0 => .rne | 1 => .rtz | 2 => .rup | _ => .rdn
    let v := f.decode a
    let (r, ix) := v.integral mode
    ((f.round .rne r).1, v.sigIV ||| (if ix && x.b.getLsbD 4 then fNX else 0)))

/-- FDIV.f32 (R165). -/
def execFdivF32 (x : RF) (s : State) : Out := arith .f32 x s opDiv
/-- FDIV.f64 (R165). -/
def execFdivF64 (x : RF) (s : State) : Out := arith .f64 x s opDiv

/-- FSQRT (R165). -/
def root (t : FTy) (x : RF) (s : State) : Out :=
  fpu (sgFp2 (widthOf t) x) x (rndOk true false true false false) s (fun i =>
    i.felem1 x t (fun f a => roundWith f (rndOf i.cur.hints).rm (f.decode a).sqrt))

/-- FSQRT.f32 (R165). -/
def execFsqrtF32 (x : RF) (s : State) : Out := root .f32 x s
/-- FSQRT.f64 (R165). -/
def execFsqrtF64 (x : RF) (s : State) : Out := root .f64 x s

/-- FP32 patterns that the approximations deliver (R166, R167). -/
def w32Nan : Word := 0x7FC00000
def w32Inf (neg : Bool) : Word := if neg then 0xFF800000 else 0x7F800000
def w32Zero (neg : Bool) : Word := if neg then 0x80000000 else 0
/-- 2^k as FP32, exact for k in -149 to 127. -/
def w32Pow (neg : Bool) (k : Int) : Word := wd (fp32.round .rne (.fin neg 1 k)).1

/-- Whether m is a power of two. -/
def pow2 (m : Nat) : Bool := m == 2 ^ m.log2

/-- FRCP of a pattern (R166, R167). -/
def rcp (a : Word) : Word × Word :=
  match fp32.decode a.toNat with
  | .nan s => (w32Nan, if s then fIV else 0)
  | .inf n => (w32Zero n, 0)
  | .fin n m e =>
    if m == 0 then (w32Inf n, fDZ)
    else
      let k := topExp m e
      if k < -128 || (k == -128 && pow2 m) then (w32Inf n, fOF ||| fNX)
      else if pow2 m && k ≤ 126 then (w32Pow n (-k), 0)
      else
        let y := fxRcp n m e
        (fxPick (Config.approx 0x6E a) y (fxUlp y), if pow2 m then 0 else (fxRound y).2)

/-- FRSQ of a pattern (R166, R167). -/
def rsq (a : Word) : Word × Word :=
  match fp32.decode a.toNat with
  | .nan s => (w32Nan, if s then fIV else 0)
  | .inf n => if n then (w32Nan, fIV) else (0, 0)
  | .fin n m e =>
    if m == 0 then (w32Inf n, fDZ)
    else if n then (w32Nan, fIV)
    else
      let k := topExp m e
      if pow2 m && k % 2 == 0 then (w32Pow false (-(k / 2)), 0)
      else
        let y := fxRsq m e
        (fxPick (Config.approx 0x6F a) y (fxUlp y), (fxRound y).2)

/-- FEX2 of a pattern (R166, R167). -/
def ex2 (a : Word) : Word × Word :=
  match fp32.decode a.toNat with
  | .nan s => (w32Nan, if s then fIV else 0)
  | .inf n => (if n then 0 else w32Inf false, 0)
  | .fin n m e =>
    let k := topExp m e
    let big := m != 0 && 9 ≤ k
    let v := if big then 0 else toFx n m e
    let one : Int := 2 ^ fxBits
    if (big && !n) || 128 * one ≤ v then (w32Inf false, fOF ||| fNX)
    else if big || v ≤ -150 * one then (0, fUF ||| fNX)
    else if v % one == 0 then (w32Pow false (v / one), 0)
    else
      let y := fxExp2 v
      (fxPick (Config.approx 0x70 a) y
        (if v < -126 * one then 2 ^ (fxBits - 148) else 2 * fxUlp y), (fxRound y).2)

/-- FLG2 of a pattern (R166, R167). -/
def lg2 (a : Word) : Word × Word :=
  match fp32.decode a.toNat with
  | .nan s => (w32Nan, if s then fIV else 0)
  | .inf n => if n then (w32Nan, fIV) else (w32Inf false, 0)
  | .fin n m e =>
    if m == 0 then (w32Inf true, fDZ)
    else if n then (w32Nan, fIV)
    else
      let k := topExp m e
      if pow2 m then (wd (fp32.round .rne (FVal.ofInt k)).1, 0)
      else
        let y := fxLog2 m e
        (fxPick (Config.approx 0x71 a) y
          (if k == 0 || k == -1 then 2 ^ (fxBits - 22) else 2 * fxUlp y), (fxRound y).2)

/-- FSIN and FCOS of a pattern (R166, R167); beyond 32768 any value in [-1, 1]. -/
def trig (op c : Nat) (a : Word) : Word × Word :=
  match fp32.decode a.toNat with
  | .nan s => (w32Nan, if s then fIV else 0)
  | .inf _ => (w32Nan, fIV)
  | .fin n m e =>
    if m == 0 then (if c == 0 then w32Zero n else 0x3F800000, 0)
    else
      let v := toFx n m e
      let y := fxInside (if c == 0 then v else 2 ^ fxBits) (fxSin c v)
      let r := Config.approx op a
      let one : Int := 2 ^ fxBits
      if 32768 * one < (v.natAbs : Int) then
        let y := fxInside one y
        (match fp32.decode r.toNat with
          | .fin _ k g => if ((toFx false k g).natAbs : Int) ≤ one then r else wd (fxRound y).1
          | _ => wd (fxRound y).1, (fxRound y).2)
      else (fxPick r y (if 4 * v.natAbs ≤ fxPi then 2 * fxUlp y else 2 ^ (fxBits - 22)), (fxRound y).2)

/-- An approximation (R166). -/
def approximate (x : RF) (s : State) (op : Word → Word × Word) : Out :=
  fpu (sgFp2 1 x) x (rndOk false false true false false) s (fun i =>
    i.felem1 x .f32 (fun _ a => let (r, f) := op (wd a); (r.toNat, f)))

/-- FRCP.f32 (R166, R167). -/
def execFrcpF32 (x : RF) (s : State) : Out := approximate x s rcp
/-- FRSQ.f32 (R166, R167). -/
def execFrsqF32 (x : RF) (s : State) : Out := approximate x s rsq
/-- FEX2.f32 (R166, R167). -/
def execFex2F32 (x : RF) (s : State) : Out := approximate x s ex2
/-- FLG2.f32 (R166, R167). -/
def execFlg2F32 (x : RF) (s : State) : Out := approximate x s lg2
/-- FSIN.f32 (R166, R167). -/
def execFsinF32 (x : RF) (s : State) : Out := approximate x s (trig 0x72 0)
/-- FCOS.f32 (R166, R167). -/
def execFcosF32 (x : RF) (s : State) : Out := approximate x s (trig 0x73 1)

/-- FLDX (R168): B is one signed word in both forms. -/
def ldexp (t : FTy) (x : RF) (s : State) : Out :=
  fpu (sgFldx (widthOf t) x) x (rndOk true false true false false) s (fun i =>
    let r := rndOf i.cur.hints
    i.fout x (t == .f64) (fun L => t.pack ((i.fsrc t x.a r.na L).map (fun a =>
      let v := t.fmt.decode a
      roundWith t.fmt r.rm (v.scale (i.g.src x.b L).toInt, v.sigIV)))))

/-- FLDX.f32 (R168). -/
def execFldxF32 (x : RF) (s : State) : Out := ldexp .f32 x s
/-- FLDX.f64 (R168). -/
def execFldxF64 (x : RF) (s : State) : Out := ldexp .f64 x s

/-- The fraction of A (R169). -/
def fracOf (f : FFmt) (a : Nat) : Nat × Word :=
  let v := f.decode a
  match v with
  | .fin n m _ => if m == 0 then (a, 0) else ((f.round .rne (.fin n m (-(m.log2 : Int) - 1))).1, 0)
  | .inf _ => (a, 0)
  | .nan _ => (f.nan, v.sigIV)

/-- The exponent of A (R169). -/
def expOf (f : FFmt) (a : Nat) : DWord × Word :=
  let v := f.decode a
  match v with
  | .fin _ m e => (if m == 0 then 0 else BitVec.ofInt 64 (topExp m e + 1), 0)
  | _ => (0x80000000, v.sigIV)

/-- FFRX.frac (R169). -/
def splitFrac (t : FTy) (x : RF) (s : State) : Out :=
  fpu (sgFfrx (widthOf t) (widthOf t) x (x.b == 0)) x noRnd s (fun i => i.felem1 x t fracOf)
/-- FFRX.exp (R169): a single register. -/
def splitExp (t : FTy) (x : RF) (s : State) : Out :=
  fpu (sgFfrx 1 (widthOf t) x (x.b == 1)) x noRnd s (fun i =>
    i.fout x false (fun L => expOf t.fmt ((i.fsrc t x.a false L).headD 0)))

/-- FFRX.f32.frac (R169). -/
def execFfrxF32Frac (x : RF) (s : State) : Out := splitFrac .f32 x s
/-- FFRX.f32.exp (R169). -/
def execFfrxF32Exp (x : RF) (s : State) : Out := splitExp .f32 x s
/-- FFRX.f64.frac (R169). -/
def execFfrxF64Frac (x : RF) (s : State) : Out := splitFrac .f64 x s
/-- FFRX.f64.exp (R169). -/
def execFfrxF64Exp (x : RF) (s : State) : Out := splitExp .f64 x s

/-- The float of a conversion's source: type code, half (R170). -/
def Iss.cvtSrc (i : Iss) (t : Nat) (half : Bool) (v : BitVec 6) (neg : Bool) (L : Nat) : FVal :=
  let ty := fTyOf t
  ty.fmt.decode ((i.fsrc ty v neg L).getD (if half then 1 else 0) 0)

/-- The 16 bits of a half put into D, the other half kept (R171). -/
def putHalf (d : Word) (half : Bool) (b : Nat) : Word :=
  if half then (d &&& 0xFFFF) ||| (wd b <<< 16) else (d &&& 0xFFFF0000) ||| wd b

/-- Writes a conversion's float result (R170, R171). -/
def Iss.cvtOut (i : Iss) (x : RF) (dt : Nat) (half : Bool) (f : Nat → Nat × Word) : Group :=
  i.fout x (dt == 0) (fun L =>
    let (b, fl) := f L
    (if 2 ≤ dt then (putHalf (i.g.src x.d L) half b).setWidth 64 else BitVec.ofNat 64 b, fl))

/-- CVTFF (R170 to R172). -/
def execCvtff (x : RF) (s : State) : Out :=
  fpu (sgCvtff x) x (rndOk true false true false false) s (fun i =>
    let r := rndOf i.cur.hints
    let dt := x.b.toNat % 4
    i.cvtOut x dt (x.b.getLsbD 5) (fun L =>
      let v := i.cvtSrc (x.b.toNat / 4 % 4) (x.b.getLsbD 4) x.a r.na L
      roundWith (fTyOf dt).fmt r.rm (v, v.sigIV)))

/-- CVTFI (R170, R173). -/
def execCvtfi (x : RF) (s : State) : Out :=
  fpu (sgCvtfi x) x (rndOk true false true false false) s (fun i =>
    let r := rndOf i.cur.hints
    let it := x.b.toNat / 4 % 4
    i.fout x (2 ≤ it) (fun L =>
      let v := i.cvtSrc (x.b.toNat % 4) (x.b.getLsbD 4) x.a r.na L
      let (n, f) := v.toInt (iTyOf it) r.rm
      (BitVec.ofInt 64 n, f)))

/-- The integer that a conversion reads (R170). -/
def Iss.intSrc (i : Iss) (t : Nat) (v : BitVec 6) (L : Nat) : Int :=
  match t with
  | 0 => (i.g.src v L).toInt
  | 1 => (i.g.src v L).toNat
  | 2 => (i.g.src64 v L).toInt
  | _ => (i.g.src64 v L).toNat

/-- CVTIF (R170, R171, R174). -/
def execCvtif (x : RF) (s : State) : Out :=
  fpu (sgCvtif x) x (rndOk true false false false false) s (fun i =>
    let dt := x.b.toNat % 4
    i.cvtOut x dt (x.b.getLsbD 4) (fun L =>
      (fTyOf dt).fmt.round (rndOf i.cur.hints).rm
        (FVal.ofInt (i.intSrc (x.b.toNat / 4 % 4) x.a L))))

/-- CLS of `XSRC`, where CV is set (R76). -/
def hintCls (h : Hints) : Option Nat :=
  match h.xsrc with
  | some p => if p.getLsbD 12 then some (bitsN p.toNat 11 8) else none
  | none => none

/-- The CLS values that `PK8` and `UNPK8` accept (R175, R176). -/
def clsOk (h : Hints) : Bool :=
  match hintCls h with | none => true | some c => c == 1 || c == 2

/-- The format that CLS names, FP32 without it (R175, R176). -/
def clsFmt (h : Hints) : FFmt :=
  match hintCls h with | some 1 => fp16 | some 2 => bf16 | _ => fp32

/-- A word with byte j replaced. -/
def putByte (d : Word) (j c : Nat) : Word :=
  (d &&& ~~~((0xFF : Word) <<< (8 * j))) ||| (wd (c % 256) <<< (8 * j))

/-- A packing or unpacking whose format byte is checked in every lane of `Part` before any write
(R175 to R177). -/
def pack8 (sig : OpSig) (x : RF) (cv na ovf : Bool) (ok : Nat → Bool) (s : State)
    (f : Iss → Nat → Word × Word) : Out :=
  s.issue (fun i => { issueF sig x (rndOk true ovf na false false) with
      acc := { xrnd := rndOk true ovf na false false, cv := cv,
               xsrc := !cv || clsOk i.cur.hints } })
    (fun i =>
      if (lanesOf (i.part x.g)).any (fun L => !ok ((i.g.src x.b L).toNat % 256)) then
        trapOp cIllegalOperand .b
      else .done (s.putGroup i.r.gref (i.fout x false (fun L =>
        let (w, fl) := f i L; (w.setWidth 64, fl)))))

/-- PK8 (R175). -/
def execPk8 (x : RF) (s : State) : Out :=
  pack8 (sgFpD x) x true true true (fun n => (b8Of n).isSome) s (fun i L =>
    let r := rndOf i.cur.hints
    let b := (i.g.src x.b L).toNat
    let fmt := clsFmt i.cur.hints
    let a := (i.g.src x.a L).toNat % 2 ^ fmt.w
    match b8Of (b % 256) with
    | some f =>
      let (c, fl) := f.convert r.rm r.om (fmt.decode (if r.na then fmt.flip a else a))
      (putByte (i.g.src x.d L) (bitsN b 9 8) c, fl)
    | none => (i.g.src x.d L, 0))

/-- UNPK8 (R176): a binary8 byte, or INT8 under 0x03 and 0x04. -/
def execUnpk8 (x : RF) (s : State) : Out :=
  pack8 (sgFp3 1 x) x true false false (fun n => (b8Of n).isSome || n == 3 || n == 4) s (fun i L =>
    let b := (i.g.src x.b L).toNat
    let c := (i.g.src x.a L).toNat / 2 ^ (8 * bitsN b 9 8) % 256
    let v := match b8Of (b % 256) with
      | some f => f.decode c
      | none => FVal.ofInt (if b % 256 == 3 && 128 ≤ c then (c : Int) - 256 else c)
    let (w, fl) := (clsFmt i.cur.hints).round (rndOf i.cur.hints).rm v
    (wd w, fl))

/-- PKBS (R177): E = 0xFF writes the NaN code and raises nothing. -/
def execPkbs (x : RF) (s : State) : Out :=
  pack8 (sgFpD x) x false true true (fun n => (b8Of n).isSome) s (fun i L =>
    let r := rndOf i.cur.hints
    let b := (i.g.src x.b L).toNat
    let e := bitsN b 15 8
    let a := (i.g.src x.a L).toNat
    match b8Of (b % 256) with
    | some f =>
      let v := (fp32.decode (if r.na then fp32.flip a else a)).scale (127 - (e : Int))
      let (c, fl) := if e == 0xFF then (f.nan, 0) else f.convert r.rm r.om v
      (putByte (i.g.src x.d L) (bitsN b 17 16) c, fl)
    | none => (i.g.src x.d L, 0))

/-- A finite value that is zero, with its sign. -/
def FVal.zero? : FVal → Option Bool
  | .fin n 0 _ => some n
  | _ => none

/-- a0 b0 + a1 b1 + c, exact, with its invalid flag: a product 0 × ∞, a signalling NaN, or infinite terms of
opposite signs, whatever the other term is; an exact zero by R178. -/
def dot2 (m : RMode) (a0 b0 a1 b1 c : FVal) : FVal × Word :=
  let (p, f) := a0.mul b0
  let (q, g) := a1.mul b1
  let (t, _) := p.add .rne q
  let (u, _) := t.add .rne c
  let opposed := [p, q, c].contains (.inf false) && [p, q, c].contains (.inf true)
  let fl := f ||| g ||| c.sigIV ||| (if opposed then fIV else 0)
  match u.zero? with
  | some _ =>
    let allNeg := p.zero? == some true && q.zero? == some true && c.zero? == some true
    (.fin (m == .rdn || allNeg) 0 0, fl)
  | none => (u, fl)

/-- FDOT2 (R178). -/
def fdot2 (t : FTy) (x : RF) (s : State) : Out :=
  s.regs (issueF3 (sgFma 1 x) 1 x) (fun i =>
    let r := rndOf i.cur.hints
    i.fout x false (fun L =>
      let a := (i.fsrc t x.a r.na L).map t.fmt.decode
      let b := (i.fsrc t x.b r.nb L).map t.fmt.decode
      let c := fp32.decode ((i.fsrc .f32 (i.addend x) r.nc L).headD 0)
      let z : FVal := .fin false 0 0
      let (w, fl) := roundWith fp32 r.rm
        (dot2 r.rm (a.headD z) (b.headD z) (a.getD 1 z) (b.getD 1 z) c)
      (BitVec.ofNat 64 w, fl)))

/-- FDOT2.h2 (R178). -/
def execFdot2H2 (x : RF) (s : State) : Out := fdot2 .h2 x s
/-- FDOT2.bh2 (R178). -/
def execFdot2Bh2 (x : RF) (s : State) : Out := fdot2 .bh2 x s

end Sys2Proof.Machine
end

