-- ==== Sys2Proof/Machine/Lanes.lean ====
section
/-! DEFINITION. Cross-lane instructions, 0x80 to 0x8A (07 R146 to R151). -/

namespace Sys2Proof.Machine

open Sys2Proof

/-- The kinds of SHFL (R147). -/
inductive Shuffle where
  | idx | up | down | xor
  deriving DecidableEq, Repr

/-- Whether a selector's segment code is allowed (R147). -/
def segOk (n : Word) : Bool := bitsW n 7 5 ≤ 5

/-- The source lane of a lane (R147). -/
def shflLane (k : Shuffle) (n : Word) (L : Nat) : Nat :=
  let w := bitsW n 7 5
  let size := if w == 0 then 32 else 2 ^ w
  let base := L - L % size
  let p := L % size
  let q := bitsW n 4 0 % size
  match k with
  | .idx => base + q
  | .up => base + (p + size - q) % size
  | .down => base + (p + q) % size
  | .xor => base + (p ^^^ q)

/-- The lanes that the lanes of `Part` read; a reserved segment code reads none (R146, R147). -/
def Iss.shflReads (i : Iss) (x : RF) (k : Shuffle) : Mask :=
  maskOf (fun j => (lanesOf (i.part x.g)).any (fun L =>
    segOk (i.g.src x.b L) && shflLane k (i.g.src x.b L) L == j))

/-- A shuffle (R147): the selectors are checked before any write. -/
def shfl (k : Shuffle) (x : RF) (s : State) : Out :=
  s.issue (fun i => { issueR (sgShfl x) x with aMask := some (i.shflReads x k) }) (fun i =>
    if (lanesOf (i.part x.g)).any (fun L => !segOk (i.g.src x.b L)) then trapOp cIllegalOperand .b
    else .done (s.putGroup i.r.gref
      (i.g.vSet x.d.toNat (i.part x.g) (fun L => i.g.vGet x.a.toNat (shflLane k (i.g.src x.b L) L)))))

/-- SHFL.idx (R147). -/
def execShflIdx (x : RF) (s : State) : Out := shfl .idx x s
/-- SHFL.up (R147). -/
def execShflUp (x : RF) (s : State) : Out := shfl .up x s
/-- SHFL.down (R147). -/
def execShflDown (x : RF) (s : State) : Out := shfl .down x s
/-- SHFL.xor (R147). -/
def execShflXor (x : RF) (s : State) : Out := shfl .xor x s

/-- The voters of a VOTE or the contributors of a REDUX: the lanes of `Part` in which the filter holds
(R148, R149). -/
def Iss.voters (i : Iss) (x : RF) (filter : Nat) : Mask := i.part x.g &&& i.g.kGet filter

/-- The voters whose source predicate, negated or not, holds (R148). -/
def Iss.yes (i : Iss) (x : RF) : Mask :=
  let k := i.g.kGet (x.a.toNat % 8)
  i.voters x (x.b.toNat % 8) &&& (if x.a.getLsbD 3 then ~~~k else k)

/-- A vote that writes one bit in every lane of `Part` (R148). -/
def vote (x : RF) (s : State) (r : Mask → Mask → Bool) : Out :=
  aluR (sgPred x (predOnly x.d) (voteSrc x.a) (voteFilter x.b)) x s (fun i =>
    i.g.setPred (x.d.toNat % 8) (i.part x.g) (fun _ => r (i.yes x) (i.voters x (x.b.toNat % 8))))

/-- VOTE.all (R148). -/
def execVoteAll (x : RF) (s : State) : Out := vote x s (fun p v => p == v)
/-- VOTE.any (R148). -/
def execVoteAny (x : RF) (s : State) : Out := vote x s (fun p _ => p != 0)
/-- VOTE.eq (R148). -/
def execVoteEq (x : RF) (s : State) : Out := vote x s (fun p v => p == v || p == 0)
/-- VOTE.ballot (R148). -/
def execVoteBallot (x : RF) (s : State) : Out :=
  s.regs (fun _ => { issueR (sgPred x (isS x.d) (voteSrc x.a) (voteFilter x.b)) x with
      sd := [sNum x.d] })
    (fun i => i.g.sSet (sNum x.d) (i.yes x))

/-- The identity and the operation of each kind of REDUX (R149). -/
def reduxId (k : Nat) : Word :=
  match k with
  | 1 => 0x7FFFFFFF
  | 2 => 0x80000000
  | 3 => 0xFFFFFFFF
  | 5 => 0xFFFFFFFF
  | _ => 0
def reduxOp (k : Nat) (a b : Word) : Word :=
  match k with
  | 0 => a + b
  | 1 => minS a b
  | 2 => maxS a b
  | 3 => minN a b
  | 4 => maxN a b
  | 5 => a &&& b
  | 6 => a ||| b
  | _ => a ^^^ b

/-- REDUX (R149): source a is read from the contributors. -/
def execRedux (x : RF) (s : State) : Out :=
  s.regs (fun i => { issueR (sgRedux x) x with aMask := some (i.voters x (x.b.toNat / 8)) }) (fun i =>
  let k := x.b.toNat % 8
  i.g.sSet (sNum x.d) ((lanesOf (i.voters x (x.b.toNat / 8))).foldl
    (fun acc L => reduxOp k acc (i.g.src x.a L)) (reduxId k)))

/-- The lanes of `Part` whose value equals that of lane L (R150). -/
def Iss.equals (i : Iss) (x : RF) (L : Nat) : Mask :=
  i.part x.g &&& maskOf (fun M => i.g.vGet x.a.toNat M == i.g.vGet x.a.toNat L)

/-- How a MATCH issues: source a is read from `Part` (R146, R150). -/
def Iss.matches (i : Iss) (x : RF) (ok : Bool) : Issue :=
  { issueR (sgMatch x ok) x with aMask := some (i.part x.g) }

/-- MATCH (R150). -/
def execMatch (x : RF) (s : State) : Out := s.regs (fun i => i.matches x (x.b == 0)) (fun i =>
  i.g.vSet x.d.toNat (i.part x.g) (fun L => i.equals x L))
/-- MATCH.lead (R150): the leader in [4:0], the count in [10:5]. -/
def execMatchLead (x : RF) (s : State) : Out := s.regs (fun i => i.matches x (x.b == 1)) (fun i =>
  i.g.vSet x.d.toNat (i.part x.g)
    (fun L => wd (lowLane (i.equals x L) + 32 * countLanes (i.equals x L))))

/-- LANEB (R151): FE is checked in the lane read alone. -/
def execLaneb (x : RF) (s : State) : Out :=
  let j := fun (i : Iss) => bitsW (i.g.sGet (sNum x.b)) 4 0
  s.regs (fun i => { issueR (sgLaneb x) x with aMask := some (maskOf (fun L => L == j i)) })
    (fun i => i.g.sSet (sNum x.d) (i.g.vGet x.a.toNat (j i)))

end Sys2Proof.Machine
end

