-- ==== Sys2Proof/Machine/Mem.lean ====
section
/-! DEFINITION. Loads, stores, prefetch, range maintenance and atomics, 0xA0 to 0xBF (12 R228 to R246). -/

namespace Sys2Proof.Machine

open Sys2Proof

/-- How a memory instruction issues (R246). -/
def issueM (sig : OpSig) (rnd : BitVec 24 → Bool := fun _ => false) : Issue :=
  { sig := sig, acc := { ximm := true, ft := true, xrnd := rnd }, dOp := .d, mem := true }

/-- The displacement of an `XIMM` word (R75). -/
def disp (h : Hints) : Int := match h.ximm with | some p => p.toInt | none => 0

/-- The lanes that a memory instruction acts for: one on the scalar pipe (R65, R231). -/
def Iss.memLanes (i : Iss) (sig : OpSig) (g3 : BitVec 3) : List Nat :=
  if sig.scalar then [0] else lanesOf (i.part g3)

/-- The offset of each lane (R228). -/
def Iss.offsets (i : Iss) (sig : OpSig) (x : MF) : List (Nat × Int) :=
  (i.memLanes sig x.g).map (fun L => (L, (i.g.src x.a L).toInt + disp i.cur.hints))

/-- The binding of an x register is made again where it waits for its first access (R227): its handle's SPACE is then
known (R237). -/
def State.bound (s : State) (i : Iss) (x : MF) (k : AccKind) : State := (s.rebind i.r.gref x.x.toNat k).2

/-- The space of the binding that an x field names, or that the stash there was made from (R226, R237, R255). -/
def State.spaceOf (s : State) (r : GRef) (x : Nat) : Nat :=
  match ((s.group? r).map (fun g => g.x.getD x .unbound)).getD .unbound with
  | .handle h => h.attr.space
  | .stash id => ((s.stash? r.blk id).map (·.attr.space)).getD 0
  | _ => 0

/-- The kind and scope that the fields of an instruction give its access (R69). -/
def orderOf (x : MF) (amo : Bool) : AOrd :=
  let k : OKind := match x.o.toNat with
    | 0 => .weak
    | 1 => .rlx
    | 2 => .acq
    | _ => if amo && x.i == 1 then .ar else .rel
  if k == .weak then AOrd.weak else ⟨k, x.sc.toNat⟩

/-- The kind and scope of the access of a unit, in a state in which its binding has been made (R227): a strong access to
the host or another device is at system scope, whatever its field says (R69, R237). -/
def State.order (s : State) (i : Iss) (x : MF) (amo : Bool) : AOrd :=
  let o := orderOf x amo
  if o.kind != .weak && 2 ≤ s.spaceOf i.r.gref x.x.toNat then ⟨o.kind, 5⟩ else o

/-- The places of the lanes (R228). -/
def State.resolveLanes (s : State) (r : GRef) (x : Nat) (offs : List (Nat × Int)) (n : Nat)
    (k : AccKind) (home : Bool) : List (Nat × Except MFault Loc) × State :=
  match offs with
  | [] => ([], s)
  | p :: ps =>
    let (l, s) := s.resolve r x p.2 n k home
    let (ls, s) := s.resolveLanes r x ps n k home
    ((p.1, l) :: ls, s)

/-- The empty window words of the lanes' places, for which the unit waits (R44, R51). -/
def Group.anyEmpty (g : Group) (n : Nat) (ls : List (Nat × Except MFault Loc)) : List (Nat × Mask) :=
  ls.flatMap (fun p => match p.2 with | .ok l => g.emptyWords l n | .error _ => [])

/-- Whether a home holds an atomic of the unit for its logged predecessor in replay (R428). -/
def State.anyHeld (s : State) (i : Iss) (ls : List (Nat × Except MFault Loc)) : Bool :=
  s.reckon.mode == 2 && ls.any (fun p => match p.2 with
    | .ok (.mem pa _ a) =>
      s.target pa a == .home && s.amoTurn i.b.core.die i.r.gref (pa / 128) == .held
    | _ => false)

/-- The lanes of a list as a mask. -/
def maskOfLanes (l : List Nat) : Mask := maskOf (fun L => l.contains L)

/-- The first fault of a list of places: its lane and the fault. -/
def firstFault (ls : List (Nat × Except MFault Loc)) : Option (Nat × MFault) :=
  match ls with
  | [] => none
  | p :: ps => match p.2 with
    | .error f => some (p.1, f)
    | .ok _ => firstFault ps

/-- The places before the first fault: the lanes of a store, atomic or range that complete (R231). -/
def okPrefix (ls : List (Nat × Except MFault Loc)) : List (Nat × Loc) :=
  match ls with
  | [] => []
  | p :: ps => match p.2 with
    | .ok l => (p.1, l) :: okPrefix ps
    | .error _ => []

/-- The places without a fault: the lanes of a load that complete (R231). -/
def okAll (ls : List (Nat × Except MFault Loc)) : List (Nat × Loc) :=
  ls.filterMap (fun p => match p.2 with | .ok l => some (p.1, l) | .error _ => none)

/-- Whether a place is on another die, another device or the host (R51). -/
def State.isRemote (s : State) (d : Nat) : Loc → Bool
  | .mem pa _ a => match s.target pa a with
    | .home => s.homeOf pa != some d
    | _ => true
  | _ => false

/-- The destination registers of a field, `w` of them: v, then s. -/
def destV (d : BitVec 6) (w : Nat) : List Nat := if isS d then [] else range' d.toNat w
def destS (d : BitVec 6) (w : Nat) : List Nat := if isS d then range' (sNum d) w else []

/-- The stash that an x register names, where it names one (R255). -/
def Group.stashOf (g : Group) (n : Nat) : Option Nat :=
  match g.x.getD n .unbound with
  | .stash id => some id
  | _ => none

/-- Marks the destinations of a load or atomic empty and enters it among the loads under way (R49, R52):
`vals` holds each completed lane's words; `stash` is the stash that it goes through. -/
def State.pendLoad (s : State) (i : Iss) (d : BitVec 6) (w : Nat) (all : List Nat)
    (vals : List (Nat × List Word)) (acq remote : Bool) (flags : Word) (stash : Option Nat := none) : State :=
  let (id, s) := s.fresh
  let word := fun (L j : Nat) =>
    match vals.find? (fun p => p.1 == L) with | some p => p.2.getD j 0 | none => 0
  let ld : PendLoad :=
    { id := id, sp := i.r.sp, acq := acq, lanes := maskOfLanes (vals.map (·.1)),
      v := (destV d w).map (fun n => (n, lanes.map (fun L => word L (n - d.toNat)))),
      s := (destS d w).map (fun n => (n, word 0 (n - sNum d))),
      flags := flags, remote := remote, since := s.cyclesOf i.b.core, stash := stash }
  s.modGroup i.r.gref (fun g => { g with
    fe := (destV d w).foldl (fun fe n => modAt fe n (· &&& ~~~(maskOfLanes all))) g.fe,
    loads := if vals.isEmpty then g.loads else g.loads ++ [ld] })

/-- What a strong access does with the entries of its lines (R235, R247): an acquire at device or system scope applies
them once its last lane has completed; every other keeps them pending for an acquire fence (R298, log entry 66). -/
def State.takeEntry (s : State) (i : Iss) (o : AOrd) (e : Sig) (parked : Bool) : State :=
  if o.kind == .weak then s
  else if o.atHome && o.acquires && !parked then
    let e := if i.cur.replay.isSome then e ||| i.g.acqSig else e
    s.applyEntry i.b.core.die e
  else s.modGroup i.r.gref (fun g => { g with acqSig := g.acqSig ||| e })

/-- A load (R231, R234, R235). -/
def load (w size : Nat) (conv : List Byte → List Word) (x : MF) (s : State) : Out :=
  let sig := sgLoad w x
  s.issue (fun _ => issueM sig) (fun i =>
    let offs := i.offsets sig x
    if offs.any (fun p => p.2 % (size : Int) != 0) then .trap { cause := cMisaligned }
    else
      let s := s.bound i x .load
      let o := s.order i x false
      let (ls, s) := s.resolveLanes i.r.gref x.x.toNat offs size .load (orderOf x false).atHome
      let ws := i.g.anyEmpty size ls
      if !ws.isEmpty then .waitOn ws []
      else
        let ok := okAll ls
        let (vals, e, s) := ok.foldl (fun (p : List (Nat × List Word) × Sig × State) l =>
          let (bs, e, s) := p.2.2.readLoc i.r.gref l.2 size o
          (p.1 ++ [(l.1, conv bs)], p.2.1 ||| e, s)) ([], 0, s)
        let f := firstFault ls
        let s := s.pendLoad i x.d w (ls.map (·.1)) vals o.acquires
          (ok.any (fun l => s.isRemote i.b.core.die l.2)) 0 (i.g.stashOf x.x.toNat)
        let s := s.takeEntry i o e f.isSome
        match f with
        | none => .done s
        | some p => .park p.2 (maskOfLanes ((ls.map (·.1)).filter (fun L => !(ok.any (·.1 == L)))))
            (destV x.d w) (destS x.d w) s)

/-- Words of loaded bytes, sign- or zero-extended (R234). -/
def extS (n : Nat) (bs : List Byte) : List Word :=
  [(BitVec.ofNat n (natOfBytes bs)).signExtend 32]
def extN (n : Nat) (bs : List Byte) : List Word :=
  [(BitVec.ofNat n (natOfBytes bs)).setWidth 32]

/-- LD.8s (R234). -/
def execLd8s (x : MF) (s : State) : Out := load 1 1 (extS 8) x s
/-- LD.8n (R234). -/
def execLd8n (x : MF) (s : State) : Out := load 1 1 (extN 8) x s
/-- LD.16s (R234). -/
def execLd16s (x : MF) (s : State) : Out := load 1 2 (extS 16) x s
/-- LD.16n (R234). -/
def execLd16n (x : MF) (s : State) : Out := load 1 2 (extN 16) x s
/-- LD.32 (R234). -/
def execLd32 (x : MF) (s : State) : Out := load 1 4 (fun bs => wordsOf bs 1) x s
/-- LD.64 (R234). -/
def execLd64 (x : MF) (s : State) : Out := load 2 8 (fun bs => wordsOf bs 2) x s
/-- LD.128 (R234). -/
def execLd128 (x : MF) (s : State) : Out := load 4 16 (fun bs => wordsOf bs 4) x s

/-- The release of a strong access, and the signature that it carries to a home line: its own (R235), and that of
earlier release fences (R247, R298). -/
def State.preRelease (s : State) (i : Iss) (o : AOrd) : Option Sig × State :=
  let (e, s) := if o.releases then s.releaseAt i.r.gref o.scope else (none, s)
  (if o.kind == .weak then none else optOr e i.g.pendingSig, s)

/-- The lanes that a store, atomic or range leaves unfinished (R231). -/
def unfinished (ls : List (Nat × Except MFault Loc)) (L : Nat) : Mask :=
  maskOfLanes ((ls.map (·.1)).filter (fun M => L ≤ M))

/-- A store of `n` bytes through x1 to the group's own window drops the operand-latch entries of its registers (R48,
R206). -/
def State.winDrop (s : State) (i : Iss) (l : Loc) (n : Nat) : State :=
  match l with
  | .win off => s.dropRegs i.r.gref (range' (off / 128) ((off + n + 127) / 128 - off / 128))
  | _ => s

/-- A store (R231, R234, R235). -/
def store (w size : Nat) (x : MF) (s : State) : Out :=
  let sig := sgStore w x
  s.issue (fun _ => issueM sig) (fun i =>
    let offs := i.offsets sig x
    if offs.any (fun p => p.2 % (size : Int) != 0) then .trap { cause := cMisaligned }
    else
      let s := s.bound i x .store
      let o := s.order i x false
      if o.releases && !s.releaseReady i.r then .waitRel o.scope
      else
      let (ls, s) := s.resolveLanes i.r.gref x.x.toNat offs size .store (orderOf x false).atHome
      let ws := i.g.anyEmpty size ls
      if !ws.isEmpty then .waitOn ws []
      else
        let (e, s) := s.preRelease i o
        let data := fun (L : Nat) =>
          ((List.range w).flatMap (fun j => bytesOfNat 4 (i.g.srcAt x.d j L).toNat)).take size
        let s := (okPrefix ls).foldl (fun (s : State) l =>
          (s.writeLoc i.r.gref l.2 (data l.1) o (if s.carries l.2 then e else none)).winDrop i l.2 size) s
        match firstFault ls with
        | none => .done s
        | some p => .park p.2 (unfinished ls p.1) [] [] s)

/-- ST.8 (R234). -/
def execSt8 (x : MF) (s : State) : Out := store 1 1 x s
/-- ST.16 (R234). -/
def execSt16 (x : MF) (s : State) : Out := store 1 2 x s
/-- ST.32 (R234). -/
def execSt32 (x : MF) (s : State) : Out := store 1 4 x s
/-- ST.64 (R234). -/
def execSt64 (x : MF) (s : State) : Out := store 2 8 x s
/-- ST.128 (R234). -/
def execSt128 (x : MF) (s : State) : Out := store 4 16 x s

/-- Brings the line of a place near a core, where its class and policy allow it (R239). -/
def State.prefetch (s : State) (c : CoreId) (l : Loc) (die : Bool) : State :=
  match l with
  | .mem pa cc a =>
    let line := pa / 128
    if s.target pa a != .home || cc == 2 || (cc == 3 && s.homeOfLine line != some c.die) || a.policy != 0 then s
    else if die then s.ensureL2 c.die line cc
    else (s.l1Read c line cc).2
  | _ => s

/-- PF (R239): a lane whose address would fault does nothing; nor does one that cannot reach its line, nor a lane of a
stash, for which R238 names a fault and R239 none: DESIGN CHOICE (log entry 85). -/
def execPf (x : MF) (s : State) : Out :=
  let sig := sgPf x
  s.issue (fun _ => issueM sig) (fun i =>
    .done ((i.offsets sig x).foldl (fun s p =>
      match s.resolve i.r.gref x.x.toNat p.2 1 .pf with
      | (.ok l, t) =>
        let t := t.prefetch i.b.core l (x.sc == 3)
        if t.away == s.away then t else s
      | (.error _, _) => s) s))

/-- The dirty bytes of one stash line are written back; `drop` discards the line instead (R208, R241). -/
def State.stashLineOut (s : State) (blk id idx : Nat) (drop : Bool) : State :=
  match s.stash? blk id with
  | none => s
  | some t => match t.lines.find? (fun x => x.idx == idx) with
    | none => s
    | some x =>
      if drop then
        (s.modStash blk id (fun t => { t with lines := t.lines.filter (fun y => y.idx != idx) })).relinquish
          (s.coreOf blk) x.line
      else s.stashLineBack blk t x

/-- `RWB` or `RINV` on the line of a place (R241). No cache and no stash keeps a line of the host or of another device
(R237, log entry 68), so there is nothing to write back or to drop; nothing is done through a callee's `x6`, whose lines have no page
class: DESIGN CHOICE (log entry 98). -/
def State.rangeLine (s : State) (r : GRef) (l : Loc) (inv : Bool) : State :=
  let d := (s.coreOf r.blk).die
  let act := fun (s : State) (pa cc : Nat) =>
    if inv then s.rinvLine d (pa / 128) cc else s.rwbLine d (pa / 128) cc
  match l with
  | .mem pa cc a => if s.target pa a == .home then act s pa cc else s
  | .stash id off pa cc => act (s.stashLineOut r.blk id (off / 128) inv) pa cc
  | _ => s

/-- Acts on the lines of a range of `len` bytes from offset `o`; `fuel` bounds the lines (R240, R241). -/
def State.rangeRun (s : State) (r : GRef) (b : Block) (g : Group) (x : XReg) (o : Int) (len : Nat)
    (inv : Bool) : Nat → Option MFault × State
  | 0 => (none, s)
  | n + 1 =>
    if len == 0 then (none, s)
    else match s.resolveX r b g x o 1 .range with
      | (.error f, s) => (some f, s)
      | (.ok l, s) =>
        let s := s.rangeLine r l inv
        let va : Int := (b.bindBase x : Int) + o
        let k := min len (128 - (va % 128).toNat)
        s.rangeRun r b g x (o + k) (len - k) inv n

/-- One lane of a range instruction: its bound first, then its lines (R240). -/
def State.rangeLane (s : State) (i : Iss) (x : MF) (o : Int) (len : Nat) (inv : Bool) :
    Option MFault × State :=
  if len == 0 then (none, s)
  else match s.rebind i.r.gref x.x.toNat .range with
    | (.error f, s) => (some f, s)
    | (.ok q, s) =>
      let out := fun (v : Int) => (some (mfault cBounds 0 .range (some v)), s)
      match q with
      | .handle h =>
        let b : Int := (h.boff : Int) + o
        if b < 0 || (h.bound : Int) < b + len then out ((h.vbase : Int) + b)
        else s.rangeRun i.r.gref i.b i.g q o len inv (len / 128 + 2)
      | .stash id =>
        let size := ((i.b.stashes.find? (fun t => t.id == id)).map (·.size)).getD 0
        if o < 0 || (size : Int) < o + len then out ((i.b.bindBase q : Int) + o)
        else s.rangeRun i.r.gref i.b i.g q o len inv (len / 128 + 2)
      | .callerTable base size =>
        if o < 0 || (size : Int) < o + len then out ((base : Int) + o)
        else s.rangeRun i.r.gref i.b i.g q o len inv (len / 128 + 2)
      | _ => s.rangeRun i.r.gref i.b i.g q o len inv (len / 128 + 2)

/-- `RWB` and `RINV` (R231, R240, R241): lanes in order up to the first fault. -/
def range (inv : Bool) (x : MF) (s : State) : Out :=
  let sig := sgRange x
  s.issue (fun _ => issueM sig) (fun i =>
    let offs := i.offsets sig x
    let (f, s) := offs.foldl (fun (p : Option (Nat × MFault) × State) q =>
      match p.1 with
      | some _ => p
      | none => match p.2.rangeLane i x q.2 (i.g.src x.d q.1).toNat inv with
        | (some f, s) => (some (q.1, f), s)
        | (none, s) => (none, s)) (none, s)
    match f with
    | none => .done s
    | some p => .park p.2 (maskOfLanes ((offs.map (·.1)).filter (fun L => p.1 ≤ L))) [] [] s)

/-- RWB.dev (R240, R241). -/
def execRwb (x : MF) (s : State) : Out := range false x s
/-- RINV.dev (R240, R241). -/
def execRinv (x : MF) (s : State) : Out := range true x s

/-- The bytes of an atomic's location (R244). -/
def amoSize : AmoOp → Nat
  | .add64 | .xchg64 | .cas64 => 8
  | _ => 4

/-- The new value of an atomic, none where a compare fails, and its exceptions (R244, R245). -/
def amoNew (op : AmoOp) (rm : RMode) (old d c : Nat) : Option Nat × Word :=
  let o := wd old
  let w := wd d
  match op with
  | .add32 => (some (o + w).toNat, 0)
  | .add64 => (some ((old + d) % 2 ^ 64), 0)
  | .faddF32 =>
    let (r, f) := roundWith fp32 rm ((fp32.decode old).add rm (fp32.decode d))
    (some r, f)
  | .faddBh2 =>
    let e := fun (k : Nat) =>
      roundWith bf16 rm ((bf16.decode (old / 2 ^ k % 2 ^ 16)).add rm (bf16.decode (d / 2 ^ k % 2 ^ 16)))
    (some ((e 0).1 + 2 ^ 16 * (e 16).1), (e 0).2 ||| (e 16).2)
  | .minS32 => (some (minS o w).toNat, 0)
  | .minN32 => (some (minN o w).toNat, 0)
  | .maxS32 => (some (maxS o w).toNat, 0)
  | .maxN32 => (some (maxN o w).toNat, 0)
  | .and32 => (some (o &&& w).toNat, 0)
  | .or32 => (some (o ||| w).toNat, 0)
  | .xor32 => (some (o ^^^ w).toNat, 0)
  | .xchg32 | .xchg64 => (some d, 0)
  | .cas32 | .cas64 => (if old == c then some d else none, 0)
  | .incN32 => (some (if d ≤ old then 0 else old + 1), 0)

/-- An atomic (R231, R243 to R245): `w` registers in the field, of which the first `r` are written. -/
def amo (op : AmoOp) (w r : Nat) (x : MF) (s : State) : Out :=
  let sig := sgAmo w x
  let size := amoSize op
  let fadd := op == .faddF32 || op == .faddBh2
  s.issue (fun _ => issueM sig (if fadd then rndOk true false false false false else fun _ => false))
    (fun i =>
      let offs := i.offsets sig x
      let rnd := rndOf i.cur.hints
      if offs.any (fun p => p.2 % (size : Int) != 0) then .trap { cause := cMisaligned }
      else
        let s := s.bound i x .atomic
        let o := s.order i x true
        if o.releases && !s.releaseReady i.r then .waitRel o.scope
        else
        let (ls, s) := s.resolveLanes i.r.gref x.x.toNat offs size .atomic (orderOf x true).atHome
        let ws := i.g.anyEmpty size ls
        if !ws.isEmpty then .waitOn ws []
        else if s.anyHeld i ls then .wait
        else
          let (sg, s) := s.preRelease i o
          let opnd := fun (L j : Nat) =>
            if size == 8 then (pairOf (i.g.srcAt x.d (2 * j) L) (i.g.srcAt x.d (2 * j + 1) L)).toNat
            else (i.g.srcAt x.d j L).toNat
          let ok := okPrefix ls
          let (vals, e, fl, s) := ok.foldl
            (fun (p : List (Nat × List Word) × Sig × Word × State) l =>
              let (vals, e, fl, s) := p
              let new := fun (old : List Byte) =>
                amoNew op rnd.rm (natOfBytes old) (opnd l.1 0) (opnd l.1 1)
              let (old, e', s) := s.amoLoc i.r.gref l.2 size o (if s.carries l.2 then sg else none)
                (fun old => (new old).1.map (bytesOfNat size))
              (vals ++ [(l.1, wordsOf old r)], e ||| e', fl ||| (new old).2, s.winDrop i l.2 size))
            ([], 0, 0, s)
          let f := firstFault ls
          let s := s.pendLoad i x.d r (ls.map (·.1)) vals o.acquires
            (ok.any (fun l => s.isRemote i.b.core.die l.2)) (if rnd.nf then 0 else fl &&& flagsMask)
            (i.g.stashOf x.x.toNat)
          let s := s.takeEntry i o e f.isSome
          match f with
          | none => .done s
          | some p => .park p.2 (unfinished ls p.1) (destV x.d r) (destS x.d r) s (fadd && !rnd.nf))

/-- AMO.add.32 (R244). -/
def execAmoAdd32 (x : MF) (s : State) : Out := amo .add32 1 1 x s
/-- AMO.add.64 (R244). -/
def execAmoAdd64 (x : MF) (s : State) : Out := amo .add64 2 2 x s
/-- AMO.fadd.f32 (R244, R245). -/
def execAmoFaddF32 (x : MF) (s : State) : Out := amo .faddF32 1 1 x s
/-- AMO.fadd.bh2 (R244, R245). -/
def execAmoFaddBh2 (x : MF) (s : State) : Out := amo .faddBh2 1 1 x s
/-- AMO.min.s32 (R244). -/
def execAmoMinS32 (x : MF) (s : State) : Out := amo .minS32 1 1 x s
/-- AMO.min.n32 (R244). -/
def execAmoMinN32 (x : MF) (s : State) : Out := amo .minN32 1 1 x s
/-- AMO.max.s32 (R244). -/
def execAmoMaxS32 (x : MF) (s : State) : Out := amo .maxS32 1 1 x s
/-- AMO.max.n32 (R244). -/
def execAmoMaxN32 (x : MF) (s : State) : Out := amo .maxN32 1 1 x s
/-- AMO.and.32 (R244). -/
def execAmoAnd32 (x : MF) (s : State) : Out := amo .and32 1 1 x s
/-- AMO.or.32 (R244). -/
def execAmoOr32 (x : MF) (s : State) : Out := amo .or32 1 1 x s
/-- AMO.xor.32 (R244). -/
def execAmoXor32 (x : MF) (s : State) : Out := amo .xor32 1 1 x s
/-- AMO.xchg.32 (R244). -/
def execAmoXchg32 (x : MF) (s : State) : Out := amo .xchg32 1 1 x s
/-- AMO.xchg.64 (R244). -/
def execAmoXchg64 (x : MF) (s : State) : Out := amo .xchg64 2 2 x s
/-- AMO.cas.32 (R243, R244): the compare value in register d + 1. -/
def execAmoCas32 (x : MF) (s : State) : Out := amo .cas32 2 1 x s
/-- AMO.cas.64 (R243, R244): the compare value in the pair d + 2. -/
def execAmoCas64 (x : MF) (s : State) : Out := amo .cas64 4 2 x s
/-- AMO.inc.n32 (R244). -/
def execAmoIncN32 (x : MF) (s : State) : Out := amo .incN32 1 1 x s

/-- The live lanes of a group, whatever its handler runs as (R33, R367). -/
def Group.liveAll (g : Group) : Mask :=
  g.frames.foldl (fun m f => m ||| ({ g with splits := f.splits } : Group).live) g.live

/-- Load or atomic data arrives (R49, R50, R52): it is written and its full bits are set together, its
exceptions enter FLAGS (R245), and lanes that have left discard it (R191). Operand-latch entries of its registers go
(R48). -/
def execLoadDataReturn (r : GRef) (id : Nat) (s : State) : Out :=
  let ld := (s.group? r).bind (fun g => g.loads.find? (fun l => l.id == id))
  stepIf "LOAD_DATA_RETURN" ld.isSome (match ld with
    | none => s
    | some ld => ((s.modGroup r (fun g => { g with
        v := ld.v.foldl (fun v n => putRow v n.1 (ld.lanes &&& g.liveAll) (fun L => n.2.getD L 0)) g.v,
        fe := ld.v.foldl (fun fe n => modAt fe n.1 (· ||| ld.lanes)) g.fe,
        s := ld.s.foldl (fun q n => q.set n.1 n.2) g.s,
        flags := g.flags ||| ld.flags,
        loads := g.loads.filter (fun l => l.id != id) })).dropRegs r (ld.v.map (·.1))).blockEnd r.blk)

/-- A store of the group is acknowledged by its target (R235, R309, R310). -/
def execStoreAcknowledged (r : GRef) (id : Nat) (s : State) : Out :=
  stepIf "STORE_ACKNOWLEDGED"
    (match s.group? r with | some g => g.unacked.contains id | none => false)
    (s.modGroup r (fun g => { g with unacked := g.unacked.filter (· != id) }))

/-- Whether a load or atomic is the producer of one of the lanes of registers that a split waits for. -/
def PendLoad.holds (l : PendLoad) (vs : List (Nat × Mask)) (ss : List Nat) : Bool :=
  l.v.any (fun x => vs.any (fun y => y.1 == x.1 && y.2 &&& l.lanes != 0)) || l.s.any (fun x => ss.contains x.1)

/-- A split that waits for the result of a remote load or atomic pending for more than 2048 cycles, or whose own
such access waits for its home, stands at a blocking point (R51, R289, R351). -/
def execRemotePendingTimeout (r : SRef) (s : State) : Out :=
  let c := s.coreOf r.blk
  let wake := match s.group? r.gref, s.split? r with
    | some g, some p => match p.st with
      | .operand vs ss =>
        match g.loads.find? (fun (l : PendLoad) => l.remote && l.since + 2048 < s.cyclesOf c && l.holds vs ss) with
        | some l => some (.remote l.id)
        | none => match p.pendSince with
          | some t => if t + 2048 < s.cyclesOf c then some .home else none
          | none => none
      | _ => none
    | _, _ => none
  stepIf "REMOTE_PENDING_TIMEOUT" wake.isSome (match wake with
    | some w => s.modSplit r (fun p => { p with st := .blocked w p.pc })
    | none => s)

end Sys2Proof.Machine
end

