-- ==== Sys2Proof/Machine/Place.lean ====
section
/-! DEFINITION. The store of a core and the budgets of a region: what resident blocks take, and where a
window or a scratchpad may stand (11 R198, R219, 18 R342). -/

namespace Sys2Proof.Machine

open Sys2Proof

/-- The REGCNT of the block's own context (R379). -/
def Group.ownRegcnt (g : Group) : Nat :=
  match g.gates.getLast? with | some f => f.regcnt | none => g.regcnt

/-- The ranges of a core's store that windows and scratchpads stand in. -/
def State.segments (s : State) (c : CoreId) : List (Nat × Nat) :=
  (s.blocksOn c).flatMap (fun n => match s.blocks[n]? with
    | some b => (1024 * b.sbk, kib b.scrSize) :: b.groups.flatMap (·.windows)
    | none => [])

/-- Whether a range meets none of a list of ranges. -/
def clearOf (segs : List (Nat × Nat)) (a n : Nat) : Bool :=
  segs.all (fun x => x.2 == 0 || a + n ≤ x.1 || x.1 + x.2 ≤ a)

/-- The places at which `n` bytes of a store may start beside what stands there: the lowest address, and after each
segment. -/
def gaps (segs : List (Nat × Nat)) (align n : Nat) : List Nat :=
  (0 :: segs.map (fun x => (x.1 + x.2 + align - 1) / align * align)).filter
    (fun a => a + n ≤ storeSize && clearOf segs a n)

/-- The lowest aligned place of `n` bytes clear of the ranges, in the store (log entry 10). -/
def gap (segs : List (Nat × Nat)) (align n : Nat) : Option Nat := minBy (fun a => a) (gaps segs align n)

/-- The tile registers of a core that its blocks hold (R313). -/
def State.tileSegs (s : State) (c : CoreId) : List (Nat × Nat) :=
  (s.blocksOn c).flatMap (fun n => match s.blocks[n]? with
    | some b => [(b.tbase, b.tiles.length)]
    | none => [])

/-- The lowest of `n` consecutive free tile registers of a core, which has 16 (R313; DESIGN CHOICE which, log
entry 10). -/
def State.tileGap (s : State) (c : CoreId) (n : Nat) : Option Nat :=
  (List.range (17 - n)).find? (fun a => clearOf (s.tileSegs c) a n)

/-- Register units of a block (R342). -/
def Block.regUnits (b : Block) : Nat :=
  (b.groups.map (fun g => if g.released then 0 else g.ownRegcnt / 8)).sum

/-- What the resident blocks of a die that count for a region's budget take: `of` names the budget's count,
`f` measures a block (R342). -/
def State.used (s : State) (d : Nat) (of : Region → Nat) (who : Nat) (f : Block → Nat) : Nat :=
  (s.blocks.map (fun b =>
    if b.st == .resident && b.core.die == d &&
        (match s.region? b.rcb with | some q => of q == who | none => false) then f b else 0)).sum

/-- Whether a budget field allows a count (R342). -/
def inBudget (limit n : Nat) : Bool := limit == 0xFFFE || n ≤ limit

/-- The effective priority of a group (R350). -/
def Group.priority (g : Group) : Nat := g.gates.foldl (fun m f => max m f.ctx.prio) g.ctx.prio

/-- The place of a group's window grown to `n` registers: where it stands if that is clear, else a gap. -/
def State.growPlace (s : State) (c : CoreId) (g : Group) (n : Nat) : Option Nat :=
  let segs := (s.segments c).filter (fun x => !(x.1 == g.vb && x.2 == 128 * g.regcnt))
  if g.vb + 128 * n ≤ storeSize && clearOf segs g.vb (128 * n) then some g.vb
  else gap segs 128 (128 * n)

/-- Whether the core's store can hold a grown window (R219, R221). -/
def State.canGrow (s : State) (c : CoreId) (g : Group) (n : Nat) : Bool :=
  s.coreStore c + 128 * (n - g.regcnt) ≤ storeLimit && (s.growPlace c g n).isSome

/-- A group with its window grown (R219): the new registers read 0 and are full. -/
def Group.grow (g : Group) (vb n : Nat) : Group :=
  { g with vb := vb, regcnt := n,
           v := g.v ++ List.replicate (n - g.regcnt) (List.replicate 32 0),
           fe := g.fe ++ List.replicate (n - g.regcnt) feFull }

/-- The grant of a register request (R219, R251); one that a sibling's grant has met changes nothing. -/
def State.grantRegs (s : State) (r : GRef) (n : Nat) : State :=
  match s.group? r with
  | none => s
  | some g =>
    if n ≤ g.regcnt then s
    else (s.modGroup r (fun g => g.grow ((s.growPlace (s.coreOf r.blk) g n).getD g.vb) n)).fitL1 (s.coreOf r.blk) 0

/-- The waiting register requests of a core, in the order of their grants: highest priority first, then
oldest (R219). -/
def State.regWaits (s : State) (c : CoreId) : List (SRef × Nat) :=
  let all := (s.groupsOn c).flatMap (fun r => match s.group? r with
    | some g => g.valid.filterMap (fun x => match x.2.st with
        | .blocked (.regreq n) _ => some ((⟨r.blk, r.grp, x.1⟩ : SRef), n, g.priority, x.2.lastIssue)
        | _ => none)
    | none => [])
  let before := fun (a b : SRef × Nat × Nat × Nat) =>
    decide (b.2.2.1 < a.2.2.1) || (a.2.2.1 == b.2.2.1 && a.2.2.2 ≤ b.2.2.2)
  (all.foldl (fun (l : List (SRef × Nat × Nat × Nat)) x =>
    l.takeWhile (fun y => before y x) ++ x :: l.dropWhile (fun y => before y x)) []).map
    (fun x => (x.1, x.2.1))

/-- Whether `more` registers for a group of a block take its region past its budget on the die (R219). -/
def State.regOver (s : State) (b : Block) (more : Nat) : Bool :=
  match s.region? b.rcb with
  | some q => !inBudget q.regu (s.used b.core.die (·.reguOf) q.reguOf Block.regUnits + more / 8)
  | none => false

/-- Whether a waiting request can be met (R219, R251). -/
def State.regMet (s : State) (c : CoreId) (x : SRef × Nat) : Bool :=
  match s.group? x.1.gref with
  | some g => x.2 ≤ g.regcnt || s.canGrow c g x.2
  | none => false

end Sys2Proof.Machine
end

