-- ==== Sys2Proof/Machine/Sync.lean ====
section
/-! DEFINITION. Fences, barriers, barrier objects, `DYIELD`, register requests, full/empty bits, bindings
and stashes, 0xC0 to 0xCF, with the wakes of their waits (11 R207 to R221, 12 R247 to R256). -/

namespace Sys2Proof.Machine

open Sys2Proof

/-- The scope in m of a fence or engine instruction (R71). -/
def scopeOf (x : EF) : Nat := x.m.toNat % 8

/-- FENCE.acq (R247). -/
def execFenceAcq (x : EF) (s : State) : Out :=
  s.issue (fun _ => issueE (sigOf (.fenceAcq x)) false) (fun i => .done (s.acquireAt i.r (scopeOf x)))

/-- What a fence does once what it orders has completed (R247): the release, and where `acq` holds the acquire. -/
def State.fenced (s : State) (i : Iss) (scope : Nat) (acq : Bool) : State :=
  let s := s.fenceRel i.r.gref scope
  if acq then s.acquireAt i.r scope else s

/-- A fence with a release (R247): it waits for what it orders. -/
def fenceBody (s : State) (i : Iss) (scope : Nat) (acq : Bool) : Res :=
  if !s.releaseReady i.r then .waitRel scope else .done (s.fenced i scope acq)

/-- The atomic of a `FENCE.sc` at device or system scope on the fence word (R300): it carries the die's signature, and its
entry is applied with the pending ones. At system scope the word is that of the lowest-numbered device, whose entry is all
ones (R309); where that is another package, this package's own word is taken as well, so that fences of both scopes fall in
one order (DEDUCED from the order S, log entry 90). -/
def State.fenceWord (s : State) (r : GRef) (scope : Nat) : State :=
  let d := (s.coreOf r.blk).die
  let inc := fun (old : List Byte) => bytesOfNat 4 ((natOfBytes old + 1) % 2 ^ 32)
  let (_, e, s) := s.amoHome d r s.fencePa 1 4 ⟨.ar, scope⟩ (some (s.die d).csig) (fun old => some (inc old))
  let (e, s) :=
    if scope == 5 && Config.lowestDevice.toNat != Config.deviceNumber.toNat then
      let key := Config.lowestDevice.toNat * 2 ^ 52 + Config.lowestFencePa
      ((BitVec.allOnes 1024 : Sig), { s with remote := Memory.write s.remote key (inc (Memory.read s.remote key 4)) })
    else (e, s)
  s.modGroup r (fun g => { g with acqSig := g.acqSig ||| e })

/-- What a `FENCE.sc` does once what it orders has completed (R247, R300): the release, the fence word at device or system
scope, the acquire. -/
def State.fencedSc (s : State) (i : Iss) (scope : Nat) : State :=
  let s := s.fenceRel i.r.gref scope
  (if 4 ≤ scope then s.fenceWord i.r.gref scope else s).acquireAt i.r scope

/-- Whether the home of the fence word holds the atomic of a `FENCE.sc` for its logged predecessor (R428). -/
def State.fenceHeld (s : State) (i : Iss) (scope : Nat) : Bool :=
  decide (4 ≤ scope) && s.reckon.mode == 2 && s.amoTurn i.b.core.die i.r.gref (s.fencePa / 128) == .held

/-- FENCE.rel (R247). -/
def execFenceRel (x : EF) (s : State) : Out :=
  s.issue (fun _ => issueE (sigOf (.fenceRel x)) false) (fun i => fenceBody s i (scopeOf x) false)
/-- FENCE.ar (R247). -/
def execFenceAr (x : EF) (s : State) : Out :=
  s.issue (fun _ => issueE (sigOf (.fenceAr x)) false) (fun i => fenceBody s i (scopeOf x) true)
/-- FENCE.sc (R247, R300): the fences of all parties fall in the order of the machine's steps. -/
def execFenceSc (x : EF) (s : State) : Out :=
  s.issue (fun _ => issueE (sigOf (.fenceSc x)) false) (fun i =>
    if !s.releaseReady i.r then .waitRel (scopeOf x)
    else if s.fenceHeld i (scopeOf x) then .wait
    else .done (s.fencedSc i (scopeOf x)))

/-- The context forbids the instruction: a trap of class I (R365, R380). -/
def Iss.inCall (i : Iss) (r : Res) : Res :=
  if i.g.inGate then .trap { cause := cProtection, detail := 6 } else r

/-- The number of lanes a group was placed with. -/
def allLanes : Mask := BitVec.allOnes 32

/-- The limits of an arrival (R210): the operand that breaks one. -/
def barBad (groups : Nat) (low high count : Word) : Option Opnd :=
  let mem := bitsW low 15 0
  let n := countLanes (wd mem)
  if bitsW low 31 16 != 0 || mem == 0 || 2 ^ groups ≤ mem || high == 0 then some .a
  else if count == 0 || n * countLanes high < count.toNat then some .b
  else none

/-- The mismatches of an arrival (R211, 1). -/
def barMismatch (i : Iss) (k : Barrier) (low high count : Word) : Bool :=
  let act := i.cur.active
  (k.isOpen && !(k.low == low && k.high == high && k.count == count)) ||
  !(low.getLsbD i.r.grp) || act &&& ~~~high != 0 ||
  (i.g.fused && act != high &&& i.g.live)

/-- An arrival on a name (R211, 2 to 4): the phase it counts in, and whether it completes it. -/
def State.arrive (s : State) (i : Iss) (name : Nat) (low high count : Word) : Nat × Bool × State :=
  let k := i.b.bars.getD name { isOpen := false, low := 0, high := 0, count := 0, arrivals := 0, phase := 0 }
  let n := (if k.isOpen then k.arrivals else 0) + countLanes i.cur.active
  let full := count.toNat ≤ n
  let k' : Barrier := if full then { k with isOpen := false, arrivals := 0, phase := k.phase + 1 }
    else { isOpen := true, low := low, high := high, count := count, arrivals := n, phase := k.phase }
  let s := s.modBlock i.r.blk (fun b => { b with bars := b.bars.set name k' })
  let s := s.modGroup i.r.gref (fun g => { g with lastBar := g.lastBar.set name (some k.phase) })
  let s := s.trace i.r i.cur.unit i.p.mask 1 1 (wd name)
  (k.phase, full, if full then s.trace i.r i.cur.unit i.p.mask 2 1 (wd name) else s)

/-- The arrival of `BAR` and `BARA` (R210 to R212), a release at core scope. -/
def barArrive (wait : Bool) (x : EF) (s : State) (i : Iss) : Res :=
  i.inCall (
    let low := i.g.srcAt x.a 0 0
    let high := i.g.srcAt x.a 1 0
    let count := i.g.src x.b 0
    let name := x.m.toNat % 16
    let k := i.b.bars.getD name { isOpen := false, low := 0, high := 0, count := 0, arrivals := 0, phase := 0 }
    match barBad i.b.groups.length low high count with
    | some o => trapOp cIllegalOperand o
    | none =>
      if barMismatch i k low high count then .trap { cause := cBarMismatch }
      else if !s.releaseReady i.r then .wait
      else
        let (ph, full, s) := s.arrive i name low high count
        if !wait then .done s
        else if full then .done (s.acquireAt i.r 1)
        else .block (.bar name ph) s)

/-- BAR (R212, R248). -/
def execBar (x : EF) (s : State) : Out :=
  s.issue (fun _ => issueE (sigOf (.bar x)) true) (barArrive true x s)
/-- BARA (R212, R248). -/
def execBara (x : EF) (s : State) : Out :=
  s.issue (fun _ => issueE (sigOf (.bara x)) true) (barArrive false x s)

/-- Whether a phase of a name has completed. -/
def Block.phaseDone (b : Block) (name ph : Nat) : Bool :=
  match b.bars[name]? with | some k => ph < k.phase | none => true

/-- BARW (R212, R248). -/
def execBarw (x : EF) (s : State) : Out :=
  s.issue (fun _ => issueE (sigOf (.barw x)) true) (fun i => i.inCall (
    let name := x.m.toNat % 16
    match i.g.lastBar.getD name none with
    | some ph => if i.b.phaseDone name ph then .done (s.acquireAt i.r 1) else .block (.bar name ph) s
    | none => .done (s.acquireAt i.r 1)))

/-- The waiting splits of a list of groups that satisfy a test of their wake condition. -/
def State.waiters (s : State) (gs : List GRef) (p : SRef → Wake → Bool) : List SRef :=
  gs.flatMap (fun r => match s.group? r with
    | some g => g.valid.filterMap (fun x => match x.2.st with
        | .blocked w _ => if p ⟨r.blk, r.grp, x.1⟩ w then some ⟨r.blk, r.grp, x.1⟩ else none
        | _ => none)
    | none => [])

/-- The groups of a block. -/
def State.groupsOf (s : State) (b : Nat) : List GRef :=
  match s.blocks[b]? with
  | some k => (List.range k.groups.length).map (fun g => ⟨b, g⟩)
  | none => []

/-- A split that has just woken takes a cause that waits for its group (R365). -/
def State.wokenAsync (s : State) (r : SRef) : State :=
  if (s.split? r).any (fun p => p.st == .ready) then s.takeAsync r else s

/-- A split whose wait has ended stands at the unit after the one it waits in. -/
def Split.goOn (p : Split) : Split :=
  match p.st with
  | .blocked _ next => { p with pc := next, st := .ready, replay := none }
  | _ => p

/-- A waiting split goes on at the unit after the one it waits in. -/
def State.wake (s : State) (r : SRef) : State := ((s.modSplit r Split.goOn).after r).wokenAsync r

/-- The wake condition of a split. -/
def Split.wakeOf (p : Split) : Option (Wake × Pc) :=
  match p.st with | .blocked w n => some (w, n) | _ => none
def State.wakeOf (s : State) (r : SRef) : Option (Wake × Pc) := (s.split? r).bind Split.wakeOf

/-- The waits of an entry of a group's split table: that of its split, and those of the splits that stand in the same entry
of a handler frame, whose instructions complete while the handler runs (R367); each with the number of its frame. -/
def State.waitsOf (s : State) (r : SRef) : List (Option Nat × Wake × Pc) :=
  match s.group? r.gref with
  | none => []
  | some g => ((s.wakeOf r).map (fun x => (none, x))).toList ++ (g.frames.zipIdx).filterMap (fun f =>
      ((f.1.splits.getD r.sp none).bind Split.wakeOf).map (fun x => (some f.2, x)))

/-- A wait that stands in a handler frame, or in none, ends: a split of a frame issues nothing until the handler has
returned (R367). -/
def State.wakeAt (s : State) (r : SRef) : Option Nat → State
  | none => s.wake r
  | some j => s.modGroup r.gref (fun g => { g with frames := modAt g.frames j (fun f =>
      { f with splits := modAt f.splits r.sp (Option.map Split.goOn) }) })

/-- An s register of the code that a handler frame has interrupted, which keeps s12 to s15 of it (R367). -/
def Group.sSetAt (g : Group) (n : Nat) (w : Word) : Option Nat → Group
  | none => g.sSet n w
  | some j => if n < 12 then { g with s := g.s.set n w }
      else { g with frames := modAt g.frames j (fun f => { f with s := f.s.set (n - 12) w }) }

/-- Whether a block stands on a core and no pre-emption of it is pending for the group: a wake may happen
(R351). -/
def State.mayWake (s : State) (r : GRef) : Bool :=
  (match s.blocks[r.blk]? with | some b => b.st == .resident | none => false) &&
  (match s.group? r with | some g => !g.preempting | none => false)

/-- The waiters of a completed barrier phase resume, with acquire at core scope (R212). -/
def execBarPhaseResume (blk name : Nat) (s : State) : Out :=
  let ws := match s.blocks[blk]? with
    | some b => (s.waiters (s.groupsOf blk) (fun r w => match w with
        | .bar n ph => n == name && b.phaseDone name ph && s.mayWake r.gref
        | _ => false))
    | none => []
  stepIf "BAR_PHASE_RESUME" (!ws.isEmpty) (ws.foldl (fun s r => (s.acquireAt r 1).wake r) s)

/-- The place of a barrier object, after the checks that R249 orders: alignment, then the scratchpad. TRAPMASK of a
`PROTECTION` there is Active: DESIGN CHOICE (log entry 99). -/
def State.objAt (s : State) (i : Iss) (w : Word) (k : AccKind) : Except Res Nat :=
  if w.toNat % 16 != 0 then .error (.trap { cause := cMisaligned })
  else match resolveScr i.b i.g i.r.gref w.toInt 16 k with
    | .error f => .error (.park f i.cur.active [] [] s)
    | .ok _ => .ok w.toNat

/-- Bytes of a group's own scratchpad, in its context. -/
def State.ownRead (s : State) (r : GRef) (off n : Nat) : List Byte :=
  s.scrRead r (((s.group? r).map (·.gates.length)).getD 0) off n
def State.ownWrite (s : State) (r : GRef) (off : Nat) (bs : List Byte) : State :=
  s.scrWrite r (((s.group? r).map (·.gates.length)).getD 0) off bs

/-- The count operand of `MBINI` and `MBARV` is 1 to 2^31 - 1 (R249). -/
def countOk (w : Word) : Bool := 0 < w.toInt

/-- MBINI (R214, R249). -/
def execMbini (x : EF) (s : State) : Out :=
  s.issue (fun _ => issueE (sigOf (.mbini x)) true) (fun i =>
    let n := i.g.src x.b 0
    if !countOk n then trapOp cIllegalOperand .b
    else match s.objAt i (i.g.src x.a 0) .store with
      | .error r => r
      | .ok off => .done (s.ownWrite i.r.gref off
          (bytesOfNat 4 n.toNat ++ bytesOfNat 4 n.toNat ++ bytesOfNat 2 0 ++ bytesOfNat 1 1 ++
            bytesOfNat 5 0)))

/-- VALID of an object's bytes (R213). -/
def objValid (bs : List Byte) : Bool := (fieldN bs 10 1).testBit 0
/-- PHASE of an object's bytes (R213). -/
def objPhase (bs : List Byte) : BitVec 16 := BitVec.ofNat 16 (fieldN bs 8 2)

/-- MBARV (R214, R215, R249): a release at core scope. -/
def execMbarv (x : EF) (s : State) : Out :=
  s.issue (fun _ => issueE (sigOf (.mbarv x)) true) (fun i =>
    let n := i.g.src x.b 0
    if !countOk n then trapOp cIllegalOperand .b
    else match s.objAt i (i.g.src x.a 0) .atomic with
      | .error (.park f m _ _ s) => .park f m [] [sNum x.d] s
      | .error r => r
      | .ok off =>
        let bs := s.ownRead i.r.gref off 16
        if !objValid bs then trapOp cIllegalOperand .a
        else if !s.releaseReady i.r then .wait
        else .done ((s.ownWrite i.r.gref off (objDec bs n.toNat)).modGroup i.r.gref
          (fun g => g.sSet (sNum x.d) ((objPhase bs).setWidth 32))))

/-- The engine fault of the lowest cause among those that an instruction may deliver (R402). -/
def pickFault (fs : List EFault) (p : EFault → Bool) : Option EFault :=
  minBy (fun f => f.info.cause) (fs.filter p)

/-- The faults that an `MBWAIT` or `MBTST` of an object may deliver (R402). -/
def objFault (g : Group) (off : Nat) (f : EFault) : Bool :=
  !f.matrix && ((f.obj == some off && f.depth == g.gates.length) || f.obj.isNone)

/-- Delivers an engine fault: TRAPPC is the unit after the delivering instruction (R365, R402), at which the split
stands. -/
def State.deliverFault (s : State) (r : SRef) (f : EFault) (pc : Pc) : State :=
  ((s.modGroup r.gref (fun g => { g with efaults := dropFirst (· == f) g.efaults })).modSplit r
    (fun p => { p with pc := pc, st := .ready, replay := none })).takeTrap r f.info pc 0 f.va none
      ((s.split? r).map (·.pc))

/-- MBWAIT (R214, R215, R249, R402). -/
def execMbwait (x : EF) (s : State) : Out :=
  s.issue (fun _ => issueE (sigOf (.mbwait x)) true) (fun i =>
    match s.objAt i (i.g.src x.a 0) .load with
    | .error r => r
    | .ok off =>
      let bs := s.ownRead i.r.gref off 16
      let p := (i.g.src x.b 0).setWidth 16
      if !objValid bs then trapOp cIllegalOperand .a
      else match pickFault i.g.efaults (objFault i.g off) with
        | some f => .moved (s.deliverFault i.r f i.cur.next)
        | none => if objPhase bs != p then .done (s.acquireAt i.r 1) else .block (.mbwait off p) s)

/-- MBTST (R214, R215, R249, R402): the result in every lane of `Active`. -/
def execMbtst (x : EF) (s : State) : Out :=
  s.issue (fun _ => issueE (sigOf (.mbtst x)) true) (fun i =>
    match s.objAt i (i.g.src x.a 0) .load with
    | .error r => r
    | .ok off =>
      let bs := s.ownRead i.r.gref off 16
      if !objValid bs then trapOp cIllegalOperand .a
      else match pickFault i.g.efaults (objFault i.g off) with
        | some f => .moved (s.deliverFault i.r f i.cur.next)
        | none =>
          let t := objPhase bs != (i.g.src x.b 0).setWidth 16
          let s := s.modGroup i.r.gref (fun g => g.setPred (x.d.toNat % 8) i.cur.active (fun _ => t))
          .done (if t then s.acquireAt i.r 1 else s))

/-- A waiter on a barrier object resumes when the phase differs (R215); an engine fault that it may deliver
ends the wait as well (R402; DEDUCED, log entry 15). -/
def execMbwaitWake (r : SRef) (s : State) : Out :=
  match s.wakeOf r, s.group? r.gref with
  | some (.mbwait off p, next), some g =>
    let f := pickFault g.efaults (objFault g off)
    stepIf "MBWAIT_WAKE"
      (s.mayWake r.gref && (f.isSome || objPhase (s.ownRead r.gref off 16) != p))
      (match f with
        | some f => (s.deliverFault r f next).after r
        | none => (s.acquireAt r 1).wake r)
  | _, _ => .fault (.notEnabled "MBWAIT_WAKE")

/-- The watched word of a `DYIELD` (R217, R250), read as a relaxed access. -/
def State.watched (s : State) (r : GRef) (x1 : Bool) (off : Int) : Except MFault (Loc × Word) :=
  match s.resolve r (if x1 then 1 else 0) off 4 .load with
  | (.error f, _) => .error f
  | (.ok l, s) => .ok (l, wd (natOfBytes (s.readLoc r l 4 AOrd.weak).1))

/-- DYIELD (R217, R250). -/
def execDyield (x : EF) (s : State) : Out :=
  s.issue (fun _ => issueE (sigOf (.dyield x)) true) (fun i =>
    let x1 := x.m == 1
    let off := (i.g.src x.a 0).toInt
    let val := i.g.src x.d 0
    let limit := i.g.src x.b 0
    let set := fun (w : Word) => Res.done (s.modGroup i.r.gref (fun g => g.sSet (sNum x.d) w))
    if off % 4 != 0 then .trap { cause := cMisaligned }
    else match s.watched i.r.gref x1 off with
      | .error f => .park f 1 [] [sNum x.d] s
      | .ok (l, w) =>
        if s.locWaits i.g l 4 then .waitOn (i.g.emptyWords l 4) []
        else if w != val then set 0
        else if limit == 0 then set 1
        else .block (.dyield x1 off val (sNum x.d) (s.cyclesOf i.b.core) limit.toNat) s)

/-- A `DYIELD` ends with a status (R250), where it stands in a handler frame too (R367). -/
def State.dyieldEnd (s : State) (r : SRef) (j : Option Nat) (sd : Nat) (w : Word) : State :=
  (s.modGroup r.gref (fun g => g.sSetAt sd w j)).wakeAt r j

/-- Whether the watched word of a `DYIELD` has changed (R217). A word that has become inaccessible has not: DESIGN CHOICE
(log entry 35). -/
def State.dyieldMet (s : State) (r : GRef) : Wake → Bool
  | .dyield x1 off val _ _ _ => match s.watched r x1 off with
    | .ok (_, w) => w != val
    | .error _ => false
  | _ => false

/-- Whether the cycle limit of a `DYIELD` has run out with its word unchanged, or inaccessible (R250; log entry 35). -/
def State.dyieldOver (s : State) (r : GRef) : Wake → Bool
  | .dyield x1 off val _ start limit => start + limit ≤ s.cyclesOf (s.coreOf r.blk) &&
      (match s.watched r x1 off with | .ok (_, w) => w == val | .error _ => true)
  | _ => false

/-- A store has changed the watched word (R217). -/
def execDyieldWake (r : SRef) (s : State) : Out :=
  match (s.waitsOf r).find? (fun x => s.dyieldMet r.gref x.2.1) with
  | some (j, .dyield _ _ _ sd _ _, _) => stepIf "DYIELD_WAKE" (s.mayWake r.gref) (s.dyieldEnd r j sd 0)
  | _ => .fault (.notEnabled "DYIELD_WAKE")

/-- The cycle limit has run out (R250). -/
def execDyieldLimitExpiry (r : SRef) (s : State) : Out :=
  match (s.waitsOf r).find? (fun x => s.dyieldOver r.gref x.2.1) with
  | some (j, .dyield _ _ _ sd _ _, _) => stepIf "DYIELD_LIMIT_EXPIRY" (s.mayWake r.gref) (s.dyieldEnd r j sd 1)
  | _ => .fault (.notEnabled "DYIELD_LIMIT_EXPIRY")

/-- Whether a request is denied (R219): it would break the region's budget, or the block alone could not
hold the window. The callees' windows and scratchpads count as the block's: DESIGN CHOICE (log entry 95). -/
def State.regDenied (s : State) (i : Iss) (n : Nat) : Bool :=
  let more := n - i.g.regcnt
  s.regOver i.b more || storeLimit < i.b.store + 128 * more

/-- REGREQ (R218, R219, R251, R380): met on issue where the store allows it and no request stands before
it. -/
def execRegreq (x : EF) (s : State) : Out :=
  let n := 8 * x.m.toNat
  s.issue (fun i => { issueE (sigOf (.regreq x)) false with
      field := if n ≤ i.g.regcnt then some .other else none })
    (fun i => i.inCall (
      if s.regDenied i n then .trap { cause := cRegreqDenied }
      else if (s.regWaits i.b.core).isEmpty && s.canGrow i.b.core i.g n then
        .done (s.grantRegs i.r.gref n)
      else .block (.regreq n) s))

/-- Whether anything has still to write a register at or beyond `n` (R220): loads and atomics under way, `TMOV`s, and
units that have parked on a fault or are to be replayed, those in a handler frame among them. -/
def Group.writesAbove (g : Group) (n : Nat) : Bool :=
  g.loads.any (fun l => l.v.any (fun x => n ≤ x.1)) ||
  g.tmovs.any (fun t => n < t.d + t.count) ||
  (g.valid.map (fun x => x.2.owed) ++ g.owed).any (fun o => o.v.any (n ≤ ·))

/-- REGREL (R218, R220, R251, R380). It may move the window; the model leaves it where it stands: DESIGN CHOICE (log
entry 70). -/
def execRegrel (x : EF) (s : State) : Out :=
  let n := 8 * x.m.toNat
  s.issue (fun i => { issueE (sigOf (.regrel x)) false with
      field := if i.g.regcnt ≤ n then some .other else none })
    (fun i => i.inCall (
      if i.g.writesAbove n then .wait
      else .done (s.modGroup i.r.gref (fun g =>
        { g with regcnt := n, v := g.v.take n, fe := g.fe.take n }))))

/-- The turn of a waiting register request (R219): one that a sibling's grant has met goes on, one that would take the
region past its budget traps at its unit, another is granted. -/
def State.regTurn (s : State) (r : SRef) (n : Nat) : State :=
  match s.blocks[r.blk]?, s.group? r.gref, s.split? r with
  | some b, some g, some p =>
    if g.regcnt < n && s.regOver b (n - g.regcnt) then
      ((s.modSplit r (fun p => { p with st := .ready })).trapAt r { cause := cRegreqDenied } p.pc).after r
    else (s.grantRegs r.gref n).wake r
  | _, _, _ => s

/-- A waiting register request has its turn (R219): the first, in the order of grants, that the store can meet. -/
def execRegreqGrant (r : SRef) (s : State) : Out :=
  let c := s.coreOf r.blk
  match s.wakeOf r, (s.regWaits c).find? (s.regMet c) with
  | some (.regreq n, _), some w =>
    stepIf "REGREQ_GRANT" (s.mayWake r.gref && w.1 == r) (s.regTurn r n)
  | _, _ => .fault (.notEnabled "REGREQ_GRANT")

/-- FEQ (R252): it never waits and never traps on an empty register. -/
def execFeq (x : EF) (s : State) : Out :=
  s.regs (fun _ => { issueE (sigOf (.feq x)) false with free := true })
    (fun i => i.g.kSet (x.d.toNat % 8) i.cur.active (i.g.fe.getD x.a.toNat 0))

/-- Whether an x register holds a stash (R253). -/
def Group.isStash (g : Group) (n : Nat) : Bool :=
  match g.x.getD n .unbound with | .stash _ => true | _ => false

/-- HBIND (R227, R253). -/
def execHbind (x : EF) (s : State) : Out :=
  let n := x.d.toNat % 8
  s.issue (fun i => { issueE (sigOf (.hbind x)) true with
      field := if i.g.isStash n then some .d else none })
    (fun i =>
      match s.bindHandle i.b.core i.r.gref i.g.ctx i.g.handler (i.g.src x.a 0).toNat (i.g.src x.b 0).toNat with
      | (.error f, s) => .park f 1 [] [] s
      | (.ok h, s) => .done (s.modGroup i.r.gref (fun g => { g with x := g.x.set n (.handle h) })))

/-- HQRY (R254): sel 3 reads the entry count. A table whose home die is lost parks it: DESIGN CHOICE (log entry 100). -/
def execHqry (x : EF) (s : State) : Out :=
  s.issue (fun _ => issueE (sigOf (.hqry x)) true) (fun i =>
    let put := fun (s : State) (lo hi : Nat) => Res.done (s.modGroup i.r.gref (fun g =>
      (g.sSet (sNum x.d) (wd lo)).sSet (sNum x.d + 1) (wd hi)))
    if x.b == 3 then put s i.g.ctx.hcount 0
    else match s.handleEntry i.b.core.die i.r.gref i.g.ctx (i.g.src x.a 0).toNat with
      | (.error t, s) =>
        if t.cause == cDieLost then .park (t, none) 1 [] [sNum x.d, sNum x.d + 1] s else put s 0 0
      | (.ok e, s) =>
        if x.b == 0 then put s (fieldN e.bytes 8 4) (fieldN e.bytes 12 4)
        else if x.b == 1 then put s (fieldN e.bytes 0 4) (fieldN e.bytes 4 4)
        else put s (fieldN e.bytes 16 4) (fieldN e.bytes 20 4))

/-- Zeroes a range of the scratchpad that a stash covers. -/
def State.clearScr (s : State) (r : GRef) (depth off n : Nat) : State :=
  s.scrWrite r depth off (List.replicate n 0)

/-- SMAP (R207, R255): its checks in their order, then the mapping. R207's 128 B-aligned address is checked last, where
VBASE is known: `MISALIGNED` as for the offset, DEDUCED (log entry 69). -/
def execSmap (x : EF) (s : State) : Out :=
  s.issue (fun _ => issueE (sigOf (.smap x)) true) (fun i =>
    let n := x.d.toNat % 8
    let w := fun (j : Nat) => (i.g.srcAt x.a j 0).toNat
    let (idx, off, scr, size) := (w 0, w 1, w 2, w 3)
    let depth := i.g.gates.length
    let limit := if depth == 0 then i.b.scrSize else i.g.calleeSize
    if off % 128 != 0 || scr % 1024 != 0 then .trap { cause := cMisaligned }
    else if size == 0 || size % 1024 != 0 then trapOp cIllegalOperand .a
    else if limit < scr + size then .park (mfault cBounds 0 .bind (some scr)) 1 [] [] s
    else if i.g.isStash n then trapOp cIllegalOperand .d
    else if i.b.inStash i.r.grp depth scr size then trapOp cIllegalOperand .a
    else match s.handleEntry i.b.core.die i.r.gref i.g.ctx idx with
      | (.error t, s) => .park (t, none) 1 [] [] s
      | (.ok e, s) =>
        if !e.attr.r then .park (mfault cProtection 1 .bind (some (e.vbase + off))) 1 [] [] s
        else if e.bound < off + size then .park (mfault cBounds 0 .bind (some (e.vbase + off))) 1 [] [] s
        else if (e.vbase + off) % 128 != 0 then Res.readIn (.trap { cause := cMisaligned }) s
        else
          let (id, s) := s.fresh
          let t : Stash := { id := id, grp := i.r.grp, depth := depth, scr := scr, size := size,
                             va := e.vbase + off, asid := i.g.ctx.asid, attr := e.attr, lines := [] }
          .done (((s.clearScr i.r.gref depth scr size).modBlock i.r.blk
            (fun b => { b with stashes := b.stashes ++ [t] })).modGroup i.r.gref
              (fun g => { g with x := g.x.set n (.stash id) })))

/-- The address at which an access of a split has faulted that is still to be done: parked, or to be replayed (R231,
R370). -/
def Split.faultVa (p : Split) : Option (BitVec 64) :=
  match p.st with
  | .parkedFault k => some k.va
  | _ => p.replay.map (·.va)

/-- Whether an earlier access of a group through a stash has not completed (R256): a load or atomic whose data is on its
way, a store that is to be acknowledged (log entry 68), an engine instruction, a copy-queue entry that has not read its
bytes, or a split, of a handler frame too, that has faulted within the stash and is parked or to be replayed. -/
def State.stashBusy (s : State) (r : GRef) (id : Nat) : Bool :=
  s.dies.any (fun d => d.cq.any (fun q => q.2.grp == r && q.2.src.x == .stash id && q.2.read < q.2.len)) ||
  (match s.stash? r.blk id, s.group? r with
    | some t, some g => g.loads.any (fun l => l.stash == some id) || !g.unacked.isEmpty ||
      (g.splits ++ g.frames.flatMap (·.splits)).any (fun o => (o.bind Split.faultVa).any (fun va =>
        t.va ≤ va.toNat && va.toNat < t.va + t.size))
    | _, _ => false) ||
  s.engines.any (fun e => e.grp == r && (match e.kind with
    | .copy d q _ _ => d.x == .stash id || q.x == .stash id
    | .tld _ q _ _ => q.x == .stash id
    | _ => false))

/-- A stash of a group ends (R256): its dirty bytes are written back, and the bytes that it covered read 0. -/
def State.stashUnmap (s : State) (r : GRef) (id : Nat) : State :=
  match s.stash? r.blk id with
  | some t => (s.stashEnd r.blk id).clearScr r t.depth t.scr t.size
  | none => s

/-- SUNMAP (R256): the dirty bytes are written back; the covered bytes then read 0. -/
def execSunmap (x : EF) (s : State) : Out :=
  let n := x.d.toNat % 8
  s.issue (fun i => { issueE (sigOf (.sunmap x)) true with
      field := if i.g.isStash n then none else some .d })
    (fun i => match i.g.x.getD n .unbound with
      | .stash id =>
        if s.stashBusy i.r.gref id then .wait
        else .done ((s.stashUnmap i.r.gref id).modGroup i.r.gref (fun g => { g with x := g.x.set n .unbound }))
      | _ => trapOp cIllegalOperand .d)

end Sys2Proof.Machine
end

