-- ==== Sys2Proof/Machine/Matrix.lean ====
section
/-! DEFINITION. The matrix engine: tiles, the matrix queue, batches, gangs and regions, 0xD2 to 0xDA, 0xDE
and 0xDF (17 R313 to R341, 06 R117 to R126). -/

namespace Sys2Proof.Machine

open Sys2Proof

/-- Format bytes (R117). -/
def isB8 (n : Nat) : Bool := (b8Of n).isSome
def isI8 (n : Nat) : Bool := n == 3 || n == 4
def isF16 (n : Nat) : Bool := n == 1 || n == 2
def isLut (n : Nat) : Bool := n == 6 || n == 7 || n == 8
/-- Whether operands of a format carry scales (R119). -/
def isScaled (n : Nat) : Bool := isB8 n || isLut n

/-- K of a pairing of A and B, none where it is refused (R316). -/
def pairK (lut : Bool) (a b : Nat) : Option Nat :=
  if lut then (if (isB8 a || isI8 a) && isLut b then some 128 else none)
  else if (isB8 a || isI8 a) && (isB8 b || isI8 b) then some 128
  else if (isF16 a && (isF16 b || isB8 b || isI8 b)) || ((isB8 a || isI8 a) && isF16 b) then some 64
  else none

/-- A field of `n` bits as a two's complement number. -/
def signedN (n x : Nat) : Int := if 2 ^ (n - 1) ≤ x then (x : Int) - 2 ^ n else x

/-- Element `k` of a run of a format (R117, R118). -/
def element (fmt : Nat) (bs : List Byte) (k : Nat) : FVal :=
  let byte := fun (i : Nat) => (bs.getD i 0).toNat
  if isF16 fmt then
    (if fmt == 1 then fp16 else bf16).decode (byte (2 * k) + 256 * byte (2 * k + 1))
  else match fmt with
    | 3 => FVal.ofInt (signedN 8 (byte k))
    | 4 => FVal.ofInt (byte k)
    | 6 => FVal.ofInt (if (byte (k / 8)).testBit (k % 8) then 1 else -1)
    | 7 => FVal.ofInt (signedN 2 (byte (k / 4) / 4 ^ (k % 4) % 4))
    | 8 => FVal.ofInt (signedN 4 (byte (k / 2) / 16 ^ (k % 2) % 16))
    | _ => match b8Of fmt with
      | some f => f.decode (byte k)
      | none => .nan false

/-- The bytes of B (R317). -/
def bBytes (fmt K : Nat) : Nat :=
  if isF16 fmt then K * 128
  else match fmt with | 6 => K * 8 | 7 => K * 16 | 8 => K * 32 | _ => K * 64

/-- Elements of a block (R120). -/
def blockLen (blk : Nat) : Nat := 16 * 2 ^ (blk % 4)

/-- Elements of a unit of K: the shorter block length, or a chunk of 8 (R121, R122). -/
def unitLen (fa fb : FmtRec) : Nat :=
  if isF16 fa.fmt || isF16 fb.fmt then 8
  else match isScaled fa.fmt, isScaled fb.fmt with
    | true, true => min (blockLen fa.blk) (blockLen fb.blk)
    | true, false => blockLen fa.blk
    | _, _ => blockLen fb.blk

/-- A sum scaled by a block scale (R119). -/
def scaleBy (v : FVal) (e : Option Nat) : FVal :=
  match e with
  | none => v
  | some 0xFF => .nan false
  | some n => v.scale ((n : Int) - 127)

/-- The exact sum of `n` products from element `k` (R121, R124). -/
def unitSum (a b : Nat → FVal) (k n : Nat) : FVal :=
  (range' k n).foldl (fun t i => (t.add .rne ((a i).mul (b i)).1).1) (.fin false 0 0)

/-- One unit added into an accumulator with one rounding; an exact zero leaves it (R121, R124). -/
def unitAdd (acc : Word) (sum : FVal) : Word :=
  match sum with
  | .fin _ 0 _ => acc
  | v => wd (fp32.round .rne ((fp32.decode acc.toNat).add .rne v).1).1

/-- One output element (R121, R122): units of `nb`, by rising K; `ea` and `eb` give the scale at k. -/
def mmaElem (K nb : Nat) (a b : Nat → FVal) (ea eb : Nat → Option Nat) (acc : Word) : Word :=
  (List.range (K / nb)).foldl (fun acc u =>
    unitAdd acc (scaleBy (scaleBy (unitSum a b (u * nb) nb) (ea (u * nb))) (eb (u * nb)))) acc

/-- The integer of an INT8 element. -/
def intOf (v : FVal) : Int := match v with | .fin n m _ => if n then -(m : Int) else m | _ => 0

/-- One output element of INT8 by INT8 (R123). -/
def mmaInt (K : Nat) (a b : Nat → FVal) (acc : Word) : Word :=
  acc + BitVec.ofInt 32 ((List.range K).foldl (fun t k => t + intOf (a k) * intOf (b k)) 0)

/-- A product on a whole tile (R336): `scr n` is byte n of the scratchpad. -/
def mmaTile (fa fb : FmtRec) (l : ALatch) (bRun : List Byte) (scr : Nat → Nat) (tile : List Word) :
    List Word :=
  let K := if isF16 fa.fmt || isF16 fb.fmt then 64 else 128
  let nb := unitLen fa fb
  (List.range 2048).map (fun e =>
    let i := e / 64
    let j := e % 64
    let row := l.rows.getD i []
    let a := fun k => element fa.fmt row k
    let b := fun k => element fb.fmt bRun (64 * k + j)
    let acc := tile.getD e 0
    if isI8 fa.fmt && isI8 fb.fmt then mmaInt K a b acc
    else
      let scale := fun (f : FmtRec) (x k : Nat) =>
        if isScaled f.fmt then some (scr (f.soff + x * f.stride + k / blockLen f.blk)) else none
      mmaElem K nb a b (scale fa (l.idx.getD i 0).toNat) (scale fb j) acc)

/-- The tile that queued work writes (R320). -/
def MWork.tile? : MWork → Option Nat
  | .tzero t => some t
  | .mgath _ _ _ => none
  | .mma t _ _ _ _ _ _ _ _ _ => some t

/-- Whether queued work is held in the rendezvous latch, and for which gang (R322). -/
def MWork.heldFor : MWork → Option Nat
  | .mma _ _ _ _ _ _ _ _ g true => g
  | _ => none

/-- Whether queued work has left the rendezvous latch and waits for its gang's pass, and for which gang (R322). -/
def MWork.passFor : MWork → Option Nat
  | .mma _ _ _ _ _ _ _ _ g false => g
  | _ => none

/-- Whether queued work is a gang's. -/
def MWork.ganged (w : MWork) : Bool := w.heldFor.isSome || w.passFor.isSome

/-- Executes one item of a group's matrix queue (R331, R335, R336). -/
def State.runItem (s : State) (r : GRef) (it : MItem) : State :=
  match s.blocks[r.blk]?, s.group? r with
  | some b, some g =>
    let s := match it.work with
      | .tzero t => s.modTile r.blk t (fun _ => tileZero)
      | .mgath lat bases idx =>
        let rows := bases.map (fun a => Memory.read b.scr a 128)
        s.modGroup r (fun g => { g with
          latches := modAt g.latches lat (fun l => { l with rows := rows, idx := idx }) })
      | .mma t lat boff _ fa fb _ _ _ _ =>
        let l := g.latches.getD lat { valid := false, rows := [], idx := [] }
        let K := if isF16 fa.fmt || isF16 fb.fmt then 64 else 128
        let bRun := Memory.read b.scr boff (bBytes fb.fmt K)
        s.modTile r.blk t (mmaTile fa fb l bRun (fun n => (Memory.get b.scr n).toNat))
    let s := s.modGroup r (fun g => { g with mq := g.mq.filter (fun x => x.id != it.id) })
    s.workDone r.blk it.id
  | _, _ => s

/-- The items at the head of a queue that can execute as one batch: to the first of a gang, all of the
batch of the first (R319, R322). -/
def Group.headRun (g : Group) : List MItem :=
  match g.mq with
  | [] => []
  | x :: _ => g.mq.takeWhile (fun y => y.batch == x.batch && !y.work.ganged)

/-- The instructions of the gang whose work stands at the head of a group's queue: the one pass over B that the unit makes
for all of them, once each stands at the head of its own queue (R319, R322). A member whose own head is another gang's
work does not hold the others up. -/
def State.gangPass (s : State) (r : GRef) : List (GRef × MItem) :=
  match s.blocks[r.blk]?, ((s.group? r).bind (fun g => g.mq.head?)).bind (fun it => it.work.passFor) with
  | some b, some gang =>
    let mates := (b.groups.zipIdx).filterMap (fun x =>
      (x.1.mq.find? (fun it => it.work.passFor == some gang)).map (fun it => ((⟨r.blk, x.2⟩ : GRef), it, x.1.mq.head?)))
    if mates.all (fun m => m.2.2.any (fun h => h.id == m.2.1.id || h.work.ganged)) then
      (mates.filter (fun m => m.2.2.any (fun h => h.id == m.2.1.id))).map (fun m => (m.1, m.2.1))
    else []
  | _, _ => []

/-- Batches whose instructions have all completed leave, in the order of their numbers (R319). -/
def popBatches (mq : List MItem) : List Nat → List Nat
  | [] => []
  | n :: ns => if mq.any (fun x => x.batch == some n) then n :: ns else popBatches mq ns

/-- Waiters in `MWAIT` and `MFENCE` whose condition holds (R337, R338). -/
def State.matrixWaiters (s : State) (r : GRef) : List SRef :=
  s.waiters [r] (fun q w => s.mayWake q.gref && (match s.group? r with
    | some g => (match w with
      | .mwait n => !g.batches.contains n
      | .mfence => g.batches.length < 4
      | _ => false)
    | none => false))

/-- The faults that an `MWAIT` may deliver (R338, R402). -/
def mwaitFault (f : EFault) : Bool := f.matrix || f.obj.isNone

/-- A waiter in `MWAIT` completes, with the delivery of one fault; one in `MFENCE` issues again (R337,
R338). -/
def State.matrixWake (s : State) (q : SRef) : State :=
  match s.wakeOf q, s.group? q.gref with
  | some (.mwait _, next), some g => match pickFault g.efaults mwaitFault with
    | some f => (s.deliverFault q f next).after q
    | none => s.wake q
  | some (.mfence, _), _ => ((s.modSplit q (fun p => { p with st := .ready })).after q).wokenAsync q
  | _, _ => s

/-- The batches of a group that are complete leave, and their waiters resume. -/
def State.batchesOut (s : State) (r : GRef) : State :=
  let t := s.modGroup r (fun g => { g with batches := popBatches g.mq g.batches })
  (t.matrixWaiters r).foldl (fun s q => s.matrixWake q) t

/-- The matrix unit works on a group's queue (R319): the instructions at its head that belong to one batch, or the pass of
the gang there (R322), are applied, batches that are complete leave, and their waiters resume. -/
def execMatrixBatchComplete (r : GRef) (s : State) : Out :=
  match s.group? r with
  | none => .fault (.notEnabled "MATRIX_BATCH_COMPLETE")
  | some g =>
    let run := g.headRun.map (fun it => (r, it)) ++ s.gangPass r
    let t := run.foldl (fun s x => s.runItem x.1 x.2) s
    let t := (r :: (run.map (·.1)).filter (· != r)).foldl (fun s q => s.batchesOut q) t
    stepIf "MATRIX_BATCH_COMPLETE"
      (!run.isEmpty || popBatches g.mq g.batches != g.batches || !(s.matrixWaiters r).isEmpty) t

/-- The work pending on a tile of a block: identity and group (R320). -/
def State.tileWork (s : State) (blk t : Nat) : List (Nat × Option Nat) :=
  (s.engines.filterMap (fun e => match e.kind with
    | .tld n _ _ _ => if e.grp.blk == blk && n == t then some (e.id, none) else none
    | _ => none)) ++
  (match s.blocks[blk]? with
   | some b => ((b.groups.zipIdx).flatMap (fun x => x.1.mq.filterMap (fun it =>
      if it.work.tile? == some t then some (it.id, some x.2) else none)))
   | none => [])

/-- The pending work of other groups and of every `TLD` that was issued before `id` (R320). -/
def State.tileOthers (s : State) (r : GRef) (t id : Nat) : Bool :=
  (s.tileWork r.blk t).any (fun w => w.1 < id && w.2 != some r.grp)

/-- An instruction meets pending work: it waits, or traps under f = 1 (R320). -/
def meet (i : Iss) (busy : Bool) (o : Opnd) (r : Res) : Res :=
  if busy then (if hintFt i.cur.hints then trapOp cEmptyReg o else .wait) else r

/-- A group's queue has room (R319). -/
def Iss.room (i : Iss) (r : Res) : Res := if 16 ≤ i.g.mq.length then .wait else r

/-- An instruction joins the group's open batch (R319). -/
def State.enqueue (s : State) (r : GRef) (w : MWork) : State :=
  let (n, s) := s.fresh
  s.modGroup r (fun g => { g with mq := g.mq ++ [{ id := n, work := w, batch := none, level := g.level }] })

/-- TZERO (R331). -/
def execTzero (x : EF) (s : State) : Out :=
  s.issue (fun _ => issueE (sigOf (.tzero x)) true) (fun i => i.inCall (i.room (
    meet i (s.tileOthers i.r.gref x.d.toNat s.nextId) .d
      (.done (s.enqueue i.r.gref (.tzero x.d.toNat))))))

/-- ACQ and REL of m (R71). -/
def mAcq (x : EF) : Bool := x.m.getLsbD 5
def mRel (x : EF) : Bool := x.m.getLsbD 4

/-- The acquire of an engine instruction (R329, R414). -/
def State.engAcquire (s : State) (i : Iss) (x : EF) : State :=
  if mAcq x then s.acquireAt i.r (scopeOf x) else s

/-- An empty source met where the description names it (R9, R330). -/
def Issue.orEmpty (u : Issue) (i : Iss) (r : Res) : Res := (u.empties i).getD r

/-- How MGATH issues: b is read from every lane, after the check of the control word (R335). -/
def mgathIssue (x : EF) : Issue :=
  { issueE (sigOf (.mgath x)) true with bMask := some feFull, free := true }

/-- MGATH (R335). -/
def execMgath (x : EF) (s : State) : Out :=
  s.issue (fun _ => mgathIssue x) (fun i => i.inCall (
    let c := (i.g.srcAt x.a 2 0).toNat
    let bases := lanes.map (fun L =>
      (i.g.srcAt x.a 0 0).toNat + (i.g.vGet x.b.toNat L).toNat * (i.g.srcAt x.a 1 0).toNat)
    let at' := fun (L : Nat) => resolveScr i.b i.g i.r.gref (bases.getD L 0 : Nat) 128 .engR
    if c / 16 != 0 then trapOp cIllegalOperand .a
    else (mgathIssue x).orEmpty i (
    if bases.any (fun b => b % 16 != 0) then .trap { cause := cMisaligned }
    else match firstFault (lanes.map (fun L => (L, at' L))) with
      | some p => .park p.2 (maskOf (fun L => match at' L with | .error _ => true | .ok _ => false)) [] [] s
      | none => i.room (
        let s := s.engAcquire i x
        let s := s.modGroup i.r.gref (fun g => { g with
          latches := modAt g.latches (c % 2) (fun l => { l with valid := true }) })
        .done (s.enqueue i.r.gref (.mgath (c % 2) bases (lanes.map (fun L => i.g.vGet x.b.toNat L))))))))

/-- A record of a format block (R315). -/
def fmtRec (bs : List Byte) (o : Nat) : FmtRec :=
  { fmt := fieldN bs o 1, blk := fieldN bs (o + 1) 1, stride := fieldN bs (o + 2) 2,
    soff := fieldN bs (o + 4) 4 }

/-- Whether a format block and its pairing hold the values that R315 and R316 admit. -/
def fmtOk (lut : Bool) (bs : List Byte) : Bool :=
  let a := fmtRec bs 0
  let b := fmtRec bs 8
  (pairK lut a.fmt b.fmt).isSome && fieldN bs 16 8 == 0 && fieldN bs 24 8 == 0 &&
  (!isScaled a.fmt || a.blk < 3) && (!isScaled b.fmt || b.blk < 3)

/-- The indices that a latch will hold when an instruction issued now executes (R318, R335). -/
def Group.latchIdx (g : Group) (lat : Nat) : List Word :=
  match (g.mq.filterMap (fun it => match it.work with
      | .mgath l _ idx => if l == lat then some idx else none
      | _ => none)).getLast? with
  | some idx => idx
  | none => ((g.latches[lat]?).map (·.idx)).getD []

/-- The scale bytes that an operand uses: first bytes and lengths (R315, R317). -/
def scaleRuns (f : FmtRec) (K : Nat) (xs : List Nat) : List (Nat × Nat) :=
  if isScaled f.fmt then xs.map (fun x => (f.soff + x * f.stride, max 1 (K / blockLen f.blk))) else []

/-- The first fault among ranges of the scratchpad. -/
def Iss.scrFault (i : Iss) (rs : List (Nat × Nat)) : Option MFault :=
  rs.findSome? (fun p => match resolveScr i.b i.g i.r.gref (p.1 : Nat) p.2 .engR with
    | .error f => some f
    | .ok _ => none)

/-- The instructions held for a gang: group index and item (R322). -/
def Block.heldIn (b : Block) (gang : Nat) : List (Nat × MItem) :=
  (b.groups.zipIdx).flatMap (fun x => x.1.mq.filterMap (fun it =>
    if it.work.heldFor == some gang then some (x.2, it) else none))

/-- Whether two ganged instructions may share a pass over B (R322). -/
def MWork.mates : MWork → MWork → Bool
  | .mma t _ bo fo _ _ fbs lut _ _, .mma t' _ bo' fo' _ _ fbs' lut' _ _ =>
    lut == lut' && bo == bo' && fo == fo' && fbs == fbs' && t != t'
  | _, _ => false

/-- Removes the instructions held for a gang: their groups receive `GANG_MISMATCH`, and their batches
complete without them (R322). -/
def State.dropGang (s : State) (blk gang : Nat) : State :=
  match s.blocks[blk]? with
  | none => s
  | some b => (b.heldIn gang).foldl (fun s h =>
      let r : GRef := ⟨blk, h.1⟩
      let s := s.modGroup r (fun g =>
        let mq := g.mq.filter (fun it => it.id != h.2.id)
        { g with mq := mq, batches := popBatches mq g.batches })
      (s.pushFault r { cause := cGangMismatch } none true).workDone blk h.2.id) s

/-- MMA and MLUT (R336), with the rendezvous checks of a ganged one (R322), which under f = 0 meets the work on its
tile in the latch (R320). -/
def product (lut : Bool) (sig : OpSig) (x : EF) (s : State) : Out :=
  s.issue (fun _ => issueE sig true) (fun i => i.inCall (
    let c := (i.g.srcAt x.a 0 0).toNat
    let boff := (i.g.srcAt x.a 1 0).toNat
    let foff := (i.g.srcAt x.a 2 0).toNat
    let lat := c % 2
    let ganged := c / 2 % 2 == 1
    let gang := c / 4 % 4
    let tile := x.d.toNat
    if c / 16 != 0 || (!ganged && gang != 0) then trapOp cIllegalOperand .a
    else if foff % 32 != 0 then .trap { cause := cMisaligned }
    else match i.scrFault [(foff, 32)] with
      | some f => .park f 1 [] [] s
      | none =>
        let bs := Memory.read i.b.scr foff 32
        let fa := fmtRec bs 0
        let fb := fmtRec bs 8
        let K := (pairK lut fa.fmt fb.fmt).getD 128
        if !fmtOk lut bs then trapOp cIllegalOperand .other
        else if !(((i.g.latches[lat]?).map (·.valid)).getD false) then trapOp cIllegalOperand .a
        else if boff % 128 != 0 then .trap { cause := cMisaligned }
        else match i.scrFault ((boff, bBytes fb.fmt K) ::
            (scaleRuns fa K ((i.g.latchIdx lat).map (·.toNat)) ++ scaleRuns fb K (List.range 64))) with
          | some f => .park f 1 [] [] s
          | none =>
            let w : MWork := .mma tile lat boff foff fa fb bs lut (if ganged then some gang else none) ganged
            let go := fun (s : State) => Res.done ((s.engAcquire i x).enqueue i.r.gref w)
            if ganged then
              let held := i.b.heldIn gang
              if !((i.b.gang.getD gang 0).getLsbD i.r.grp) || held.any (fun h => h.1 == i.r.grp) then
                .trap { cause := cGangMismatch }
              else if held.any (fun h => !(h.2.work.mates w)) then
                .moved ((s.dropGang i.r.blk gang).trapAt i.r { cause := cGangMismatch } i.cur.unit)
              else if hintFt i.cur.hints && s.tileOthers i.r.gref tile s.nextId then trapOp cEmptyReg .d
              else i.room (go s)
            else meet i (s.tileOthers i.r.gref tile s.nextId) .d (i.room (go s))))

/-- MMA (R336). -/
def execMma (x : EF) (s : State) : Out := product false (sigOf (.mma x)) x s
/-- MLUT (R126, R336). -/
def execMlut (x : EF) (s : State) : Out := product true (sigOf (.mlut x)) x s

/-- The instruction leaves the rendezvous latch; it executes in its group's queue (R319, R322). -/
def MWork.release : MWork → MWork
  | .mma t l bo fo fa fb bs lut g _ => .mma t l bo fo fa fb bs lut g false
  | w => w

/-- The latch releases a full gang for one pass over B (R322): it holds one from every member, two at least, and each
has met the work on its tile. -/
def execGangRelease (blk gang : Nat) (s : State) : Out :=
  match s.blocks[blk]? with
  | none => .fault (.notEnabled "GANG_RELEASE")
  | some b =>
    let held := b.heldIn gang
    let members := (List.range 16).filter (fun g => (b.gang.getD gang 0).getLsbD g)
    let ok := b.st == .resident && 2 ≤ members.length &&
      members.all (fun g => held.any (fun h => h.1 == g)) &&
      held.all (fun h => !(s.tileOthers ⟨blk, h.1⟩ (h.2.work.tile?.getD 0) h.2.id))
    stepIf "GANG_RELEASE" ok (held.foldl (fun s h => s.modGroup ⟨blk, h.1⟩ (fun g => { g with
      mq := g.mq.map (fun it => if it.id == h.2.id then { it with work := it.work.release } else it) })) s)

/-- The open batch closes under a number (R319): a batch whose instructions have all completed is not outstanding. -/
def Group.closeBatch (g : Group) (n : Nat) : Group :=
  let mq := g.mq.map (fun it => if it.batch.isNone then { it with batch := some n } else it)
  { g with nextBatch := (n + 1) % 16, mq := mq, batches := popBatches mq (g.batches ++ [n]) }

/-- MFENCE (R319, R337). -/
def execMfence (x : EF) (s : State) : Out :=
  s.issue (fun _ => issueE (sigOf (.mfence x)) false) (fun i => i.inCall (
    if 4 ≤ i.g.batches.length then .block .mfence s
    else
      let n := i.g.nextBatch % 16
      .done (s.modGroup i.r.gref (fun g => (g.sSet (sNum x.d) (wd n)).closeBatch n))))

/-- MWAIT (R338): one pending engine fault is delivered when it completes. -/
def execMwait (x : EF) (s : State) : Out :=
  s.issue (fun _ => issueE (sigOf (.mwait x)) false) (fun i => i.inCall (
    let n := bitsW (i.g.src x.a 0) 3 0
    if i.g.batches.contains n then .block (.mwait n) s
    else match pickFault i.g.efaults mwaitFault with
      | some f => .moved (s.deliverFault i.r f i.cur.next)
      | none => .done s))

/-- GANG (R321, R339). -/
def execGang (x : EF) (s : State) : Out :=
  s.issue (fun _ => issueE (sigOf (.gang x)) false) (fun i => i.inCall (
    let w := i.g.src x.a 0
    let id := x.m.toNat % 4
    if bitsW w 31 16 != 0 || 2 ^ i.b.groups.length ≤ w.toNat || 6 < countLanes w then
      trapOp cIllegalOperand .a
    else if !(i.b.heldIn id).isEmpty then .trap { cause := cGangMismatch }
    else .done (s.modBlock i.r.blk (fun b => { b with gang := b.gang.set id (w.setWidth 16) }))))

/-- REGN (R323, R340). -/
def execRegn (x : EF) (s : State) : Out :=
  s.issue (fun _ => issueE (sigOf (.regn x)) false) (fun i => i.inCall (
    if !i.g.fused then .trap { cause := cSplitLimit, detail := 2 }
    else if !i.g.mq.isEmpty || !i.g.batches.isEmpty then .wait
    else .done (s.modGroup i.r.gref (fun g =>
      { g with rgnpc := i.cur.unit, rgnOpen := true, rgncnt := g.rgncnt + 1 }))))

/-- A tile error that waits for a `TMOV` or `TST` of the tile (R326). -/
def tileFault (t : Nat) (f : EFault) : Bool := f.matrix && f.obj == some t

/-- The end of a `TMOV` or `TST`: a tile error is delivered once it has read the tile (R326; DEDUCED, log
entry 16). -/
def Iss.tileDone (i : Iss) (t : Nat) (s : State) : Res :=
  match pickFault i.g.efaults (tileFault t) with
  | some f => .moved (s.deliverFault i.r f i.cur.next)
  | none => .done s

/-- TMOV from a tile (R320, R334). -/
def execTmovFromTile (x : EF) (s : State) : Out :=
  let count := 2 ^ (x.m.toNat % 4)
  let tile := x.a.toNat
  s.issue (fun _ => { issueE (sigOf (.tmovFromTile x)) true with vd := range' x.d.toNat count })
    (fun i => i.inCall (
      let j := bitsW (i.g.src x.b 0) 5 0
      let act := i.cur.active
      if 64 < j + count then trapOp cIllegalOperand .b
      else
        let ws := (s.tileWork i.r.blk tile).map (·.1)
        let t : PendTmov :=
          { tile := tile, waits := ws, d := x.d.toNat, count := count, col := j, lanes := act, level := i.g.level }
        if ws.isEmpty then
          i.tileDone tile (s.modGroup i.r.gref (tmovApply (i.b.tiles.getD tile []) · t))
        else if hintFt i.cur.hints then trapOp cEmptyReg .a
        else i.tileDone tile (s.modGroup i.r.gref (fun g => { g with
          fe := (range' x.d.toNat count).foldl (fun fe n => modAt fe n (· &&& ~~~act)) g.fe,
          tmovs := g.tmovs ++ [t] }))))

/-- How TMOV into a tile issues: its v sources come after the work on the tile (R334). -/
def tmovIssue (x : EF) : Issue := { issueE (sigOf (.tmovToTile x)) true with free := true }

/-- TMOV into a tile (R320, R334). -/
def execTmovToTile (x : EF) (s : State) : Out :=
  let count := 2 ^ (x.m.toNat % 4)
  let tile := x.d.toNat
  s.issue (fun _ => tmovIssue x) (fun i => i.inCall (
    let j := bitsW (i.g.src x.b 0) 5 0
    if 64 < j + count then trapOp cIllegalOperand .b
    else meet i (!(s.tileWork i.r.blk tile).isEmpty) .d ((tmovIssue x).orEmpty i (i.tileDone tile
      (s.modTile i.r.blk tile (fun t => (lanesOf i.cur.active).foldl (fun t L =>
        (List.range count).foldl (fun t c =>
          t.set (64 * L + j + c) (i.g.vGet (x.a.toNat + c) L)) t) t))))))

/-- The check of a whole range through a binding, then of each line of it (R332, R333): the first fault, or
the places of the lines. -/
def State.tileRange (s : State) (i : Iss) (q : XReg) (o : Int) (k : AccKind) :
    Except MFault (List Loc) × State :=
  match s.resolveX i.r.gref i.b i.g q o 8192 k with
  | (.error f, s) => (.error f, s)
  | (.ok _, s) =>
    (List.range 64).foldl (fun (p : Except MFault (List Loc) × State) (c : Nat) =>
      match p.1 with
      | .error f => (.error f, p.2)
      | .ok ls => match p.2.resolveX i.r.gref i.b i.g q (o + 128 * c) 128 k with
        | (.error f, s) => (.error f, s)
        | (.ok l, s) => (.ok (ls ++ [l]), s)) (.ok [], s)

/-- A barrier object named by an engine instruction, checked as `MBARV` checks one (R400). -/
def State.engObj (s : State) (i : Iss) (w : Word) : Except Res Nat :=
  match s.objAt i w .engW with
  | .error (.park f _ _ _ s) => .error (.park f 1 [] [] s)
  | .error r => .error r
  | .ok off => if objValid (s.ownRead i.r.gref off 16) then .ok off else .error (trapOp cIllegalOperand .a)

/-- TLD (R332). -/
def execTld (x : EF) (s : State) : Out :=
  s.issue (fun _ => issueE (sigOf (.tld x)) true) (fun i => i.inCall (
    let o := (i.g.srcAt x.a 0 0).toInt
    if o % 128 != 0 then .trap { cause := cMisaligned }
    else match s.engObj i (i.g.srcAt x.a 1 0) with
      | .error r => r
      | .ok off => match s.rebind i.r.gref (x.b.toNat % 8) .engR with
        | (.error f, s) => .park f 1 [] [] s
        | (.ok q, s) => match s.tileRange i q o .engR with
          | (.error f, s) => .park f 1 [] [] s
          | (.ok _, s) => meet i (!(s.tileWork i.r.blk x.d.toNat).isEmpty) .d (
            let s := s.engAcquire i x
            let (id, s) := s.fresh
            .done { s with engines := s.engines ++ [
              { id := id, grp := i.r.gref, sp := i.r.sp, depth := i.g.gates.length, level := i.g.level,
                kind := .tld x.d.toNat ⟨q, o⟩ 0 false, obj := off, rel := false, scope := scopeOf x,
                asid := i.g.ctx.asid, fdom := i.g.ctx.fdom, die := i.b.core.die, wait := none, began := false }] })))

/-- TST (R329, R333). -/
def execTst (x : EF) (s : State) : Out :=
  let tile := x.d.toNat
  s.issue (fun _ => issueE (sigOf (.tst x)) true) (fun i => i.inCall (
    let o := (i.g.src x.a 0).toInt
    if o % 128 != 0 then .trap { cause := cMisaligned }
    else if mRel x && !s.releaseReady i.r then .waitRel (scopeOf x)
    else match s.rebind i.r.gref (x.b.toNat % 8) .engW with
      | (.error f, s) => .park f 1 [] [] s
      | (.ok q, s) => match s.tileRange i q o .engW with
        | (.error f, s) => .park f 1 [] [] s
        | (.ok ls, s) =>
          if ls.any (fun l => s.locWaits i.g l 128) then .waitOn (ls.flatMap (fun l => i.g.emptyWords l 128)) []
          else meet i (!(s.tileWork i.r.blk tile).isEmpty) .d (
            let t := i.b.tiles.getD tile []
            let s := (ls.zipIdx).foldl (fun (s : State) p =>
              (s.writeLoc i.r.gref p.1 ((range' (32 * p.2) 32).flatMap (fun e =>
                bytesOfNat 4 (t.getD e 0).toNat)) AOrd.weak none).winDrop i p.1 128) s
            i.tileDone tile (if mRel x then s.fenceRel i.r.gref (scopeOf x) else s))))

/-- A run of a tile load lands (R332). -/
def execTldRunLanded (id bytes : Nat) (s : State) : Out :=
  match s.engine? id with
  | some op => match op.kind with
    | .tld _ _ done _ =>
      stepIf "TLD_RUN_LANDED" (s.resident op.grp.blk && op.wait.isNone && 0 < bytes && done + bytes ≤ 8192)
        (s.landRun op bytes)
    | _ => .fault (.notEnabled "TLD_RUN_LANDED")
  | none => .fault (.notEnabled "TLD_RUN_LANDED")

/-- Work of a group is thrown away (R324 to R326): the tiles that it would have written are invalidated, the `TMOV`s that
wait on it fill with the canonical NaN, and its batches complete without it. -/
def State.discard (s : State) (r : GRef) (p : MItem → Bool) : State :=
  match s.group? r with
  | none => s
  | some g =>
    let gone := g.mq.filter p
    let s := s.modGroup r (fun g => { g with mq := g.mq.filter (fun it => !(p it)) })
    let s := gone.foldl (fun s it => match it.work.tile? with
      | some t => s.modTile r.blk t (fun _ => tileInvalid)
      | none => s) s
    (gone.foldl (fun s it => s.workGone r.blk it.id) s).modGroup r (fun g => { g with
      batches := popBatches g.mq g.batches })

/-- A group's whole matrix state is thrown away (R325, 1 to 4). -/
def State.discardAll (s : State) (r : GRef) : State :=
  (s.discard r (fun _ => true)).modGroup r (fun g => { g with
    batches := [], latches := g.latches.map (fun l => { l with valid := false }) })

/-- The continuation of a restart (R325, 5): one split at RGNPC with the live lanes. The unit of a split that is parked is
dropped, and FE bits of its unfinished lanes stay clear: DESIGN CHOICE (log entry 101). -/
def Group.restartNow (g : Group) : Group :=
  { g with
    restart := false,
    splits := [some { pc := g.rgnpc, mask := g.live, st := .ready, rlist := [], mstk := [],
                      replay := none,
                      lastIssue := g.valid.foldl (fun n x => max n x.2.lastIssue) 0 }, none, none, none] }

/-- The restart of a group (R325): what is left of its matrix work goes, and it continues at RGNPC. -/
def State.restart (s : State) (r : GRef) : State := (((s.discardAll r).dropLatch r).modGroup r Group.restartNow)

/-- Whether a group restarts at its next issue or at once, and not when another wait ends (R324): level 0,
and some split can issue, waits for an operand, or waits in `MWAIT` or `MFENCE`. -/
def Group.restartDue (g : Group) : Bool :=
  g.restart && g.level == 0 && g.valid.any (fun x => match x.2.st with
    | .ready | .operand _ _ => true
    | .blocked w _ => (match w with | .mwait _ | .mfence | .yielded => true | _ => false)
    | _ => false)

/-- `ENGINE_RESET` for a group that is not restarted (R326). -/
def State.engineResetTo (s : State) (r : GRef) : State :=
  s.modGroup r (fun g => { g with async := g.async ++ [(cEngineReset, 0)] })

/-- An engine reset of a core (R326). -/
def execMatrixEngineReset (c : CoreId) (s : State) : Out :=
  let t := (s.groupsOn c).foldl (fun s r =>
    match s.group? r with
    | none => s
    | some g =>
      let s := s.discardAll r
      if g.ended then s
      else if g.rgnOpen then s.modGroup r (fun g => { g with restart := true })
      else match s.blocks[r.blk]? with
        | some b => if b.tiles.isEmpty then s else s.engineResetTo r
        | none => s) s
  let t := (s.blocksOn c).foldl (fun s n =>
    s.modBlock n (fun b => { b with tiles := b.tiles.map (fun _ => tileInvalid) })) t
  stepIf "MATRIX_ENGINE_RESET" (c.die < 4 && c.cluster < 3 && c.core < 256) (t.report (.engineFault c))

/-- An uncorrectable error in a tile (R326). -/
def execTileEccError (blk tile : Nat) (s : State) : Out :=
  match s.blocks[blk]? with
  | none => .fault (.notEnabled "TILE_ECC_ERROR")
  | some b =>
    let writes := fun (it : MItem) => it.work.tile? == some tile
    let t := (s.groupsOf blk).foldl (fun s r =>
      match s.group? r with
      | none => s
      | some g =>
        if g.ended then s.discard r writes
        else
          let s := s.discard r writes
          if g.rgnOpen then s.modGroup r (fun k => { k with restart := k.restart || g.mq.any writes })
          else s.pushFault r { cause := cEcc } (some tile) true) s
    stepIf "TILE_ECC_ERROR" (b.st == .resident && tile < b.tiles.length)
      (t.modTile blk tile (fun _ => tileInvalid))

end Sys2Proof.Machine
end

