-- ==== Sys2Proof/Machine/Engine.lean ====
section
/-! DEFINITION. The copy and row engines, 0xD0, 0xD1 and 0xDB to 0xDD, with the steps that they take in the
background (21 R400 to R417). -/

namespace Sys2Proof.Machine

open Sys2Proof

/-- The instructions that R401 counts. -/
def EngKind.counted : EngKind → Bool
  | .tld _ _ _ _ => false
  | _ => true

/-- Whether a group has 64 of them under way (R401). -/
def State.engFull (s : State) (r : GRef) : Bool :=
  64 ≤ (s.engines.filter (fun e => e.grp == r && e.kind.counted)).length

/-- A copy's length is 1 to 2^24 (R404, R406). -/
def copyLen (w : Word) : Bool := 1 ≤ w.toNat && w.toNat ≤ 2 ^ 24

/-- The check of an endpoint's range at issue (R404): its binding, or the fault. -/
def State.endCheck (s : State) (i : Iss) (x : Nat) (o : Int) (n : Nat) (k : AccKind) :
    Except MFault XReg × State :=
  match s.rebind i.r.gref x k with
  | (.error f, s) => (.error f, s)
  | (.ok q, s) => match q with
    | .unbound => (.error (mfault cProtection 0 k none), s)
    | .stash _ => (.error (mfault cProtection 5 k (some ((i.b.bindBase q : Int) + o))), s)
    | .scratch => match resolveScr i.b i.g i.r.gref o n k with
      | .error f => (.error f, s)
      | .ok _ => (.ok q, s)
    | .cluster => match s.resolveClu i.b i.g o n k with
      | .error f => (.error f, s)
      | .ok (.scr _ _) => (.ok q, s)
      | .ok _ => (.error (mfault cProtection 3 k (some o)), s)
    | .handle h =>
      let b : Int := (h.boff : Int) + o
      if b < 0 || (h.bound : Int) < b + n then (.error (mfault cBounds 0 k (some (h.vbase + b))), s)
      else if !(h.attr.allows k) then (.error (mfault cProtection 1 k (some (h.vbase + b))), s)
      else (.ok q, s)
    | .callerTable base size =>
      if o < 0 || (size : Int) < o + n then (.error (mfault cBounds 0 k (some (base + o))), s)
      else (.ok q, s)

/-- CPY (R404): checked at issue, then done in the background. -/
def execCpy (x : EF) (s : State) : Out :=
  s.issue (fun _ => issueE (sigOf (.cpy x)) true) (fun i =>
    let w := fun (j : Nat) => i.g.srcAt x.a j 0
    let len := (w 2).toNat
    if !copyLen (w 2) then trapOp cIllegalOperand .a
    else match s.engObj i (w 3) with
      | .error r => r
      | .ok off => match s.endCheck i (x.b.toNat % 8) (w 0).toInt len .engW with
        | (.error f, s) => .park f 1 [] [] s
        | (.ok d, s) => match s.endCheck i (x.b.toNat / 8) (w 1).toInt len .engR with
          | (.error f, s) => .park f 1 [] [] s
          | (.ok q, s) =>
            if s.engFull i.r.gref then .wait
            else
              let s := s.engAcquire i x
              let (id, s) := s.fresh
              .done { s with engines := s.engines ++ [
                { id := id, grp := i.r.gref, sp := i.r.sp, depth := i.g.gates.length, level := i.g.level,
                  kind := .copy ⟨d, (w 0).toInt⟩ ⟨q, (w 1).toInt⟩ len 0, obj := off, rel := mRel x,
                  scope := scopeOf x, asid := i.g.ctx.asid, fdom := i.g.ctx.fdom, die := i.b.core.die, wait := none,
                  began := false }] })

/-- The fields of ROUTE (R406). -/
def routeRemote (w : Word) : Bool := w.getLsbD 31
def routeQueue (w : Word) : Nat := bitsW w 19 16
def routeDie (w : Word) : Nat := bitsW w 13 12
def routeDev (w : Word) : Nat := bitsW w 9 0

/-- Whether ROUTE holds its limits (R406). -/
def routeOk (w : Word) : Bool :=
  w &&& 0x7FF0CC00 == 0 && (routeRemote w || routeDev w == 0)

/-- Whether the space of a handle agrees with ROUTE (R406). -/
def routeAgrees (w : Word) (a : Attr) : Bool :=
  if routeRemote w then a.space == 3 && a.dev == routeDev w && a.die == routeDie w
  else a.space < 2

/-- The checks of a handle that a queue entry names (R406): `flag` marks the flag handle. -/
def State.cpqHandle (s : State) (i : Iss) (route : Word) (idx off n : Nat) (flag : Bool) :
    Except Res HandleX × State :=
  match s.handleEntry i.b.core.die i.r.gref i.g.ctx idx with
  | (.error t, s) => (.error (.park ({ t with acc := AccKind.engW.code }, none) 1 [] [] s), s)
  | (.ok e, s) =>
    let va : Int := (e.vbase : Int) + off
    if !(routeAgrees route e.attr) then (.error (trapOp cIllegalOperand .a), s)
    else if !(if flag then e.attr.a else e.attr.w) then
      (.error (.park (mfault cProtection 1 .engW (some va)) 1 [] [] s), s)
    else if flag && off % 4 != 0 then (.error (.trap { cause := cMisaligned }), s)
    else if e.bound < off + n then (.error (.park (mfault cBounds 0 .engW (some va)) 1 [] [] s), s)
    else (.ok { index := idx, boff := off, vbase := e.vbase, bound := e.bound, attr := e.attr,
                frame := none, limit := 0, lazy := false }, s)

/-- The flag handle of a queue entry, where one is named (R406). -/
def State.cpqFlag (s : State) (i : Iss) (w : Nat → Word) : Except Res (Option (HandleX × Word)) × State :=
  if w 5 == BitVec.allOnes 32 then (.ok none, s)
  else match s.cpqHandle i (w 0) (w 5).toNat (w 6).toNat 4 true with
    | (.error r, s) => (.error r, s)
    | (.ok h, s) => (.ok (some (h, w 7)), s)

/-- The local object of a queue entry, where one is named (R406). -/
def State.cpqObj (s : State) (i : Iss) (w : Word) : Except Res (Option Nat) :=
  if w == BitVec.allOnes 32 then .ok none
  else match s.engObj i w with
    | .error r => .error r
    | .ok off => .ok (some off)

/-- The entries of a copy queue. -/
def Die.queue (d : Die) (q : Nat) : List CpqEntry :=
  (d.cq.filter (fun x => x.1 == q)).map (·.2)

/-- An entry joins its queue (R406). -/
def State.enterCpq (s : State) (die q : Nat) (e : CpqEntry) : State :=
  s.modDie die (fun d => { d with cq := d.cq ++ [(q, e)] })

/-- CPQ (R406). -/
def execCpq (x : EF) (s : State) : Out :=
  s.issue (fun _ => issueE (sigOf (.cpq x)) true) (fun i =>
    let w := fun (j : Nat) => i.g.srcAt x.a j 0
    let len := (w 4).toNat
    if !routeOk (w 0) || !copyLen (w 4) then trapOp cIllegalOperand .a
    else match s.cpqObj i (i.g.src x.d 0) with
      | .error r => r
      | .ok obj => match s.endCheck i (x.b.toNat % 8) (w 3).toInt len .engR with
        | (.error f, s) => .park f 1 [] [] s
        | (.ok q, s) => match s.cpqHandle i (w 0) (w 1).toNat (w 2).toNat len false with
          | (.error r, _) => r
          | (.ok d, s) => match s.cpqFlag i w with
            | (.error r, _) => r
            | (.ok flag, s) =>
              let s := s.engAcquire i x
              let (id, s) := s.fresh
              let e : CpqEntry :=
                { id := id, grp := i.r.gref, level := i.g.level, fdom := i.g.ctx.fdom, depth := i.g.gates.length,
                  src := ⟨q, (w 3).toInt⟩, len := len, read := 0, landed := 0, remote := routeRemote (w 0), recvDie := routeDie (w 0), dst := d,
                  flag := flag, obj := obj, rel := mRel x,
                  scope := if routeRemote (w 0) then 5 else scopeOf x, asid := i.g.ctx.asid, data := [],
                  started := false, wait := none }
              let die := i.b.core.die
              let n := routeQueue (w 0)
              if 64 ≤ ((s.die die).queue n).length then .block (.cpq n e) s
              else .done (s.enterCpq die n e))

/-- A waiting `CPQ` enters its entry (R406), where it stands in a handler frame too (R367). -/
def execCpqSlotFree (r : SRef) (s : State) : Out :=
  let die := (s.coreOf r.blk).die
  match (s.waitsOf r).find? (fun x => match x.2.1 with
      | .cpq q _ => ((s.die die).queue q).length < 64
      | _ => false) with
  | some (j, .cpq q e, _) => stepIf "CPQ_SLOT_FREE" (s.mayWake r.gref) ((s.enterCpq die q e).wakeAt r j)
  | _ => .fault (.notEnabled "CPQ_SLOT_FREE")

/-- The last run or row of an instruction with REL waits for what its release orders (R414). -/
def State.relWaits (s : State) (op : EngOp) : Bool := op.rel && !(s.priorDone op.grp op.id)

/-- A run of a copy lands (R404). -/
def execCopyRunLanded (id bytes : Nat) (s : State) : Out :=
  match s.engine? id with
  | some op => match op.kind with
    | .copy _ _ len done =>
      stepIf "COPY_RUN_LANDED" (s.resident op.grp.blk && op.wait.isNone && 0 < bytes && done + bytes ≤ len &&
          !(done + bytes == len && s.relWaits op))
        (s.landRun op bytes)
    | _ => .fault (.notEnabled "COPY_RUN_LANDED")
  | none => .fault (.notEnabled "COPY_RUN_LANDED")

/-- A translation for the receiving side of a queue entry: the walk alone, in the handler mode of its issue (R364,
R406, R408). -/
def State.cpqPlace (s : State) (e : CpqEntry) (va : Nat) (k : AccKind) :
    Except MFault (Nat × Nat) × State :=
  match s.walk e.recvDie e.asid va k (e.level != 0) false with
  | (.error t, s) => (.error ({ t with acc := 5 }, some (va : Int)), s)
  | (.ok l, s) =>
    let pa := l.pbase + (va - l.vbase)
    match s.lostHome pa e.dst.attr with
    | some h => (.error (mfault cDieLost h .engW (some (va : Int))), s)
    | none => (.ok (pa, l.cc), s)

/-- The receiving die writes one byte at its home slice (R406, R407). -/
def State.cpqPut (s : State) (e : CpqEntry) (k : Nat) (v : Byte) : Except MFault Unit × State :=
  match s.cpqPlace e (e.dst.vbase + e.dst.boff + k) .engW with
  | (.error f, s) => (.error f, s)
  | (.ok (pa, cc), s) => (.ok (), match s.target pa e.dst.attr with
    | .remote key => { s with remote := Memory.set s.remote key v }
    | .host => { s with hostMem := Memory.set s.hostMem pa v }
    | .unpopulated => { s with badPa := some pa }
    | .home => s.homeStore e.recvDie (pa / 128) cc (pa % 128) [v])

/-- Lands the bytes that have been read, from byte `k`: how many, and the fault that stopped them. -/
def State.cpqLand (s : State) (e : CpqEntry) (k : Nat) : List Byte → Nat × Option MFault × State
  | [] => (0, none, s)
  | v :: vs => match s.cpqPut e k v with
    | (.error f, s) => (0, some f, s)
    | (.ok _, s) =>
      let (n, f, s) := s.cpqLand e (k + 1) vs
      (n + 1, f, s)

/-- An entry ends with an engine fault for its group (R408). -/
def State.cpqEnd (s : State) (die q : Nat) (e : CpqEntry) (t : TrapInfo) (va : BitVec 64) : State :=
  (s.dropCpq die q e).pushEFault e.grp { info := t, va := va, obj := e.obj, depth := e.depth, matrix := false }

/-- The engine met a fault of an entry (R403, R408): a record for a translation, on another package where that package
receives the bytes, else the entry's end. -/
def State.cpqFault (s : State) (die q : Nat) (e : CpqEntry) (f : MFault) : State :=
  let (n, s) := s.freeN
  let va : BitVec 64 := match f.2 with | some a => BitVec.ofInt 64 a | none => BitVec.ofNat 64 n
  let info := { f.1 with acc := 5 }
  if info.offered then
    let (t, s) := s.fresh
    let d := if e.read < e.len then die else e.recvDie
    let rec? : Option FaultRec := (s.group? e.grp).map (fun g =>
      { token := t, va := va, asid := e.asid, fdom := e.fdom, info := info,
        core := s.coreOf e.grp.blk, slot := g.slot, mask := 0 })
    let s := if e.remote && e.read == e.len then { s with farFaults := s.farFaults ++ rec?.toList }
      else s.modDie d (fun k => { k with faultq := k.faultq ++ rec?.toList })
    s.putCpq die q e { e with wait := some t }
  else s.cpqEnd die q e info va

/-- The releases of an entry with REL (R407, R414): of the issuing group, then of the receiving die; the
signature that the flag carries. -/
def State.cpqRelease (s : State) (die : Nat) (e : CpqEntry) : Option Sig × State :=
  if !e.rel then (none, s)
  else
    let s := s.fenceRel e.grp e.scope
    if e.scope < 4 then (none, s)
    else
      let s := if e.remote then s else s.deviceRelease e.recvDie
      (some ((s.die die).csig ||| (if e.remote then 0 else (s.die e.recvDie).csig)), s)

/-- Whether the release of an entry with REL can be performed (R407, R414): what it orders on the issuing die has
completed, whether or not the entry's block stands on a core, and no merge of the receiving die is held back. -/
def State.cpqReady (s : State) (e : CpqEntry) : Bool :=
  !e.rel || (s.priorDone e.grp e.id && (e.remote || (!(s.toReset e.recvDie) && !(s.mergeHeld e.recvDie))))

/-- Moves the bytes of an entry (R406): every source byte is read, then every byte landed; an entry without
a flag then ends, once its release can be performed. -/
def State.cpqRun (s : State) (die q : Nat) (e : CpqEntry) : State :=
  let (e, f, s) := s.cpqRead die q e (e.len - e.read)
  match f with
  | some f => s.cpqFault die q e f
  | none =>
    let (n, f, s) := s.cpqLand e e.landed (e.data.drop e.landed)
    let e' := { e with landed := e.landed + n }
    let s := s.putCpq die q e e'
    match f with
    | some f => s.cpqFault die q e' f
    | none =>
      if e'.flag.isSome || !(s.cpqReady e') then s
      else ((s.cpqRelease die e').2).dropCpq die q e'

/-- The entry of a queue that moves bytes, or ends without a flag, next: the first with such work and no record to wait
on, every earlier one started (R405). -/
def State.nextEntry (s : State) : List CpqEntry → Option CpqEntry
  | [] => none
  | e :: es =>
    if (e.landed < e.len || (e.flag.isNone && s.cpqReady e)) && e.wait.isNone then some e
    else if e.started then s.nextEntry es else none

/-- An entry whose receiving die is lost ends with `DIE_LOST` (R408). -/
def State.cpqLost (s : State) (die q : Nat) (e : CpqEntry) : State :=
  let (n, s) := s.freeN
  s.cpqEnd die q e { cause := cDieLost, detail := e.recvDie } (BitVec.ofNat 64 n)

/-- CPQ_ENTRY_RUN (R405, R406, R408): an entry whose receiving die is lost ends with `DIE_LOST`. -/
def execCpqEntryRun (die queue : Nat) (s : State) : Out :=
  match s.nextEntry ((s.die die).queue queue) with
  | none => .fault (.notEnabled "CPQ_ENTRY_RUN")
  | some e =>
    let recv := (s.die e.recvDie).st
    stepIf "CPQ_ENTRY_RUN" (die < 4 && (s.die die).st == .running && (e.remote || recv != .inReset))
      (if !e.remote && recv == .lost then s.cpqLost die queue e
      else ((if e.remote then s else s.carry die e.recvDie).cpqRun die queue e))

/-- The flag atomic of an entry whose bytes are all performed, and the end of the entry (R406, R407); its home holds it
while a replay awaits its logged predecessor (R428). -/
def State.cpqFlagRun (s : State) (die q : Nat) (e : CpqEntry) (h : HandleX) (v : Word) : State :=
  let (sig, s) := s.cpqRelease die e
  let new := fun (old : List Byte) => some (bytesOfNat 4 (wd (natOfBytes old) + v).toNat)
  match s.cpqPlace e (h.vbase + h.boff) .atomic with
  | (.error f, s) => s.cpqFault die q e f
  | (.ok (pa, cc), s) =>
    let s := match s.target pa h.attr with
      | .remote key => { s with remote := Memory.write s.remote key ((new (Memory.read s.remote key 4)).getD []) }
      | .host => { s with hostMem := Memory.write s.hostMem pa ((new (Memory.read s.hostMem pa 4)).getD []) }
      | .unpopulated => { s with badPa := some pa }
      | .home =>
        let s := if s.amoTurn e.recvDie e.grp (pa / 128) == Turn.held then s.unreached (.turn (pa / 128)) else s
        (s.amoHome e.recvDie e.grp pa cc 4 (if e.rel then ⟨.rel, e.scope⟩ else ⟨.rlx, 5⟩) sig new).2.2
    s.dropCpq die q e

/-- CPQ_FLAG_ATOMIC (R405, R407): in queue order; an entry whose receiving die is lost ends with `DIE_LOST` (R408). -/
def execCpqFlagAtomic (die queue : Nat) (s : State) : Out :=
  match (s.die die).queue queue with
  | e :: _ => match e.flag with
    | some (h, v) =>
      let recv := (s.die e.recvDie).st
      stepIf "CPQ_FLAG_ATOMIC" (die < 4 && e.landed == e.len && e.wait.isNone && s.cpqReady e &&
          (e.remote || recv != .inReset))
        (if !e.remote && recv == .lost then s.cpqLost die queue e else s.cpqFlagRun die queue e h v)
    | none => .fault (.notEnabled "CPQ_FLAG_ATOMIC")
  | [] => .fault (.notEnabled "CPQ_FLAG_ATOMIC")

/-- The parameters of a row instruction, from its pack (R410). -/
structure RowArgs where
  /-- the operation of `ROWOP`, none for the others -/
  op : Option Nat
  dst : Int
  srcs : List Int
  rows : Nat
  pat : Option (BitVec 64)
  obj : Word
  strict : Bool
  /-- the control word and the row count hold their limits -/
  ok : Bool

/-- Whether a row count is 1 to 4096 (R411). -/
def rowCount (n : Nat) : Bool := 1 ≤ n && n ≤ 4096

def rowcpyArgs (w : Nat → Word) : RowArgs :=
  { op := none, dst := (w 0).toInt, srcs := [(w 1).toInt], rows := (w 2).toNat, pat := none, obj := w 3,
    strict := (w 4).getLsbD 0, ok := w 4 >>> 1 == 0 && rowCount (w 2).toNat }

def rowfillArgs (w : Nat → Word) : RowArgs :=
  { op := none, dst := (w 0).toInt, srcs := [], rows := (w 1).toNat, pat := some (pairOf (w 2) (w 3)),
    obj := w 4, strict := (w 5).getLsbD 0, ok := w 5 >>> 1 == 0 && rowCount (w 1).toNat }

def rowopArgs (w : Nat → Word) : RowArgs :=
  let op := bitsW (w 6) 3 1
  { op := some op, dst := (w 0).toInt,
    srcs := ([(w 1).toInt, (w 2).toInt, (w 3).toInt]).take (match op with | 3 => 1 | 4 => 3 | _ => 2),
    rows := (w 4).toNat, pat := none, obj := w 5, strict := (w 6).getLsbD 0,
    ok := w 6 >>> 4 == 0 && op ≤ 4 && rowCount (w 4).toNat }

/-- Whether a binding names row-capable memory (R409). -/
def rowCapable : XReg → Bool
  | .handle h => h.attr.row && h.attr.space == 0
  | _ => false

/-- The check of a range against its handle (R411). -/
def rowRange (q : XReg) (o : Int) (n : Nat) (k : AccKind) : Option MFault :=
  match q with
  | .handle h =>
    let b : Int := (h.boff : Int) + o
    if b < 0 || (h.bound : Int) < b + n then some (mfault cBounds 0 k (some (h.vbase + b)))
    else if !(h.attr.allows k) then some (mfault cProtection 1 k (some (h.vbase + b)))
    else none
  | _ => none

/-- Whether the rows of a range stand on row boundaries (R409, R411; DEDUCED for the base of the binding,
log entry 17). -/
def rowAligned (q : XReg) (o : Int) : Bool :=
  o % 1024 == 0 && (match q with | .handle h => (h.vbase + h.boff) % 1024 == 0 | _ => true)

/-- The rows of a range, translated (R411): physical address and class of each. -/
def State.rowPlaces (s : State) (i : Iss) (q : XReg) (o : Int) (k : AccKind) (j : Nat) :
    Nat → Except MFault (List (Nat × Nat)) × State
  | 0 => (.ok [], s)
  | n + 1 => match s.resolveX i.r.gref i.b i.g q (o + 1024 * j) 1024 k with
    | (.error f, s) => (.error f, s)
    | (.ok (.mem pa cc _), s) => match s.rowPlaces i q o k (j + 1) n with
      | (.error f, s) => (.error f, s)
      | (.ok l, s) => (.ok ((pa, cc) :: l), s)
    | (.ok _, s) => (.error (mfault cProtection 0 k none), s)

/-- The rows of every source. -/
def State.rowSources (s : State) (i : Iss) (q : XReg) (n : Nat) :
    List Int → Except MFault (List (List (Nat × Nat))) × State
  | [] => (.ok [], s)
  | o :: os => match s.rowPlaces i q o .engR 0 n with
    | (.error f, s) => (.error f, s)
    | (.ok l, s) => match s.rowSources i q n os with
      | (.error f, s) => (.error f, s)
      | (.ok ls, s) => (.ok (l :: ls), s)

/-- The row group of an address (R409). -/
def rowGroup (pa : Nat) : Nat := pa / 524288

/-- Whether a row goes by the fallback path (R412): it reads a row of another row group. -/
def rowFallback (dst : List Nat) (srcs : List (List Nat)) : Bool :=
  srcs.any (fun l => (l.zip dst).any (fun p => rowGroup p.1 != rowGroup p.2))

/-- The cache duties of `.wbinv` (R413) on the issuing die. -/
def State.rowWbinv (s : State) (d : Nat) (dst : List (Nat × Nat)) (srcs : List (List (Nat × Nat))) :
    State :=
  let s := srcs.flatten.foldl (fun s p => (rowLines p.1).foldl (fun s l => s.rwbLine d l p.2) s) s
  dst.foldl (fun s p => (rowLines p.1).foldl (fun s l => s.rinvLine d l p.2) s) s

/-- The work of a row instruction (R411). -/
def RowArgs.kind (a : RowArgs) (dst : List Nat) (srcs : List (List Nat)) : EngKind :=
  match a.op, a.pat with
  | some op, _ => .rowop op dst (srcs.getD 0 []) (srcs.getD 1 []) (srcs.getD 2 []) 0
  | none, some p => .rowfill dst p 0
  | none, none => .rowcpy dst (srcs.getD 0 []) 0

/-- What starts once every check of a row instruction has passed (R411). -/
def State.rowStart (s : State) (i : Iss) (x : EF) (a : RowArgs) (off : Nat) (dst : List (Nat × Nat))
    (srcs : List (List (Nat × Nat))) : Res :=
  let d := dst.map (·.1)
  let q := srcs.map (fun l => l.map (·.1))
  let fb := rowFallback d q
  let status := fun (s : State) => s.modGroup i.r.gref (fun g => g.sSet (sNum x.d) (if fb then 1 else 0))
  if a.strict && fb then
    .done ((status s).pushFault i.r.gref { cause := cRowStrict } (some off) false i.g.gates.length)
  else if s.engFull i.r.gref then .wait
  else
    let s := (status s).engAcquire i x
    let s := if x.m.getLsbD 3 then s.rowWbinv i.b.core.die dst srcs else s
    let (id, s) := s.fresh
    .done { s with engines := s.engines ++ [
      { id := id, grp := i.r.gref, sp := i.r.sp, depth := i.g.gates.length, level := i.g.level,
        kind := a.kind d q, obj := off,
        rel := mRel x, scope := scopeOf x, asid := i.g.ctx.asid, fdom := i.g.ctx.fdom, die := i.b.core.die, wait := none,
        began := false }] }

/-- The three row instructions in one mould (R411), in the order of its checks; a binding that is made again at this
access (R227) is made once the x registers have passed theirs. -/
def row (sig : OpSig) (args : (Nat → Word) → RowArgs) (x : EF) (s : State) : Out :=
  s.issue (fun _ => issueE sig true) (fun i =>
    let a := args (fun j => i.g.srcAt x.a j 0)
    let park := fun (f : MFault) (s : State) => Res.park f 1 [] [sNum x.d] s
    let named := (i.g.x.getD (x.b.toNat % 8) .unbound) ::
      (if a.srcs.isEmpty then [] else [i.g.x.getD (x.b.toNat / 8) .unbound])
    if !a.ok then trapOp cIllegalOperand .a
    else if named.any (fun q => match q with
        | .scratch | .cluster | .stash _ => true
        | _ => false) then trapOp cIllegalOperand .b
    else if named.any (fun q => q == .unbound) then park (mfault cProtection 0 .engW none) s
    else match s.rebind i.r.gref (x.b.toNat % 8) .engW with
      | (.error f, s) => park f s
      | (.ok dx, s) =>
        let (sx?, s) := if a.srcs.isEmpty then ((.ok dx : Except MFault XReg), s)
          else s.rebind i.r.gref (x.b.toNat / 8) .engR
        match sx? with
        | .error f => park f s
        | .ok sx =>
          let n := a.rows
          if [dx, sx].any (fun q => !rowCapable q) then .trap { cause := cRowClass }
          else if !(rowAligned dx a.dst && a.srcs.all (rowAligned sx)) then .trap { cause := cRowAlign }
          else match (rowRange dx a.dst (1024 * n) .engW :: a.srcs.map
              (fun o => rowRange sx o (1024 * n) .engR)).findSome? id with
            | some f => park f s
            | none => match s.rowPlaces i dx a.dst .engW 0 n with
              | (.error f, s) => park f s
              | (.ok dst, s) => match s.rowSources i sx n a.srcs with
                | (.error f, s) => park f s
                | (.ok srcs, s) =>
                  if (dst ++ srcs.flatten).any (fun p => p.2 == 0 || p.2 == 2) then
                    .trap { cause := cRowClass }
                  else if srcs.any (fun l => !(a.op.isSome && l == dst) &&
                      l.any (fun p => dst.any (fun q => q.1 == p.1))) then trapOp cIllegalOperand .other
                  else match s.engObj i a.obj with
                    | .error (.park f _ _ _ s) => park f s
                    | .error r => r
                    | .ok off => s.rowStart i x a off dst srcs)

/-- ROWCPY (R410 to R412). -/
def execRowcpy (x : EF) (s : State) : Out := row (sigOf (.rowcpy x)) rowcpyArgs x s
/-- ROWFILL (R410 to R412). -/
def execRowfill (x : EF) (s : State) : Out := row (sigOf (.rowfill x)) rowfillArgs x s
/-- ROWOP (R410 to R412, R415). -/
def execRowop (x : EF) (s : State) : Out := row (sigOf (.rowop x)) rowopArgs x s

/-- The rows that a row instruction reads and writes next. -/
def EngKind.nextRows : EngKind → List Nat
  | .rowcpy d q k => [d.getD k 0, q.getD k 0]
  | .rowfill d _ k => [d.getD k 0]
  | .rowop o d a b c k => [d.getD k 0, a.getD k 0] ++ (if o == 3 then [] else [b.getD k 0]) ++
      (if o == 4 then [c.getD k 0] else [])
  | _ => []

/-- The rows that a row instruction still reads and writes (R416). -/
def EngKind.restRows : EngKind → List Nat
  | .rowcpy d q k => d.drop k ++ q.drop k
  | .rowfill d _ k => d.drop k
  | .rowop o d a b c k => d.drop k ++ a.drop k ++ (if o == 3 then [] else b.drop k) ++ (if o == 4 then c.drop k else [])
  | _ => []

/-- Whether the stacks of an address answer: its die is neither in reset nor lost. -/
def State.stackUp (s : State) (pa : Nat) : Bool :=
  match s.homeOf pa with | some h => (s.die h).st == .running | none => false

/-- Whether the row instructions of a block go on: it stands on its core, or it has ended or its region has been killed
(R416). -/
def State.rowsRun (s : State) (blk : Nat) : Bool :=
  match s.blocks[blk]? with | some b => b.st == .resident || b.st == .killed || b.st == .ended | none => false

/-- The messages of a row instruction to the stacks of its next rows (R287). -/
def State.rowReach (s : State) (op : EngOp) : State :=
  op.kind.nextRows.foldl (fun s p => s.carry op.die ((s.homeOf p).getD op.die)) s

/-- Whether a row instruction may do its next row: each row instruction that reached the stack before it has no row left
in a row group of that row (R416; the rows of one row group lie in one bank, R409). -/
def State.rowTurn (s : State) (op : EngOp) : Bool :=
  !(s.engines.any (fun e => e.id < op.id && s.rowsRun e.grp.blk &&
    e.kind.restRows.any (fun p => op.kind.nextRows.any (fun q => rowGroup p == rowGroup q))))

/-- ROW_WRITTEN (R411, R412): a row of a row group whose check bits are being recomputed waits (R415), and so
does the last row of an instruction with REL for what its release orders; the row instructions of a killed region are
carried to their end (R416). -/
def execRowWritten (id : Nat) (s : State) : Out :=
  match s.engine? id with
  | some op =>
    stepIf "ROW_WRITTEN" (s.rowsRun op.grp.blk && 0 < op.kind.rowsLeft && op.kind.nextRows.all s.stackUp &&
        !(op.kind.nextRows.any (fun p => s.eccPending.contains (rowGroup p))) &&
        !(op.kind.rowsLeft == 1 && s.relWaits op) && s.rowTurn op)
      ((s.rowReach op).rowStep op)
  | none => .fault (.notEnabled "ROW_WRITTEN")

/-- ECC_RECOMPUTE_DONE (R415). -/
def execEccRecomputeDone (rg : Nat) (s : State) : Out :=
  stepIf "ECC_RECOMPUTE_DONE" (s.eccPending.contains rg)
    { s with eccPending := s.eccPending.filter (· != rg) }

end Sys2Proof.Machine
end

