-- ==== Sys2Proof/Machine/Launch.lean ====
section
/-! DEFINITION. Launch records and region control blocks: their limits, the inheritance of their fields, and
the creation of a region (18 R342 to R347, R358; 14 R285; 22 R421). -/

namespace Sys2Proof.Machine

open Sys2Proof

/-- A 52-bit physical address (R343). -/
def isPa (n : Nat) : Bool := n < 2 ^ 52

/-- The offset of the first nonzero byte of a reserved run. -/
def nonzeroFrom (bs : List Byte) (off : Nat) : Nat → Option Nat
  | 0 => none
  | n + 1 => if bs.getD off 0 != 0 then some off else nonzeroFrom bs (off + 1) n

/-- The first offset whose check fails. -/
def firstBad : List (Nat × Bool) → Option Nat
  | [] => none
  | c :: cs => if c.2 then firstBad cs else some c.1

/-- The limit of a launch's REGS and of a gate's REGS (R346, R378). -/
def regsOk (n : Nat) : Bool := n == 16 || n == 24 || n == 32 || n == 40 || n == 48

/-- A launch record from its 160 bytes (R346). -/
def launchRec (bs : List Byte) : LaunchRec :=
  { entry := fieldN bs 0 8, grid := fieldN bs 8 4, gpb := fieldN bs 12 1, regs := fieldN bs 13 1,
    tiles := fieldN bs 14 1, cohort := fieldN bs 15 1, scratch := fieldN bs 16 4, param := fieldN bs 20 4,
    almanac := fieldN bs 24 8, almn := fieldN bs 32 1, queue := fieldN bs 33 1, rcb := fieldN bs 40 8,
    ranges := (List.range 4).map (fun d => (fieldN bs (48 + 8 * d) 4, fieldN bs (52 + 8 * d) 4)),
    waits := (List.range 4).map (fun j => (fieldN bs (80 + 16 * j) 8, fieldN bs (88 + 16 * j) 8)) }

/-- Whether the entries that give blocks are disjoint and cover the grid, from block `next` (R347). -/
def covers (rs : List (Nat × Nat)) (next grid : Nat) : Nat → Bool
  | 0 => rs.isEmpty && next == grid
  | n + 1 => match rs.find? (fun r => r.1 == next) with
    | some r => covers (rs.filter (fun q => q != r)) (r.2 + 1) grid n
    | none => rs.isEmpty && next == grid

/-- The RANGE entries that give blocks. -/
def LaunchRec.given (l : LaunchRec) : List (Nat × Nat) := l.ranges.filter (fun r => r.1 ≤ r.2)

/-- The byte offset of the first field of a launch record that breaks its limit (R346, R347); a bad table
count is a matter of R285. -/
def launchBad (bs : List Byte) : Option Nat :=
  let l := launchRec bs
  let z := fun (off n : Nat) => match nonzeroFrom bs off n with | some o => (o, false) | none => (off, true)
  firstBad ([(0, l.entry % 256 == 0 && l.entry < 2 ^ 55), (8, 1 ≤ l.grid), (12, 1 ≤ l.gpb && l.gpb ≤ 16),
    (13, regsOk l.regs), (14, l.tiles ≤ 16), (15, 1 ≤ l.cohort && l.cohort ≤ 32),
    (16, l.scratch % 1024 == 0 && l.scratch ≤ 262144), (24, isPa l.almanac), (33, l.queue ≤ 63), z 34 6,
    (40, isPa l.rcb && l.rcb % 256 == 0), (48, covers l.given 0 l.grid 4 &&
      l.given.length == l.given.eraseDups.length)] ++
    (List.range 4).map (fun j => (80 + 16 * j, isPa (fieldN bs (80 + 16 * j) 8))) ++ [z 144 16])

/-- The store that a block of a launch takes (R198). -/
def LaunchRec.store (l : LaunchRec) : Nat := l.gpb * 128 * l.regs + l.scratch

/-- Whether an empty core can hold a block (R198). -/
def LaunchRec.holds (l : LaunchRec) : Bool := l.store ≤ storeLimit && l.gpb ≤ 16 && l.tiles ≤ 16

/-- Whether a field of a record holds all ones (R342). -/
def ones (bs : List Byte) (off n : Nat) : Bool := fieldN bs off n == 256 ^ n - 1

/-- The offset of the first field of a region control block that breaks its limit; `root` says that it has
no parent (R342, R343). -/
def rcbBad (bs : List Byte) (kinds : List Nat) (root : Bool) : Option Nat :=
  let f := fun (off n : Nat) => fieldN bs off n
  let inh := fun (off n : Nat) (ok : Bool) => (off, ones bs off n || ok)
  let must := fun (off n : Nat) (ok : Bool) => (off, if ones bs off n then !root else ok)
  let z := match nonzeroFrom bs 104 152 with | some o => (o, false) | none => (104, true)
  firstBad [(8, kinds.contains (f 8 1)), inh 9 1 (f 9 1 < 8), inh 10 1 (f 10 1 < 2),
    inh 12 4 (1 ≤ f 12 4), inh 16 2 (1 ≤ f 16 2 && f 16 2 ≤ 768), must 24 2 true, must 26 2 true,
    must 28 4 true, must 32 8 (isPa (f 32 8)), must 40 8 (isPa (f 40 8)), must 48 8 (isPa (f 48 8)),
    must 68 4 true, inh 72 8 (isPa (f 72 8)), inh 80 8 (isPa (f 80 8)), inh 88 8 (isPa (f 88 8)),
    must 96 8 (isPa (f 96 8)), z]

/-- A region from its control block, with inheritance resolved (R342). -/
def regionOfBytes (rcb : Nat) (bs : List Byte) (parent : Option Region) (l : LaunchRec) : Region :=
  let r := fun (off n dflt : Nat) (get : Region → Nat) =>
    if ones bs off n then (match parent with | some p => get p | none => dflt) else fieldN bs off n
  let of := fun (off : Nat) (get : Region → Nat) =>
    if ones bs off 2 then (match parent with | some p => get p | none => rcb) else rcb
  { rcb := rcb, parent := parent.map (·.rcb), kind := fieldN bs 8 1,
    prio := r 9 1 3 (·.prio), pclass := r 10 1 0 (·.pclass), deadline := r 12 4 1048576 (·.deadline),
    cores := r 16 2 768 (·.cores), regu := r 18 2 0xFFFE (·.regu), spu := r 20 2 0xFFFE (·.spu),
    tileu := r 22 2 0xFFFE (·.tileu),
    coresOf := of 16 (·.coresOf), reguOf := of 18 (·.reguOf), spuOf := of 20 (·.spuOf),
    tileuOf := of 22 (·.tileuOf),
    asid := r 24 2 0 (·.asid), fdom := r 26 2 0 (·.fdom), hcount := r 28 4 0 (·.hcount),
    htab := r 32 8 0 (·.htab), gtab := r 40 8 0 (·.gtab), gcount := r 68 4 0 (·.gcount),
    tloss := r 72 8 0 (·.tloss), trace := r 80 8 0 (·.trace), mailbox := r 88 8 0 (·.mailbox),
    save := r 96 8 0 (·.save), lrec := l, st := 0, compl := 0, children := 0,
    pend := (l.ranges.zipIdx).filterMap (fun x => if x.1.1 ≤ x.1.2 then some (x.2, x.1.1, x.1.2) else none),
    stopped := [], dies := [], haltSeq := 0, forkBlk := none, ioWait := false,
    tl := { fault := 0, io := 0, engine := 0, other := 0 } }

/-- Whether a block fits the budgets of its region (R347). -/
def Region.budgetOk (q : Region) : Bool :=
  inBudget q.regu (q.lrec.gpb * q.lrec.regs / 8) && inBudget q.spu (q.lrec.scratch / 1024) &&
  inBudget q.tileu q.lrec.tiles && 1 ≤ q.cores

/-- Whether the beats of a table hold their limits (R285). -/
def tableOk (t : List Byte) : Bool :=
  (t.take 16).all (fun b => b == 0x60) &&
  (t.drop 16).all (fun b => b == 0x80 || b == 0x20 || b == 0x40 || b.toNat < 0x20) &&
  16 ≤ (t.filter (fun b => b == 0x80)).length

/-- The almanac of a launch (R285): none where it is refused, else its tables. -/
def State.almanac (s : State) (l : LaunchRec) : Option (List (List Byte)) × State :=
  if 6 < l.almn || l.almanac % 256 != 0 then (none, s)
  else if l.almn == 0 then (some [], s)
  else
    let (bs, s) := s.physRead l.almanac (256 * l.almn)
    let ts := chunks 256 l.almn bs
    (if ts.all tableOk then some ts else none, s)

/-- Whether the wait events of a launch are met (R347), the reads taken as acquires at system scope: the
entries that they return. -/
def State.waitsMet (s : State) (l : LaunchRec) : Bool × Sig × State :=
  (l.waits.filter (fun w => w.1 != 0)).foldl (fun (p : Bool × Sig × State) w =>
    let (bs, s) := p.2.2.physRead (w.1 + 56) 8
    let (e, s) := s.systemEntry (w.1 + 56)
    (p.1 && w.2 ≤ natOfBytes bs, p.2.1 ||| e, s)) (true, 0, s)

/-- A region enters the list of regions, in place of an earlier one of its control block, whose queue entries
and killed blocks count no longer. -/
def State.putRegion (s : State) (r : Region) : State :=
  { s with
    regions := s.regions.filter (fun q => q.rcb != r.rcb) ++ [r],
    dies := s.dies.map (fun d => { d with lq := d.lq.filter (fun x => x.2 != QItem.launch r.rcb) }),
    blocks := s.blocks.map (fun b =>
      if b.rcb == r.rcb && b.st == .killed then { b with st := .ended } else b) }

/-- The launch stands in the queue of every die that its RANGE names (R348). -/
def State.enqueueLaunch (s : State) (r : Region) : State :=
  r.pend.foldl (fun s p => s.modDie p.1 (fun d => { d with
    lq := d.lq ++ [(r.lrec.queue, QItem.launch r.rcb)] })) s

/-- A region control block initialised (R345, R358): PARENT, COMPL, CHILDREN and then STATE. -/
def State.initRcb (s : State) (rcb parent st : Nat) : State :=
  (((s.physWrite rcb (bytesOfNat 8 parent)).physWrite (rcb + 56) (bytesOfNat 8 0)).physWrite (rcb + 64)
    (bytesOfNat 4 0)).physWrite (rcb + 11) (bytesOfNat 1 st)

/-- Whether an explicit budget exceeds the parent's (R358). -/
def budgetOver (bs : List Byte) (p : Region) : Bool :=
  let tops := fun (off cap : Nat) (nolimit : Bool) =>
    !ones bs off 2 && !(nolimit && cap == 0xFFFE) && (cap < fieldN bs off 2)
  tops 16 p.cores false || tops 18 p.regu true || tops 20 p.spu true || tops 22 p.tileu true

end Sys2Proof.Machine
end

