-- ==== Sys2Proof/Machine/System.lean ====
section
/-! DEFINITION. The system instructions, 0xE0 to 0xEA, and the steps that belong to traps, gates, faults and
fetches (20 R362 to R399; 18 R358, R359; 04 R82). -/

namespace Sys2Proof.Machine

open Sys2Proof

/-- Whether a copy or row instruction of a group waits on a fault record, its queue entries among them (R403). -/
def State.engWaits (s : State) (r : GRef) : Bool :=
  s.engines.any (fun e => e.grp == r && e.kind.counted && e.wait.isSome) ||
  s.dies.any (fun d => d.cq.any (fun q => q.2.grp == r && q.2.wait.isSome))

/-- ENGSTAT (R341, R403). -/
def State.engstat (s : State) (i : Iss) : Nat :=
  let mine := s.engines.filter (fun e => e.grp == i.r.gref && e.kind.counted)
  let bit := fun (b : Bool) (n : Nat) => if b then 2 ^ n else 0
  let valid := fun (n : Nat) => ((i.g.latches[n]?).map (·.valid)).getD false
  bit (i.g.efaults.any (fun f => !f.matrix && !f.tld)) 25 + bit (s.engWaits i.r.gref) 24 +
  2 ^ 16 * mine.length + bit (i.g.mq.any (fun x => x.work.heldFor.isSome)) 11 +
  bit (valid 1) 10 + bit (valid 0) 9 + bit (i.g.mq.any (fun x => x.batch.isNone)) 8 +
  2 ^ 4 * i.g.batches.length + i.g.nextBatch % 16

/-- COHMAP of a lane (R203): the core of the cohort's member of that rank. DESIGN CHOICE (log entry 83): 0xFF for a rank
below SIZE that no member has, and the core where it stood last for a member that has ended. -/
def State.cohmap (s : State) (b : Block) (L : Nat) : Nat :=
  if b.cohort ≤ L then 2 ^ 32 - 1
  else match s.blocks.reverse.find? (fun m => m.rcb == b.rcb && m.index + b.rank == b.index + L &&
      m.rank == L && m.core.die == b.core.die && (m.st == .resident || m.st == .ended)) with
    | some m => m.core.core
    | none => 0xFF

/-- TWINCAP of a die (R269). -/
def State.twincapWord (s : State) (d : Nat) : Nat :=
  2 ^ 16 * (((s.die d).twins + 8191) / 8192) + (s.die d).twincap

/-- L2CAP of a die (R20). -/
def l2cap (d : Nat) : Nat :=
  2 ^ 24 * 0x80 + (if Config.storeDie d then 2 ^ 16 + 1024 else 512)

/-- The value of a special register, in a lane where it is read per lane (R388, R389). -/
def State.srRead (s : State) (i : Iss) (n L : Nat) : DWord :=
  let w := fun (k : Nat) => BitVec.ofNat 64 k
  let t := if i.g.level == 0 then ({ cause := 0, pc := 0, mask := 0, va := 0, info := 0 } : TrapRegs)
    else i.g.trap
  match n with
  | 0x00 => w L
  | 0x01 => w i.r.grp
  | 0x02 => w i.b.index
  | 0x03 => w i.b.core.die
  | 0x04 => w i.b.core.cluster
  | 0x05 => w i.b.core.core
  | 0x06 => i.p.mask.setWidth 64
  | 0x07 => w (2 ^ 15 * (i.b.sbk % 2 ^ 9) + 2 ^ 8 * (i.b.rank % 32) + i.b.cohort % 64)
  | 0x08 => i.g.flags.setWidth 64
  | 0x09 => i.g.rgncnt.setWidth 64
  | 0x0A => w (i.g.rgnpc.toNat % 2 ^ 32 / 4 * 4 + (if i.g.rgnOpen then 1 else 0))
  | 0x0C => s.cycles.getD (islandOf i.b.core) 0
  | 0x0D => s.wall
  | 0x0E => w (s.cohmap i.b L)
  | 0x10 => t.cause.setWidth 64
  | 0x11 => t.pc
  | 0x12 => t.mask.setWidth 64
  | 0x13 => t.va
  | 0x14 => t.info.setWidth 64
  | 0x18 => i.g.gatestat.setWidth 64
  | 0x19 => w i.g.gates.length
  | 0x1C => w i.g.vb
  | 0x1D => w i.g.regcnt
  | 0x20 => w (l2cap i.b.core.die)
  | 0x21 => w (s.twincapWord i.b.core.die)
  | 0x24 => w (i.g.level + (if i.g.debug then 4 else 0))
  | 0x28 => w (s.engstat i)
  | k => ((s.core i.b.core).brk.getD (k - 0x30) 0).setWidth 64

/-- Whether a split has an atomic parked, or to be replayed, whose unfinished lanes may raise exceptions (R55, R245). -/
def Split.flagsDue (p : Split) : Bool :=
  (match p.st with | .parkedFault k => k.fl | _ => false) || p.replay.any (·.fl)

/-- Whether an earlier atomic has exceptions still to come into `FLAGS` (R55, R245): one whose data is on its way, or one
of a split that has lanes of it still to perform. A handler has `FLAGS` of its own (R367). -/
def Group.flagsPending (g : Group) : Bool :=
  g.loads.any (fun l => l.flags != 0) || g.valid.any (fun x => x.2.flagsDue)

/-- Whether a number is a breakpoint register (R388). -/
def isBrk (n : Nat) : Bool := 0x30 ≤ n

/-- SRR (R391). -/
def execSrr (x : EF) (s : State) : Out :=
  let n := x.m.toNat
  s.issue (fun i => { issueE (sigOf (.srr x)) false with
      field := if isBrk n && !i.g.debug then some .other else none })
    (fun i =>
      if n == 0x08 && i.g.flagsPending then .wait
      else .done (s.putGroup i.r.gref (
        if srWidth64 n then i.g.dst64 x.d i.cur.active (fun _ => s.srRead i n 0)
        else i.g.dst x.d i.cur.active (fun L => lo32 (s.srRead i n L)))))

/-- Whether a special register may be written in the current state (R388). -/
def Group.srWritable (g : Group) (n : Nat) : Bool :=
  n == 0x08 || n == 0x09 || ((n == 0x11 || n == 0x12) && g.handler) || (isBrk n && g.debug)

/-- SRW (R392). -/
def execSrw (x : EF) (s : State) : Out :=
  let n := x.m.toNat
  s.issue (fun i => { issueE (sigOf (.srw x)) false with
      field := if i.g.srWritable n then none else some .other })
    (fun i =>
      let lo := i.g.srcAt x.a 0 0
      let v := i.g.src64 x.a 0
      let set := fun (f : Group → Group) => Res.done (s.modGroup i.r.gref f)
      match n with
      | 0x08 =>
        if lo >>> 6 != 0 then trapOp cIllegalOperand .a
        else if i.g.flagsPending then .wait
        else set (fun g => { g with flags := lo })
      | 0x09 => set (fun g => { g with rgncnt := lo })
      | 0x11 =>
        if v &&& 3 != 0 || v >>> 55 != 0 then trapOp cIllegalOperand .a
        else set (fun g => { g with trap := { g.trap with pc := v } })
      | 0x12 => set (fun g => { g with trap := { g.trap with mask := lo } })
      | k => .done (s.modCore i.b.core (fun c => { c with brk := c.brk.set (k - 0x30) (lo &&& ~~~2) })))

/-- Whether everything that the handler issued has completed (R393). -/
def State.handlerDone (s : State) (i : Iss) : Bool :=
  i.g.loads.isEmpty && i.g.unacked.isEmpty && i.g.mq.all (fun q => q.level != i.g.level) &&
  i.g.tmovs.all (fun t => t.level != i.g.level) &&
  !(s.engines.any (fun e => e.grp == i.r.gref && e.level == i.g.level))

/-- A return from handler mode (R370, R393). -/
def returnBody (s : State) (i : Iss) (step : Bool) : Res :=
  if !i.g.fused then .trap { cause := cSplitLimit, detail := 3 }
  else if !s.handlerDone i then .wait
  else
    let sp := (i.g.frames.head?).map (·.sp)
    .moved ((s.modGroup i.r.gref (fun g =>
      let g := g.resume g.trap.pc g.trap.mask
      if step then { g with step := sp.map (fun n => (n, false)) } else g)).dropLatch i.r.gref)

/-- TRET (R393): in the debug agent its description refuses it (R83, check 6). -/
def execTret (x : EF) (s : State) : Out :=
  s.issue (fun i => { issueE (sigOf (.tret x)) false with priv := i.g.handler })
    (fun i => if i.g.debug then .trap { cause := cIllegalOp } else returnBody s i false)

/-- TRET.kill (R371, R393). -/
def execTretKill (x : EF) (s : State) : Out :=
  s.issue (fun i => { issueE (sigOf (.tretKill x)) false with priv := i.g.handler })
    (fun i =>
      if i.g.debug then .trap { cause := cIllegalOp }
      else if !i.g.fused then .trap { cause := cSplitLimit, detail := 3 }
      else if !s.handlerDone i then .wait
      else .moved (s.unrecoverable i.r i.g.trap.cause.toNat))

/-- DRESUME (R394). -/
def execDresume (x : EF) (s : State) : Out :=
  s.issue (fun i => { issueE (sigOf (.dresume x)) false with priv := i.g.handler && i.g.debug })
    (fun i => returnBody s i false)

/-- DRESUME.step (R377, R394). -/
def execDresumeStep (x : EF) (s : State) : Out :=
  s.issue (fun i => { issueE (sigOf (.dresumeStep x)) false with priv := i.g.handler && i.g.debug })
    (fun i => returnBody s i true)

/-- A gate-table entry (R378), with what its service region control block supplies. -/
structure Gate where
  entry : Nat
  htab : Nat
  hcount : Nat
  tasid : Nat
  tfdom : Nat
  va : Nat
  sa : Nat
  vr : Nat
  sr : Nat
  regs : Nat
  flg : Nat
  scr : Nat
  stack : Nat
  prio : Option Nat
  gtab : Nat
  gcount : Nat
  mailbox : Nat
  trace : Nat
  deriving DecidableEq, Repr

/-- The fields of an entry; `sb` holds the bytes of its service region control block, where it names one. -/
def gateOf (bs : List Byte) (sb : Option (List Byte)) : Gate :=
  let opt := fun (off : Nat) => match sb with
    | some b => if ones b off 8 then 0 else fieldN b off 8
    | none => 0
  { entry := fieldN bs 0 8, htab := fieldN bs 8 8, hcount := fieldN bs 16 4, tasid := fieldN bs 20 2,
    tfdom := fieldN bs 22 2, va := fieldN bs 36 1 % 16, sa := fieldN bs 36 1 / 16,
    vr := fieldN bs 37 1 % 16, sr := fieldN bs 37 1 / 16, regs := fieldN bs 38 1, flg := fieldN bs 39 1,
    scr := fieldN bs 40 2, stack := fieldN bs 42 2,
    prio := sb.map (fun b => if ones b 9 1 then 3 else fieldN b 9 1 % 8),
    gtab := match sb with | some b => fieldN b 40 8 | none => 0,
    gcount := match sb with | some b => fieldN b 68 4 | none => 0,
    mailbox := opt 88, trace := opt 80 }

/-- The limits of an entry's own fields (R378). -/
def gateFieldsOk (bs : List Byte) : Bool :=
  let g := gateOf bs none
  g.entry % 256 == 0 && g.entry < 2 ^ 55 && isPa g.htab && g.htab % 32 == 0 &&
  g.va ≤ 8 && g.sa ≤ 8 && g.vr ≤ 8 && g.sr ≤ 8 && regsOk g.regs && g.flg < 16 && g.scr ≤ 256 &&
  fieldN bs 44 4 == 0 && isPa (fieldN bs 48 8) && fieldN bs 48 8 % 256 == 0 && fieldN bs 56 8 == 0

/-- Whether an entry allows a caller's domain (R378). -/
def gateAllows (bs : List Byte) (f : Nat) : Bool :=
  (f < 64 && (fieldN bs 24 8).testBit f) || (fieldN bs 32 2 ≤ f && f ≤ fieldN bs 34 2)

/-- The bytes of an entry of a context's gate table, none at or beyond GCOUNT (R395). -/
def State.gateBytes (s : State) (d : Nat) (r : GRef) (ctx : Ctx) (n : Nat) : Option (List Byte) × State :=
  if ctx.gcount ≤ n then (none, s)
  else
    let (bs, s) := s.ctlLoad d r (ctx.gtab + 64 * n) 64
    (some bs, s)

/-- `GATE_DENIED` with a detail (R366). -/
def denied (n : Nat) : TrapInfo := { cause := cGateDenied, detail := n }

/-- The checks of a call after the fusion check, in their order (R395). -/
def State.gateCheck (s : State) (d : Nat) (r : GRef) (g : Group) (n : Nat) : Except TrapInfo Gate × State :=
  match s.gateBytes d r g.ctx n with
  | (none, s) => (.error (denied 0), s)
  | (some bs, s) =>
    if !(fieldN bs 39 1).testBit 0 then (.error (denied 0), s)
    else if !gateFieldsOk bs then (.error (denied 5), s)
    else
      let srcb := fieldN bs 48 8
      let (sb, s) := if srcb == 0 then (none, s)
        else let (b, s) := s.ctlLoad d r srcb 256; (some b, s)
      if (match sb with | some b => fieldN b 8 1 != 2 || !isPa (fieldN b 40 8) | none => false) then
        (.error (denied 5), s)
      else if !gateAllows bs g.ctx.fdom then (.error (denied 1), s)
      else if 4 ≤ g.gates.length then (.error (denied 2), s)
      else if !g.gates.isEmpty && !(fieldN bs 39 1).testBit 3 then (.error (denied 3), s)
      else (.ok (gateOf bs sb), s)

/-- Where the core's store has room for the window and scratchpad of a callee (R198, R395). -/
def State.gatePlace (s : State) (c : CoreId) (q : Gate) : Option Nat :=
  if s.coreStore c + 128 * q.regs + 1024 * q.scr ≤ storeLimit then
    gap (s.segments c) 128 (128 * q.regs)
  else none

/-- The x registers of a callee (R379). -/
def Gate.xregs (q : Gate) (ctx : Ctx) : List XReg :=
  let none' : Attr := { space := 0, policy := 0, r := false, w := false, a := false, row := false, dev := 0,
                        die := 0 }
  [.scratch, .cluster, .unbound, .unbound, .unbound, .unbound,
   if q.flg.testBit 2 then .callerTable ctx.htab (32 * ctx.hcount) else .unbound,
   if q.stack == 0xFFFF then .unbound
   else .handle { index := q.stack, boff := 0, vbase := 0, bound := 0, attr := none', frame := none,
                  limit := 0, lazy := true }]

/-- A group enters a callee (R379, R395): the frame is pushed and the callee's context built. `ret` is the
unit after the call and `sp` the split that called. A single step goes on in the callee's one split (R377). -/
def Group.enterGate (g : Group) (q : Gate) (sp : Nat) (ret : Pc) (vb : Nat) : Group :=
  let g0 := g.modSplit sp (fun p => { p with pc := ret, st := .ready, replay := none })
  let fr : GateFrame :=
    { ret := ret, ctx := g.ctx, vb := g.vb, regcnt := g.regcnt, s := g.s, k := g.k, v := g.v, fe := g.fe,
      x := g.x, flags := g.flags, rgnpc := g.rgnpc, rgnOpen := false, splits := g0.splits,
      gatestat := g.gatestat, scr := g.calleeScr, scrSize := g.calleeSize, vr := q.vr, sr := q.sr,
      abort := q.flg.testBit 1 }
  { g with
    gates := fr :: g.gates, vb := vb, regcnt := q.regs,
    v := (List.range q.regs).map (fun n => if n < q.va then g.v.getD n [] else List.replicate 32 0),
    fe := List.replicate q.regs feFull,
    s := (List.range 16).map (fun n => if n < q.sa then g.s.getD n 0 else 0),
    k := List.replicate 7 0, flags := 0, x := q.xregs g.ctx,
    splits := [some { pc := BitVec.ofNat 55 q.entry, mask := g.live, st := .ready, rlist := [],
                      mstk := [], replay := none,
                      lastIssue := ((g.splits.getD sp none).map (fun (p : Split) => p.lastIssue)).getD 0 },
              none, none, none],
    rgnpc := 0, rgnOpen := false, gatestat := 0, calleeScr := [], calleeSize := 1024 * q.scr,
    step := g.step.map (fun p => (0, p.2)),
    ctx := { asid := q.tasid, fdom := q.tfdom, htab := q.htab, hcount := q.hcount, gtab := q.gtab,
             gcount := q.gcount, prio := q.prio.getD g.ctx.prio, mailbox := q.mailbox,
             trace := q.trace } }

/-- A group enters a callee, whose window and scratchpad take their part of the core's store (R17, R379, R395). -/
def State.enterGate (s : State) (r : SRef) (q : Gate) (ret : Pc) (vb : Nat) : State :=
  (s.modGroup r.gref (fun g => g.enterGate q r.sp ret vb)).fitL1 (s.coreOf r.blk) 0

/-- GCALL (R395). -/
def execGcall (x : EF) (s : State) : Out :=
  s.issue (fun _ => issueE (sigOf (.gcall x)) true) (fun i =>
    let n := (i.g.src x.a 0).toNat
    if i.g.handler then .trap { cause := cProtection, detail := 6 }
    else if !i.g.fused then .trap { cause := cGateSplit }
    else match s.gateCheck i.b.core.die i.r.gref i.g n with
      | (.error t, s) => Res.readIn (.trap t) s
      | (.ok q, s) =>
        if !i.g.loads.isEmpty then .wait
        else if (List.range q.va).any (fun v => i.g.emptyIn v i.cur.active) then
          (if hintFt i.cur.hints then trapOp cEmptyReg .other
           else .waitOn ((List.range q.va).map (fun v => (v, i.cur.active))) [])
        else match s.gatePlace i.b.core q with
          | none => .block (.gcall n) s
          | some vb => .moved ((s.enterGate i.r q i.cur.next vb).dropLatch i.r.gref))

/-- GCALL_STORE_GRANT (R395): the waiting call reads its entry again; an entry that no longer passes its
checks traps at the call. -/
def execGcallStoreGrant (r : SRef) (s : State) : Out :=
  match s.wakeOf r, s.group? r.gref, s.split? r with
  | some (.gcall n, next), some g, some p =>
    let c := s.coreOf r.blk
    match s.gateCheck c.die r.gref g n with
    | (.error t, s) => stepIf "GCALL_STORE_GRANT" (s.mayWake r.gref)
        (((s.modSplit r (fun p => { p with st := .ready })).trapAt r t p.pc).after r)
    | (.ok q, s) => match s.gatePlace c q with
      | none => .fault (.notEnabled "GCALL_STORE_GRANT")
      | some vb => stepIf "GCALL_STORE_GRANT" (s.mayWake r.gref)
          (((s.enterGate r q next vb).dropLatch r.gref).after r)
  | _, _, _ => .fault (.notEnabled "GCALL_STORE_GRANT")

/-- Whether everything that the callee issued has completed (R396). -/
def State.calleeDone (s : State) (i : Iss) : Bool :=
  i.g.loads.isEmpty && s.calleeIdle i.r.gref i.g.gates.length

/-- The results of a call copied into the restored caller (R396). -/
def Group.gateReturn (g : Group) (f : GateFrame) : Group :=
  let h := g.popGate
  let v := (List.range f.vr).foldl (fun v n => putRow v n h.live (fun L => g.vGet n L)) h.v
  let h := { h with v := v }
  let h := (List.range f.sr).foldl (fun (h : Group) n => h.sSet n (g.sGet n)) h
  { (h.sSet 14 0).sSet 15 0 with gatestat := 0 }

/-- GRET (R396). -/
def execGret (x : EF) (s : State) : Out :=
  s.issue (fun _ => issueE (sigOf (.gret x)) true) (fun i =>
    match i.g.gates with
    | [] => .trap { cause := cProtection, detail := 6 }
    | f :: _ =>
      if i.g.handler then .trap { cause := cProtection, detail := 6 }
      else if !i.g.fused then .trap { cause := cSplitLimit, detail := 3 }
      else if (List.range f.vr).any (fun v => i.g.emptyIn v i.cur.active) then
        (if hintFt i.cur.hints then trapOp cEmptyReg .other
         else .waitOn ((List.range f.vr).map (fun v => (v, i.cur.active))) [])
      else if !s.calleeDone i then .wait
      else .moved (((s.endStashes i.r.gref i.g.gates.length).modGroup i.r.gref
        (fun g => g.gateReturn f)).dropLatch i.r.gref))

/-- GQRY (R397). -/
def execGqry (x : EF) (s : State) : Out :=
  s.issue (fun _ => issueE (sigOf (.gqry x)) true) (fun i =>
    let n := (i.g.src x.a 0).toNat
    let put := fun (s : State) (lo hi : Nat) => Res.done (s.modGroup i.r.gref (fun g =>
      (g.sSet (sNum x.d) (wd lo)).sSet (sNum x.d + 1) (wd hi)))
    match s.gateBytes i.b.core.die i.r.gref i.g.ctx n with
    | (none, s) => put s 0 0
    | (some bs, s) =>
      if !(fieldN bs 39 1).testBit 0 then put s 0 0
      else match s.gateCheck i.b.core.die i.r.gref i.g n with
        | (.ok _, s) => put s (fieldN bs 36 4) 1
        | (.error _, s) => put s (fieldN bs 36 4) 0)

/-- The bytes of a launch record, read through an x register as weak loads (R358). -/
def State.forkRead (s : State) (r : GRef) (x : Nat) (o : Int) : Except MFault (List Byte) × State :=
  match s.resolve r x o 160 .load with
  | (.error f, s) => (.error f, s)
  | (.ok _, s) => (List.range 160).foldl (fun (p : Except MFault (List Byte) × State) (k : Nat) =>
      match p with
      | (.error f, s) => (.error f, s)
      | (.ok bs, s) => match s.resolve r x (o + k) 1 .load with
        | (.error f, s) => (.error f, s)
        | (.ok l, s) =>
          let (b, _, s) := s.readLoc r l 1 AOrd.weak
          (.ok (bs ++ b), s)) (.ok [], s)

/-- The empty window words of a launch record, for which a `FORK` waits (R44, R51). -/
def State.forkEmpty (s : State) (i : Iss) (x : Nat) (o : Int) : List (Nat × Mask) :=
  match (s.resolve i.r.gref x o 160 .load).1 with
  | .ok l => i.g.emptyWords l 160
  | .error _ => []

/-- The scope of the release of a `FORK` (R358): the device where the child has blocks on another die. -/
def forkScope (i : Iss) (q : Region) : Nat := if q.pend.any (fun x => x.1 != i.b.core.die) then 4 else 3

/-- The child of a `FORK`, once its checks have passed (R358). -/
def State.forkChild (s : State) (i : Iss) (p : Region) (bs : List Byte) (l : LaunchRec) : State :=
  let q := regionOfBytes l.rcb bs (some p) l
  let (sig, s) := s.releaseAt i.r.gref (forkScope i q)
  let (met, _, s) := s.waitsMet l
  let st := if met then 0 else 1
  let s := s.initRcb l.rcb p.rcb st
  let s := match sig with | some e => s.sigOr ((l.rcb + 11) / 128) e | none => s
  let s := s.setChildren p.rcb (p.children + 1)
  let s := s.modBlock i.r.blk (fun b => { b with children := b.children + 1, kids := insertNat l.rcb b.kids })
  let q := { q with st := st, forkBlk := some i.r.blk }
  (s.putRegion q).enqueueLaunch q

/-- FORK (R358). -/
def execFork (x : EF) (s : State) : Out :=
  s.issue (fun _ => issueE (sigOf (.fork x)) true) (fun i =>
    let o := (i.g.src x.a 0).toInt
    if i.g.inGate || i.g.handler then .trap { cause := cProtection, detail := 6 }
    else if o % 32 != 0 then .trap { cause := cMisaligned }
    else if !(s.forkEmpty i (x.b.toNat % 8) o).isEmpty then .waitOn (s.forkEmpty i (x.b.toNat % 8) o) []
    else match s.forkRead i.r.gref (x.b.toNat % 8) o with
      | (.error f, s) => .park f 1 [] [] s
      | (.ok rec, s) =>
        let l := launchRec rec
        match s.region? i.b.rcb with
        | none => trapOp cIllegalOperand .a
        | some p =>
          if (launchBad rec).isSome || !l.holds then trapOp cIllegalOperand .a
          else
            let (bs, s) := s.ctlLoad i.b.core.die i.r.gref l.rcb 256
            let q := regionOfBytes l.rcb bs (some p) l
            if (rcbBad bs [1] false).isSome || budgetOver bs p || !q.budgetOk ||
                p.children == 2 ^ 32 - 1 then Res.readIn (trapOp cIllegalOperand .a) s
            else match s.almanac l with
              | (none, s) => Res.readIn (.trap { cause := cLaunchAlmanac }) s
              | (some _, s) =>
                if !s.releaseReady i.r then .waitRel (forkScope i q) else .done (s.forkChild i p bs l))

/-- The acquire of a completed `JOIN`: the completion counters of the block's children (R359). -/
def State.joinAcquire (s : State) (r : SRef) : State :=
  let (e, s) := (((s.blocks[r.blk]?).map (·.kids)).getD []).foldl
    (fun (p : Sig × State) k =>
      let (e, s) := p.2.systemEntry (k + 56)
      (p.1 ||| e, s)) (s.inbound, s)
  (s.applyEntry (s.coreOf r.blk).die e).acquireAt r 5

/-- JOIN (R359). -/
def execJoin (x : EF) (s : State) : Out :=
  s.issue (fun _ => issueE (sigOf (.join x)) false) (fun i =>
    if i.g.inGate || i.g.handler then .trap { cause := cProtection, detail := 6 }
    else if i.b.children == 0 then .done (s.joinAcquire i.r)
    else .block .join s)

/-- A translation removed from a binding: its limit becomes 0 (R227, R398). -/
def XReg.zap (p : Leaf → Bool) : XReg → XReg
  | .handle h => match h.frame with
    | some f => if p f.leaf then .handle { h with limit := 0 } else .handle h
    | none => .handle h
  | q => q

/-- The same for the binding of a `CPQ` that waits for a slot. -/
def Split.zap (p : Leaf → Bool) (q : Split) : Split :=
  match q.st with
  | .blocked (.cpq n e) a => { q with st := .blocked (.cpq n { e with src := { e.src with x := XReg.zap p e.src.x } }) a }
  | _ => q

/-- The same for every binding of a group, those of its handler and gate frames included. -/
def Group.zap (p : Leaf → Bool) (g : Group) : Group :=
  { g with
    x := g.x.map (XReg.zap p),
    splits := g.splits.map (Option.map (Split.zap p)),
    frames := g.frames.map (fun f => { f with
      x6 := XReg.zap p f.x6, x7 := XReg.zap p f.x7, splits := f.splits.map (Option.map (Split.zap p)) }),
    gates := g.gates.map (fun f => { f with x := f.x.map (XReg.zap p) }) }

def Endpoint.zap (p : Leaf → Bool) (e : Endpoint) : Endpoint := { e with x := XReg.zap p e.x }

def EngKind.zap (p : Leaf → Bool) : EngKind → EngKind
  | .copy d q len done => .copy (Endpoint.zap p d) (Endpoint.zap p q) len done
  | .tld t q done b => .tld t (Endpoint.zap p q) done b
  | k => k

/-- Every cached leaf that satisfies `p` goes, on every core, and every binding made through one loses its
frame (R398). -/
def State.shootdown (s : State) (p : Leaf → Bool) : State :=
  { s with
    cores := s.cores.map (fun c => { c with tlb := c.tlb.filter (fun l => !p l) }),
    blocks := s.blocks.map (fun b => { b with groups := b.groups.map (Group.zap p) }),
    engines := s.engines.map (fun e => { e with kind := EngKind.zap p e.kind }),
    dies := s.dies.map (fun d => { d with
      cq := d.cq.map (fun q => (q.1, { q.2 with src := Endpoint.zap p q.2.src })) }) }

/-- The leaves that `TLBI.va` and `TLBI.asid` name (R398). -/
def tlbiVaLeaf (asid va : Nat) (l : Leaf) : Bool :=
  (l.g || l.asid == asid) && l.vbase ≤ va && va < l.vbase + l.size
def tlbiAsidLeaf (asid : Nat) (l : Leaf) : Bool := !l.g && l.asid == asid

/-- Whether a row instruction, all of whose rows were translated at its issue (R411), still has rows to do. -/
def State.rowsBusy (s : State) : Bool := s.engines.any (fun e => e.kind.isRow)

/-- A `TLBI` (R398): it waits as a release fence at system scope, and for the accesses already translated that have not
been performed, those of row instructions whatever leaf they went through; then it removes. -/
def tlbi (sig : OpSig) (p : Iss → Leaf → Bool) (s : State) : Out :=
  s.issue (fun i => { issueE sig false with priv := i.g.handler }) (fun i =>
    if !s.releaseReady i.r then .waitRel 5
    else if s.rowsBusy then .wait
    else .done ((s.fenceRel i.r.gref 5).shootdown (p i)))

/-- TLBI.va (R398). -/
def execTlbiVa (x : EF) (s : State) : Out :=
  tlbi (sigOf (.tlbiVa x)) (fun i => tlbiVaLeaf (bitsW (i.g.src x.b 0) 15 0) (i.g.src64 x.a 0).toNat) s
/-- TLBI.asid (R398). -/
def execTlbiAsid (x : EF) (s : State) : Out :=
  tlbi (sigOf (.tlbiAsid x)) (fun i => tlbiAsidLeaf (bitsW (i.g.src x.b 0) 15 0)) s
/-- TLBI.all (R398). -/
def execTlbiAll (x : EF) (s : State) : Out := tlbi (sigOf (.tlbiAll x)) (fun _ _ => true) s

/-- The lines of a physical range of which some die holds a copy (R399). -/
def State.heldLines (s : State) (pa n : Nat) : List Nat :=
  let all := s.dies.flatMap (fun d => d.copies.map (·.line)) ++ s.cores.flatMap (fun c => c.l1.map (·.line)) ++
    s.blocks.flatMap (fun b => b.stashes.flatMap (fun t => t.lines.map (·.line)))
  sortedSet (all.filter (fun l => pa / 128 ≤ l && l < (pa + n + 127) / 128))

/-- Maintenance of a physical range on every die (R399). -/
def State.maintain (s : State) (pa n : Nat) (flush : Bool) : State :=
  (s.heldLines pa n).foldl (fun s l => s.maintainLine l flush) s

/-- CMAINT.clean and CMAINT.flush (R399). -/
def cmaint (sig : OpSig) (flush : Bool) (x : EF) (s : State) : Out :=
  s.issue (fun i => { issueE sig false with priv := i.g.handler }) (fun i =>
    let pa := (i.g.src64 x.a 0).toNat
    let n := (i.g.src x.b 0).toNat
    if pa % 65536 != 0 then .trap { cause := cMisaligned }
    else if n == 0 || 65536 < n then trapOp cIllegalOperand .b
    else .done (s.maintain pa (65536 * n) flush))

/-- CMAINT.clean (R399). -/
def execCmaintClean (x : EF) (s : State) : Out := cmaint (sigOf (.cmaintClean x)) false x s
/-- CMAINT.flush (R399). -/
def execCmaintFlush (x : EF) (s : State) : Out := cmaint (sigOf (.cmaintFlush x)) true x s
/-- CMAINT.sweep (R281, R399). -/
def execCmaintSweep (x : EF) (s : State) : Out :=
  s.issue (fun i => { issueE (sigOf (.cmaintSweep x)) false with priv := i.g.handler })
    (fun _ => .done s.sweep)

/-- The fault record of a token, and the die whose queue holds it (R372); 4 stands for another package (R408). -/
def State.recordOf (s : State) (token : Nat) : Option (Nat × FaultRec) :=
  (dieList.filterMap (fun d => ((s.die d).faultq.find? (fun (r : FaultRec) => r.token == token)).map
      (fun (r : FaultRec) => (d, r))) ++
    (s.farFaults.filter (fun (r : FaultRec) => r.token == token)).map (fun (r : FaultRec) => (4, r))).head?

/-- The helm cores have served a record. -/
def State.served (s : State) (d token : Nat) : State :=
  { s with farFaults := s.farFaults.filter (fun r => r.token != token) }.modDie d
    (fun k => { k with faultq := k.faultq.filter (fun r => r.token != token), served := k.served + 1 })

/-- The splits parked on the record of a token; the flag says that the split's group can take the answer:
its block is resident and the split is in the group's table (R373). -/
def State.parkedOn (s : State) (token : Nat) : List (SRef × Parked) :=
  (List.range s.blocks.length).flatMap (fun b => (s.groupsOf b).flatMap (fun r => match s.group? r with
    | some g => g.valid.filterMap (fun x => match x.2.st with
        | .parkedFault k => if k.token == some token then some (⟨r.blk, r.grp, x.1⟩, k) else none
        | _ => none)
    | none => []))

/-- Whether a parked split waits inside a handler frame of its group, so that the answer must wait. -/
def State.parkedDeep (s : State) (token : Nat) : Bool :=
  s.blocks.any (fun b => b.st != .killed && b.st != .ended && b.groups.any (fun g => g.frames.any (fun f =>
    f.splits.any (fun p => match p with
      | some p => (match p.st with | .parkedFault k => k.token == some token | _ => false)
      | none => false))))

/-- The engine instruction and the queue entry that wait on a record (R403, R408). -/
def State.engineOn (s : State) (token : Nat) : Option EngOp := s.engines.find? (fun e => e.wait == some token)
def State.cpqOn (s : State) (token : Nat) : Option (Nat × Nat × CpqEntry) :=
  (dieList.filterMap (fun d => ((s.die d).cq.find? (fun q => q.2.wait == some token)).map
    (fun q => (d, q.1, q.2)))).head?

/-- Whether a fault record is of an access to a page that is being moved (R431). -/
def FaultRec.meets (f : FaultRec) (l : Leaf) : Bool :=
  f.info.cause == cPageFault && f.asid == l.asid && l.vbase ≤ f.va.toNat && f.va.toNat < l.vbase + l.size

/-- A record that may be answered, with the die of its queue: one of an access to a page that is being moved waits for
the move's end (R431). -/
def State.answerable (s : State) (token : Nat) : Option (Nat × FaultRec) :=
  (s.recordOf token).filter (fun x => !(s.migrations.any (fun m => x.2.meets m.leaf)))

/-- FAULT_REPLAY (R373, R403): the unfinished lanes, or the engine's instruction, go on where they
stopped. -/
def execFaultReplay (token : Nat) (s : State) : Out :=
  match s.answerable token with
  | none => .fault (.notEnabled "FAULT_REPLAY")
  | some (d, _) =>
    let t := s.served d token
    match (s.parkedOn token).head?, s.engineOn token, s.cpqOn token with
    | some (r, k), _, _ => stepIf "FAULT_REPLAY" (s.mayWake r.gref)
        (t.modSplit r (fun p => { p with
          st := .ready, replay := some { mask := k.mask, vregs := k.vregs, sregs := k.sregs, fl := k.fl, va := k.va } }))
    | none, some op, _ => stepIf "FAULT_REPLAY" true (t.modEngine op.id (fun e => { e with wait := none }))
    | none, none, some (die, q, e) => stepIf "FAULT_REPLAY" true (t.putCpq die q e { e with wait := none })
    | none, none, none => stepIf "FAULT_REPLAY" (!s.parkedDeep token) t

/-- FAULT_DELIVER (R373, R403, R408): to the domain's handler, or as an engine fault of the group. -/
def execFaultDeliver (token : Nat) (s : State) : Out :=
  match (s.answerable token).filter (fun x => !x.2.moved) with
  | none => .fault (.notEnabled "FAULT_DELIVER")
  | some (d, rc) =>
    let t := s.served d token
    match (s.parkedOn token).head?, s.engineOn token, s.cpqOn token with
    | some (r, k), _, _ => stepIf "FAULT_DELIVER" (s.mayWake r.gref) (
        let unit := ((s.split? r).map (·.pc)).getD 0
        let k := { k with token := none }
        ((t.modSplit r (fun p => { p with st := .parkedFault k })).takeTrap r k.info unit k.mask k.va
          (some (unit, k))).after r)
    | none, some op, _ => stepIf "FAULT_DELIVER" true (((t.endEngine op.id).pushEFault op.grp
        { info := rc.info, va := rc.va, obj := some op.obj, depth := op.depth, matrix := false,
          tld := op.kind.isTld }).workDone op.grp.blk op.id)
    | none, none, some (die, q, e) => stepIf "FAULT_DELIVER" true (t.cpqEnd die q e
        (if e.read < e.len then rc.info else { cause := cEngineFault }) rc.va)
    | none, none, none => stepIf "FAULT_DELIVER" (!s.parkedDeep token) t

/-- A gate call whose callee is being aborted ends once the callee is idle (R382). -/
def wakeAbort (r : GRef) (s : State) : Out :=
  match (s.group? r).bind (fun (g : Group) => (g.valid.head?).map (fun x => x.2.st)) with
  | some (SplitSt.blocked (Wake.abort cause) _) =>
    stepIf "GATE_ABORT" (s.resident r.blk && (match s.group? r with
        | some g => s.calleeIdle r g.gates.length
        | none => false))
      ((s.abortEnd r cause).after ⟨r.blk, r.grp, 0⟩)
  | _ => .fault (.notEnabled "GATE_ABORT")

/-- Whether a breakpoint of a core matches an address (R375). -/
def Core.breaksAt (c : Core) (pc : Pc) : Bool :=
  c.brk.any (fun w => w.getLsbD 0 && bitsW w 31 2 == bitsN pc.toNat 31 2)

/-- Whether a split halts before its next unit (R375 to R377). A unit that is to be replayed (R370) goes ahead: DESIGN CHOICE
(log entry 93). -/
def State.breaks (s : State) (r : SRef) : Bool :=
  match s.group? r.gref, s.split? r with
  | some g, some p =>
    g.level == 0 && g.ctx.mailbox != 0 && p.replay.isNone && (g.step.map (·.1)) != some r.sp &&
    (s.core (s.coreOf r.blk)).breaksAt p.pc
  | _, _ => false

/-- BREAKPOINT_HALT (R194, R375): the split halts before its unit issues, while a pre-emption is pending too. -/
def execBreakpointHalt (r : SRef) (s : State) : Out :=
  match s.split? r with
  | some p => stepIf "BREAKPOINT_HALT" (s.breaks r && s.resident r.blk && p.st.atIssue)
      ((({ s with cur := none } : State).trapAt r { cause := cBreak, detail := 64 } p.pc).after r)
  | none => .fault (.notEnabled "BREAKPOINT_HALT")

/-- FETCH_FAULT (R180): the fetch of the unit in `cur` faults, and its split parks there with its whole
MASK, or with the unfinished lanes of the unit that it is to replay (R231, R370). -/
def execFetchFault (cause detail : Nat) (va : BitVec 64) (s : State) : Out :=
  match s.iss? with
  | none => .fault .noIssuingSplit
  | some i =>
    if cause == cPageFault || cause == cProtection || cause == cDieLost || cause == cEcc then
      s.finish i (.park ({ cause := cause, detail := detail, acc := 3 }, some va.toInt) i.cur.active
        ((i.cur.replay.map (·.vregs)).getD []) ((i.cur.replay.map (·.sregs)).getD []) s
        ((i.cur.replay.map (·.fl)).getD false))
    else .fault (.notEnabled "FETCH_FAULT")

/-- UNASSIGNED_OPCODE (R82, R83): an unassigned opcode traps `ILLEGAL_OP`, a lone reserved hint
`ILLEGAL_HINT`. -/
def execUnassignedOpcode (w : Word) (s : State) : Out :=
  match s.iss? with
  | none => .fault .noIssuingSplit
  | some i => match decodeWord w with
    | .error (.unassigned _) => s.finish i (.trap { cause := cIllegalOp })
    | .error (.reservedHint _) => s.finish i (.trap { cause := cIllegalHint })
    | _ => .fault (.notEnabled "UNASSIGNED_OPCODE")

end Sys2Proof.Machine
end

