-- ==== Sys2Proof/Machine/CohEv.lean ====
section
/-! DEFINITION. The steps of the coherence system, the die links and the loss of a die (14 R261 to R289; 15
R309, R310). -/

namespace Sys2Proof.Machine

open Sys2Proof

/-! ## The fields of a command -/

/-- A field of a command entry. -/
def CmdField (e : CmdEntry) (off n : Nat) : Nat := fieldN e.bytes off n

/-- CODE of an entry (R419). -/
def cmdCode (e : CmdEntry) : Nat := CmdField e 0 2

/-! ## Coherence steps -/

/-- A core of the package (R13). -/
def realCore (c : CoreId) : Bool := c.die < 4 && c.cluster < 3 && c.core < 256

/-- The class under which a core asks for a line: that of the die's copy, else that of a leaf through which
the core reaches it (R259). -/
def State.askClass (s : State) (c : CoreId) (line : Nat) : Option Nat :=
  match s.l2? c.die line with
  | some k => some k.cc
  | none => ((s.core c).tlb.find? (fun l => l.pbase ≤ 128 * line && 128 * line < l.pbase + l.size)).map (·.cc)

/-- Whether a core caches lines of a class (R232, R259). -/
def State.caches (s : State) (c : CoreId) (line cc : Nat) : Bool :=
  cc < 2 || (cc == 3 && s.homeOfLine line == some c.die)

/-- The homes that answer: a line's home is present and not in reset or lost. -/
def State.homeUp (s : State) (line : Nat) : Bool :=
  match s.homeOfLine line with
  | some h => (s.die h).st == .running
  | none => false

/-- GETS (R264): the core receives the line in the granted state. -/
def execGets (c : CoreId) (line : Nat) (s : State) : Out :=
  match s.askClass c line with
  | some cc => stepIf "GETS"
      (realCore c && s.caches c line cc && s.homeUp line && !(s.coreHolds c line)) (s.l1Read c line cc).2
  | none => .fault (.notEnabled "GETS")

/-- GETM (R264): the core receives the line in M. -/
def execGetm (c : CoreId) (line : Nat) (s : State) : Out :=
  match s.askClass c line with
  | some cc => stepIf "GETM"
      (realCore c && s.caches c line cc && s.homeUp line && !(s.coreHolds c line))
      (let (l, s) := s.getM c line cc
       s.putL1 c { line := line, st := .m, data := l, mask := 0 })
  | none => .fault (.notEnabled "GETM")

/-- UPG (R264, R265). -/
def execUpg (c : CoreId) (line : Nat) (s : State) : Out :=
  match s.l1? c line, s.askClass c line with
  | some x, some cc => stepIf "UPG" (x.st == Mesi.s && s.homeUp line) (s.upg c line cc)
  | _, _ => .fault (.notEnabled "UPG")

/-- PUTM (R264). -/
def execPutm (c : CoreId) (line : Nat) (s : State) : Out :=
  match s.l1? c line with
  | some x => stepIf "PUTM" (x.st == Mesi.m) (s.put c line)
  | none => .fault (.notEnabled "PUTM")

/-- PUTE (R264). -/
def execPute (c : CoreId) (line : Nat) (s : State) : Out :=
  match s.l1? c line with
  | some x => stepIf "PUTE" (x.st == Mesi.e) (s.put c line)
  | none => .fault (.notEnabled "PUTE")

/-- L2_EVICTION (R261, R270, R282). -/
def execL2Eviction (die line : Nat) (s : State) : Out :=
  stepIf "L2_EVICTION" (die < 4 && (s.l2? die line).isSome && s.homeUp line) (s.evict die line)

/-- EARLY_DIFFERENCE (R270): the record is sent. -/
def execEarlyDifference (die line : Nat) (s : State) : Out :=
  stepIf "EARLY_DIFFERENCE" (die < 4 && (s.die die).dirtyLines.contains line) (s.earlyDiff die line)

/-- DEVICE_RELEASE_RUN (R272, R273): of a die that runs and whose records can be merged. -/
def execDeviceReleaseRun (die : Nat) (s : State) : Out :=
  stepIf "DEVICE_RELEASE_RUN"
    (die < 4 && (s.die die).st == .running && !(s.toReset die) && !(s.mergeHeld die)) (s.deviceRelease die)

/-- The oldest record of a die to a home that has not been merged (R275). -/
def State.nextRecord (s : State) (src home : Nat) : Option DiffRec :=
  s.records.find? (fun r => r.src == src && !r.merged && s.homeOfLine r.line == some home)

/-- DIFF_RECORD_MERGE (R275): held in replay for its logged predecessor (R428). -/
def execDiffRecordMerge (src home : Nat) (s : State) : Out :=
  match s.nextRecord src home with
  | some r => stepIf "DIFF_RECORD_MERGE"
      ((s.die home).st == .running && s.mergeTurn r.line home src != .held)
      (let s := s.mergeRecord r
       { s with records := modFirst (fun q => q == r) (fun q => { q with merged := true }) s.records })
  | none => .fault (.notEnabled "DIFF_RECORD_MERGE")

/-- MERGE_ACK (R275): the acknowledgement of the oldest merged record arrives, over the link from its home (R287). -/
def execMergeAck (src : Nat) (s : State) : Out :=
  match s.records.find? (fun r => r.src == src && r.merged) with
  | some r => stepIf "MERGE_ACK" true
      { s.reach src r.line with records := dropFirst (fun q => q.src == src && q.merged) s.records }
  | none => .fault (.notEnabled "MERGE_ACK")

/-- COHERENCE_SWEEP (R281): in the cases in which the device starts one. -/
def execCoherenceSweep (s : State) : Out := stepIf "COHERENCE_SWEEP" s.sweepDue s.sweep

/-- LINK_SLEEP (R29, R287): of a link that has carried no traffic for 50 µs and is not held awake. -/
def execLinkSleep (link : Nat) (s : State) : Out :=
  match s.links[link]? with
  | some l => stepIf "LINK_SLEEP" (!l.asleep && !l.failed && !l.held && l.busy + 50000 ≤ s.wall.toNat)
      (s.modLink link (fun l => { l with asleep := true }))
  | none => .fault (.notEnabled "LINK_SLEEP")

/-- LINK_WAKE (R287, R288): a sleeping link, or one that trains again, is up; its failures are no longer in a
row. -/
def execLinkWake (link : Nat) (s : State) : Out :=
  match s.links[link]? with
  | some l => stepIf "LINK_WAKE" (l.asleep || l.failed)
      (s.modLink link (fun l => { l.woken s.wall.toNat with failures := 0 }))
  | none => .fault (.notEnabled "LINK_WAKE")

/-- The groups that `DIE_LOST` of a die goes to (R288, R365): those of its fault domains that live on other
dies receive it as an asynchronous cause, and Rolger hears of each domain. -/
def State.tellDomains (s : State) (d : Nat) : State :=
  let fs := sortedSet (s.fdomsOn d ++ (s.die d).fdoms)
  let s := fs.foldl (fun s f => s.report (.dieLost d f)) s
  { s with blocks := s.blocks.map (fun b =>
      if b.core.die != d && (b.st == .resident || b.st == .saved || b.st == .waitingJoin) then
        { b with groups := b.groups.map (fun g =>
            if !g.ended && fs.contains g.ctx.fdom then { g with async := g.async ++ [(cDieLost, d)] }
            else g) }
      else b) }

/-- The blocks of a die are gone (R288, R289): with the engine instructions that its groups issued, those of killed
regions among them (R416), and the die's copy queues. -/
def State.dieBlocks (s : State) (d : Nat) : State :=
  let gone := indicesWhere (fun (b : Block) => b.core.die == d &&
    (b.st == .resident || b.st == .saved || b.st == .waitingJoin)) s.blocks
  ({ s with
    blocks := (s.blocks.zipIdx).map (fun x => if gone.contains x.2 then { x.1 with st := .killed } else x.1),
    engines := s.engines.filter (fun e => e.die != d && !(gone.contains e.grp.blk)) } : State).modDie d
      (fun k => { k with
        lq := k.lq.filter (fun q => match q.2 with | .block _ => false | .launch _ => true), cq := [] })

/-- A row instruction of another die loses its rows on a die (R416): of those that it has not begun it begins none, and
its group receives `DIE_LOST`. -/
def State.abandonRows (s : State) (d : Nat) : State :=
  (s.engines.filter (fun e => e.kind.restRows.any (fun p => s.homeOf p == some d))).foldl (fun s e =>
    (s.endEngine e.id).modGroup e.grp (fun g => { g with async := g.async ++ [(cDieLost, d)] })) s

/-- Every copy and twin that a die holds of lines homed on another goes (R288). -/
def State.dropHomed (s : State) (d home : Nat) : State :=
  let ls := ((s.die d).copies.filter (fun k => s.homeOfLine k.line == some home)).map (·.line)
  ls.foldl (fun s l => (s.rinvLine d l 1).dropL2 d l) s

/-- Whether the release run of a die waits for a merge at another (R273, R288). -/
def State.mergesAt (s : State) (d home : Nat) : Bool :=
  (s.die d).dirtyLines.any (fun l => s.homeOfLine l == some home) ||
  s.records.any (fun r => r.src == d && s.homeOfLine r.line == some home)

/-- Whether the release of a split waits for a release run of its die: one at device or system scope (R235, R288). -/
def Split.inRun (p : Split) : Bool := p.relNext.any (fun x => 4 ≤ x.2)

/-- A split whose release run waits goes on after it: the release is not performed (R288). -/
def Split.giveUp (p : Split) : Split :=
  match p.relNext with
  | some (n, sc) => if 4 ≤ sc then { p with pc := n, st := .ready, replay := none, relNext := none } else p
  | none => p

/-- Release runs of a group that wait for a merge at a lost die end, and the group receives `DIE_LOST` once (R288):
`splits` says that those of its splits do, `engine` that one of an engine instruction does. -/
def Group.endReleases (g : Group) (d : Nat) (splits engine : Bool) : Group :=
  let runs := splits && g.valid.any (fun x => x.2.inRun)
  if engine || runs then
    { g with
      splits := if runs then g.splits.map (Option.map Split.giveUp) else g.splits,
      async := if g.async.contains (cDieLost, d) then g.async else g.async ++ [(cDieLost, d)] }
  else g

/-- Whether the release run of an engine instruction waits for a merge at a lost die alone: all that the release orders has
completed, and one run or row is left (R288, R414). -/
def State.opInRun (s : State) (d : Nat) (e : EngOp) : Bool :=
  e.rel && 4 ≤ e.scope && e.wait.isNone && (!e.kind.isRow || e.kind.rowsLeft == 1) && s.priorOwn e.grp e.id &&
  s.mergesAt (s.coreOf e.grp.blk).die d

/-- The same for an entry of a copy queue, whose release runs on two dies and stands before its flag atomic (R407). -/
def State.cpqInRun (s : State) (d die : Nat) (x : Nat × CpqEntry) : Bool :=
  let e := x.2
  e.rel && 4 ≤ e.scope && e.wait.isNone && e.landed == e.len && s.priorOwn e.grp e.id &&
  (e.flag.isNone || ((s.die die).queue x.1).head? == some e) &&
  (s.mergesAt die d || (!e.remote && s.mergesAt e.recvDie d))

/-- The release runs that wait for a merge at a lost die end (R288), where they have begun: those of splits; those of
engine instructions, which go on without it (DESIGN CHOICE, log entry 72); and those of queue entries, whose flag atomic is
not performed. -/
def State.endRuns (s : State) (d : Nat) : State :=
  let dead := fun (r : GRef) => s.mergesAt (s.coreOf r.blk).die d && s.priorOwn r s.nextId
  let out := fun (x : Nat) (q : Nat × CpqEntry) => s.cpqInRun d x q
  let hit := (s.engines.filter (s.opInRun d)).map (·.grp) ++
    dieList.flatMap (fun x => ((s.die x).cq.filter (out x)).map (fun q => q.2.grp))
  { s with
    blocks := (s.blocks.zipIdx).map (fun x => { x.1 with
      groups := (x.1.groups.zipIdx).map (fun y =>
        y.1.endReleases d (x.1.st == .resident && dead ⟨x.2, y.2⟩) (hit.contains ⟨x.2, y.2⟩)) }),
    engines := s.engines.map (fun e => if s.opInRun d e then { e with rel := false } else e),
    dies := (s.dies.zipIdx).map (fun x => { x.1 with cq := x.1.cq.filter (fun q => !(out x.2 q)) }) }

/-- A `PREEMPT` under way that names a die where its region still has blocks is ended by the die's loss (R420). -/
def State.endPreempts (s : State) (d : Nat) : State :=
  { s with lostCmds := s.lostCmds ++ s.pending.filter (fun e => cmdCode e == 2 && (CmdField e 24 1).testBit d &&
      s.blocks.any (fun b => b.rcb == CmdField e 16 8 && b.st == .resident && b.core.die == d)) }

/-- A die is lost (R288): with its copies and twins, and all that its cores hold. -/
def State.dieLost (s : State) (d : Nat) : State :=
  let s := ((((s.endPreempts d).tellDomains d).endRuns d).dieBlocks d).abandonRows d
  let s := s.modDie d (fun k => { k with st := .lost, copies := [] })
  let s := { s with
    records := s.records.filter (fun r => r.src != d && s.homeOfLine r.line != some d),
    cores := s.cores.filter (fun c => c.id.die != d) }
  ((dieList.filter (fun x => x != d)).foldl (fun s x => s.dropHomed x d) s).sweepOr

/-- Whether a link trains: after an error or a reset, or as it wakes (R287, R288). -/
def Link.trains (l : Link) : Bool := l.failed || (l.asleep && l.waking.isSome)

/-- LINK_TRAINING_FAILURE (R288): of a link that trains; the third in a row loses the die. -/
def execLinkTrainingFailure (link die : Nat) (s : State) : Out :=
  match s.links[link]? with
  | some l =>
    let t := s.modLink link (fun l => { l with
      failed := true, asleep := false, waking := none, failures := l.failures + 1 })
    stepIf "LINK_TRAINING_FAILURE" (l.trains && (linkDies link).contains die && (s.die die).st != .lost)
      (if 2 ≤ l.failures then t.dieLost die else t)
  | none => .fault (.notEnabled "LINK_TRAINING_FAILURE")

/-- LINK_ERROR (R288): the link is to train again. -/
def execLinkError (link : Nat) (s : State) : Out :=
  match s.links[link]? with
  | some l => stepIf "LINK_ERROR" (!l.failed) (s.modLink link (fun l => { l with failed := true, asleep := false }))
  | none => .fault (.notEnabled "LINK_ERROR")

/-- Whether a die has not answered for 250 µs of a link's being up (R288, R289): it is in reset, or a record sent to it
since then has not been acknowledged. Every other message is answered in the step that sends it (log entry 45). -/
def State.unanswered (s : State) (die : Nat) (l : Link) (n : Nat) : Bool :=
  (linkDies n).contains die && !l.asleep && !l.failed && l.up + 250000 ≤ s.wall.toNat &&
  ((s.die die).st == .inReset || s.records.any (fun r => linkOf r.src die == some n &&
    s.homeOfLine r.line == some die && l.up ≤ r.sent && r.sent + 250000 ≤ s.wall.toNat))

/-- DIE_LOST_TIMEOUT (R29, R288, R289); the time of a link's waking does not count. -/
def execDieLostTimeout (die : Nat) (s : State) : Out :=
  stepIf "DIE_LOST_TIMEOUT"
    (die < 4 && (s.die die).st != .lost && (s.links.zipIdx).any (fun x => s.unanswered die x.1 x.2))
    (s.dieLost die)

/-- A die is reset (R289): items 1 to 5; it stays in reset until it rejoins, and its links train again (R288). The dirty
bytes of its own lines reach DRAM from the slices, from first-level copies and, before the blocks go, from stashes
(DEDUCED, log entry 87). -/
def State.dieReset (s : State) (d : Nat) : State :=
  let s := s.tellDomains d
  let own := ((s.die d).copies.filter (fun k => s.homeOfLine k.line == some d)).map (·.line)
  let s := own.foldl (fun s l => s.recallDie d l true) s
  let s := (s.dieBlocks d).abandonRows d
  let s := own.foldl (fun s l => s.homeClean l) s
  let s := { s with
    links := (s.links.zipIdx).map (fun (x : Link × Nat) =>
      if (linkDies x.2).contains d then { x.1 with failed := true, asleep := false, waking := none } else x.1),
    cores := s.cores.filter (fun c => c.id.die != d),
    cycles := (s.cycles.zipIdx).map (fun (x : BitVec 64 × Nat) => if x.2 / 4 == d then 0 else x.1) }
  s.modDie d (fun k => { Die.reset with
    st := .inReset, lq := k.lq, lastServed := k.lastServed, faultq := k.faultq, served := k.served })

/-- DIE_REJOIN (R281, R289): every EV flag is set, and a sweep runs. -/
def execDieRejoin (die : Nat) (s : State) : Out :=
  stepIf "DIE_REJOIN" (die < 4 && (s.die die).st == .inReset)
    (s.modDie die (fun k => { k with st := .running, ev := List.range 1024 })).sweepOr

/-- The accesses of a party outside the issuing dies: an RD line that an outer link or the host writes enters
the inbound signature (R309; for the host DEDUCED from R308, log entry 18). -/
def State.inboundWrite (s : State) (line cc : Nat) : State :=
  if cc == 0 then { s with inbound := s.inbound ||| sigOfLine line } else s

/-- A store that has reached a home slice, with the signature that it carries (R232, R275, R309). -/
def State.sliceStore (s : State) (q : HomeReq) (bs : List Byte) : State :=
  let line := q.pa / 128
  let s := match q.sig with | some e => s.sigOr line e | none => s
  match q.src with
  | .die d => s.homeStore d line q.cc (q.pa % 128) bs
  | _ => (s.homeWrite line (spliceAt (List.replicate 128 0) (q.pa % 128) bs)
      (byteMask (q.pa % 128) bs.length)).inboundWrite line q.cc

/-- A load that has reached a home slice. -/
def State.sliceLoad (s : State) (q : HomeReq) (n : Nat) : List Byte × State :=
  match q.src with
  | .die d => s.homeLoad d (q.pa / 128) q.cc (q.pa % 128) n
  | _ => s.homeRead (q.pa / 128)

/-- The bytes that a request covers. -/
def kindSize : HomeKind → Nat
  | .fetch => 128
  | .strongLoad n => n
  | .strongStore bs => bs.length
  | .atomic op _ _ => amoSize op
  | .masked bs => bs.length
  | .rwb _ _ => 128

/-- Adds what a home slice returns: data, and the entry of a strong load or atomic. -/
def State.reply (s : State) (bs : List Byte) (e : Sig := 0) : State := { s with replies := s.replies ++ [(bs, e)] }

/-- The entry that a home slice returns (R278): to another package or the host, whose accesses are at system scope, the
inbound signature with it (R309). -/
def State.sliceEntry (s : State) (q : HomeReq) : Sig × State :=
  let (e, s) := s.sigLookup (q.pa / 128)
  match q.src with
  | .die _ => (e, s)
  | _ => (e ||| s.inbound, s)

/-- A message of a die reaches the home of a line over its link (R287). -/
def State.arrives (s : State) (q : HomeReq) : State :=
  match q.src with | .die d => s.reach d (q.pa / 128) | _ => s

/-- Bytes that a home slice has written for the sender of a masked write (R233, R277, R407): an RD line enters the CSIG of
the die that sent it, or of the die that receives them from another package. -/
def State.maskedDone (s : State) (q : HomeReq) (bs : List Byte) : State :=
  let line := q.pa / 128
  let enter := fun (s : State) (d : Nat) => if q.cc == 0 then s.enterCsig d line else s
  match q.src with
  | .die d => enter (s.patchDie d line (q.pa % 128) bs) d
  | .outer _ recv => enter (s.inboundWrite line q.cc) recv
  | .host => s.inboundWrite line q.cc

/-- Where an access of this sender and kind may go (R24, R418): another die anywhere in HBM and the CXL tier; another
package anywhere there, with copy-queue traffic and strong accesses; the host to the HBM that programs may map, and to
its own memory. -/
def State.homeAdmits (s : State) (q : HomeReq) : Bool :=
  match q.src, (s.rangeOf q.pa).map (fun m => (m.target, m.rolger)) with
  | .die d, some (t, _) => d < 4 && (s.die d).st == .running && t != .host
  | .outer _ recv, some (t, _) => recv < 4 && t != .host && (match q.kind with | .fetch | .rwb _ _ => false | _ => true)
  | .host, some (.hbm _, rolger) => !rolger
  | .host, some (.host, _) => true
  | _, _ => false

/-- An access of the host to its own memory (R310): the bytes read, where it reads, and the new bytes. -/
def State.hostAccess (s : State) (q : HomeReq) : State :=
  let n := kindSize q.kind
  let old := Memory.read s.hostMem q.pa n
  let put := fun (s : State) (bs : List Byte) => { s with hostMem := Memory.write s.hostMem q.pa bs }
  match q.kind with
  | .fetch | .strongLoad _ => s.reply old
  | .strongStore bs | .masked bs => put s bs
  | .atomic op a c => match (amoNew op .rne (natOfBytes old) a.toNat c.toNat).1 with
    | some v => put (s.reply old) (bytesOfNat n v)
    | none => s.reply old
  | .rwb data mask => { s with hostMem := Memory.writeMasked s.hostMem q.pa mask 0 data }

/-- The group of a die's atomic: one that stands on the die (R428). -/
def State.sliceGroup (s : State) (q : HomeReq) : Option GRef :=
  match q.src with
  | .die d => q.grp.filter (fun r => s.resident r.blk && (s.coreOf r.blk).die == d && (s.group? r).isSome)
  | _ => none

/-- Whether a home's log entry is an atomic of another package or of the host, of which the log names no group: of its home,
and of no group that stands on a core (R428; DEDUCED, log entry 92). -/
def State.sameOuter (s : State) (home : Nat) (e : Nat × Nat × Nat × Nat) : Bool :=
  e.2.1 == 4 && e.2.2.1 % 4 == home && !((s.blocks.zipIdx).any (fun x => x.1.st == .resident &&
    (List.range x.1.groups.length).any (fun g =>
      sameAmo home x.1.core (s.slotOf ⟨x.2, g⟩) (bitsN e.2.2.2 63 32) e)))

/-- The turn of an atomic that a request asks for (R428). -/
def State.sliceTurn (s : State) (q : HomeReq) : Turn :=
  let line := q.pa / 128
  match q.src, s.sliceGroup q with
  | .die d, some r => s.amoTurn d r line
  | _, _ => s.turn line (s.sameOuter ((s.homeOfLine line).getD 0))

/-- The order of a requested atomic in the log (R428, R429): that of its group; for another package or the host issuer and
AUX are free values (log entry 6), and a divergence ends the replay of no launch. -/
def State.logSlice (s : State) (q : HomeReq) : State :=
  let line := q.pa / 128
  match q.src, s.sliceGroup q with
  | .die d, some r => s.logAmo d r line
  | _, _ =>
    let s := if s.sliceTurn q == .diverges then s.diverge [] line else s
    let (k, s) := s.nextOrd line
    let (d, s) := s.freeN
    let (f, s) := s.freeN
    s.logEntry k 4 ((s.homeOfLine line).getD 0 + 4 * (d % 4)) line f

/-- HOME_SLICE_ACCESS (R264, R275, R280, R309): the slice performs the access at one instant; a die's atomic is one of a
group there, and a replay holds an atomic for its logged predecessor (R428). -/
def execHomeSliceAccess (q : HomeReq) (s : State) : Out :=
  let line := q.pa / 128
  let o := q.pa % 128
  let n := kindSize q.kind
  let fits := 1 ≤ n && o + n ≤ 128 && (match q.kind with
    | .fetch | .rwb _ _ => o == 0
    | .atomic op _ _ => q.pa % amoSize op == 0
    | _ => true)
  let held := match q.kind, q.src with
    | .atomic _ _ _, .die _ => (s.sliceGroup q).isNone || s.sliceTurn q == .held
    | .atomic _ _ _, _ => s.sliceTurn q == .held
    | _, _ => false
  if (s.rangeOf q.pa).any (fun m => m.target == .host) then
    stepIf "HOME_SLICE_ACCESS" (fits && s.homeAdmits q) (s.hostAccess q)
  else stepIf "HOME_SLICE_ACCESS"
    (fits && s.homeAdmits q && s.homeUp line && !held && !(s.eccPending.contains (rowGroup q.pa)))
    (let s := s.arrives q
    match q.kind with
    | .fetch => let (l, s) := s.homeRead line; s.reply l
    | .strongLoad n =>
      let (l, s) := s.sliceLoad q n
      let (e, s) := s.sliceEntry q
      s.reply ((l.drop o).take n) e
    | .strongStore bs => s.sliceStore q bs
    | .atomic op a c =>
      let (l, s) := s.sliceLoad q n
      let old := (l.drop o).take n
      let (e, s) := s.sliceEntry q
      let s := s.logSlice q
      let s := match (amoNew op .rne (natOfBytes old) a.toNat c.toNat).1 with
        | some v => s.sliceStore q (bytesOfNat n v)
        | none => match q.sig with | some e => s.sigOr line e | none => s
      s.reply old e
    | .masked bs =>
      let s := s.homeWrite line (spliceAt (List.replicate 128 0) o bs) (byteMask o bs.length)
      s.maskedDone q bs
    | .rwb data mask =>
      let s := s.homeWrite line ((List.range 128).map (fun i => data.getD i 0)) mask
      (match q.src with | .die _ => s | _ => s.inboundWrite line q.cc))

end Sys2Proof.Machine
end

