-- ==== Sys2Proof/Machine/Sched.lean ====
section
/-! DEFINITION. Dispatch, pre-emption, save and restore of blocks, and the completion of regions (18 R344,
R348 to R359; 11 R198, R202, R221; 17 R326). -/

namespace Sys2Proof.Machine

open Sys2Proof

/-- The live blocks of a block's cohort that stand where it stands (R202), by number. -/
def State.cohortOf (s : State) (n : Nat) : List Nat :=
  match s.blocks[n]? with
  | some b => indicesWhere (fun m => m.rcb == b.rcb && m.index + b.rank == b.index + m.rank &&
      m.core.die == b.core.die && m.st == b.st) s.blocks
  | none => []

/-- The blocks of a list of numbers. -/
def State.blocksAt (s : State) (ns : List Nat) : List Block := ns.filterMap (fun n => s.blocks[n]?)

/-! ## Room on a core -/

/-- Slots that the groups of a block take. -/
def Block.slots (b : Block) : Nat := (b.groups.filter (fun g => !g.ended)).length

/-- Whether a core admits a block (R198). -/
def State.admits (s : State) (c : CoreId) (b : Block) : Bool :=
  b.slots ≤ (s.freeSlots c).length && (s.blocksOn c).length < 8 &&
  (s.tileGap c b.tiles.length).isSome &&
  s.coreStore c + b.store ≤ storeLimit

/-- Places for windows, one after another (log entry 10). -/
def placeWins (segs : List (Nat × Nat)) : List Nat → Option (List Nat)
  | [] => some []
  | n :: ns => match gap segs 128 n with
    | none => none
    | some a => (placeWins ((a, n) :: segs) ns).map (fun l => a :: l)

/-- The sizes of the windows of a block. -/
def Block.wins (b : Block) : List Nat := b.groups.flatMap (fun g => g.windows.map (·.2))

/-- Groups at the places of their windows, with their slots (R434). -/
def placeGroups : List Nat → List Nat → List Group → List Group
  | _, _, [] => []
  | ws, sl, g :: gs =>
    let n := g.windows.length
    let g' := if n == 0 then g
      else { g with vb := ws.headD 0,
                    gates := (g.gates.zip (ws.drop 1)).map (fun x => { x.1 with vb := x.2 }) }
    let (g', sl) := if g.ended then (g', sl) else ({ g' with slot := sl.headD 0 }, sl.drop 1)
    g' :: placeGroups (ws.drop n) sl gs

/-- A group on a core whose clock stands at `now`: its splits count as having issued then (R350), so that requests of one
restored block tie: DESIGN CHOICE (log entry 96). -/
def Group.startAt (now : Nat) (g : Group) : Group :=
  { g with splits := g.splits.map (Option.map (fun p => { p with lastIssue := now })) }

/-- A block placed on a core, at the clock of its island. -/
def Block.placedAt (b : Block) (c : CoreId) (off age tbase now : Nat) (ws slots : List Nat) : Block :=
  { b with st := .resident, core := c, sbk := off / 1024, age := age, tbase := tbase,
           groups := (placeGroups ws slots b.groups).map (Group.startAt now) }

/-- A block placed on a core with its scratchpad at an offset of the store; none where the core does not admit it there
(R198). -/
def State.placeOn (s : State) (off age : Nat) (c : CoreId) (b : Block) : Option Block :=
  if realCore c && s.admits c b && off + kib b.scrSize ≤ storeSize && clearOf (s.segments c) off (kib b.scrSize) then
    match placeWins ((off, kib b.scrSize) :: s.segments c) b.wins, s.tileGap c b.tiles.length with
    | some ws, some t => some (b.placedAt c off age t (s.cyclesOf c) ws (s.freeSlots c))
    | _, _ => none
  else none

/-- Blocks placed one after another, each beside those before it. -/
def State.placeEach (s : State) (off age : Nat) : List (Block × CoreId) → Option (List Block)
  | [] => some []
  | p :: ps => (s.placeOn off age p.2 p.1).bind (fun b =>
      (({ s with blocks := s.blocks ++ [b] } : State).placeEach off age ps).map (fun l => b :: l))

/-- The blocks of a cohort placed on cores of one cluster, every scratchpad at one offset (R198, R202, log entry 10);
members without a scratchpad may share a core. -/
def State.placeCohort (s : State) (bs : List Block) (cs : List CoreId) (age : Nat) : Option (List Block) :=
  let scr := bs.foldl (fun m b => max m (kib b.scrSize)) 0
  let segs := cs.flatMap s.segments
  if bs.length == cs.length then
    (if scr == 0 then [0] else (gap segs 1024 scr).toList ++ gaps segs 1024 scr).findSome? (fun off =>
      s.placeEach off age (bs.zip cs))
  else none

/-- Whether the budgets of a region allow blocks of it on cores of a die (R342). -/
def State.inBudgets (s : State) (d : Nat) (q : Region) (bs : List Block) (cs : List CoreId) : Bool :=
  let held := s.blocks.filterMap (fun b => match s.region? b.rcb with
    | some r => if b.st == .resident && b.core.die == d && r.coresOf == q.coresOf then some b.core else none
    | none => none)
  (held ++ cs).eraseDups.length ≤ q.cores &&
  inBudget q.regu (s.used d (·.reguOf) q.reguOf Block.regUnits + (bs.map Block.regUnits).sum) &&
  inBudget q.spu (s.used d (·.spuOf) q.spuOf (fun b => kib b.scrSize / 1024) +
    (bs.map (fun b => kib b.scrSize / 1024)).sum) &&
  inBudget q.tileu (s.used d (·.tileuOf) q.tileuOf (fun b => b.tiles.length) +
    (bs.map (fun b => b.tiles.length)).sum)

/-! ## New blocks -/

/-- A closed phase record. -/
def Barrier.closed : Barrier :=
  { isOpen := false, low := 0, high := 0, count := 0, arrivals := 0, phase := 0 }

/-- A group as it starts (R30, R54). -/
def newGroup (q : Region) (c : CoreId) (index g : Nat) : Group :=
  let none' : Attr := { space := 0, policy := 0, r := false, w := false, a := false, row := false, dev := 0,
                        die := 0 }
  let l := q.lrec
  { slot := 0,
    splits := [some { pc := BitVec.ofNat 55 l.entry, mask := feFull, st := .ready, rlist := [], mstk := [],
                      replay := none, lastIssue := 0 }, none, none, none],
    v := List.replicate l.regs (List.replicate 32 0), fe := List.replicate l.regs feFull,
    s := [wd index, wd g, wd l.gpb, wd l.grid, wd c.die, wd c.cluster, wd c.core, wd l.param] ++
      List.replicate 8 0,
    k := List.replicate 7 0,
    x := [.scratch, .cluster, .handle ⟨l.param, 0, 0, 0, none', none, 0, true⟩, .unbound, .unbound,
          .unbound, .unbound, .unbound],
    flags := 0, vb := 0, regcnt := l.regs, rgncnt := 0, rgnpc := 0, rgnOpen := false, level := 0,
    debug := false, frames := [], freshS := [], trap := { cause := 0, pc := 0, mask := 0, va := 0, info := 0 },
    gates := [], gatestat := 0,
    ctx := { asid := q.asid, fdom := q.fdom, htab := q.htab, hcount := q.hcount, gtab := q.gtab,
             gcount := q.gcount, prio := q.prio, mailbox := q.mailbox, trace := q.trace },
    calleeScr := [], calleeSize := 0,
    latches := List.replicate 2 { valid := false, rows := [], idx := [] },
    mq := [], batches := [], nextBatch := 0, loads := [], tmovs := [], unacked := [], relSig := 0,
    acqSig := 0, relPending := false, efaults := [], lastBar := List.replicate 16 none, async := [],
    step := none, yielded := false, deadline := none, preempting := false, restart := false, ended := false }

/-- A block as it starts (R54, R199, R314, R321): `size` blocks are in its cohort. -/
def newBlock (q : Region) (c : CoreId) (index size : Nat) : Block :=
  let l := q.lrec
  { st := .resident, rcb := q.rcb, index := index, core := c, sbk := 0, cohort := size,
    rank := index % l.cohort, age := 0, scr := [], scrSize := l.scratch, stashes := [],
    bars := List.replicate 16 Barrier.closed, gang := List.replicate 4 0,
    tiles := List.replicate l.tiles tileZero, tbase := 0, children := 0,
    groups := (List.range l.gpb).map (newGroup q c index), drain := none, evicted := false,
    recorded := [] }

/-- A binding that waits to be made again is made; one that faults waits on (R227). -/
def State.bindX (s : State) (r : GRef) (ctx : Ctx) (handler : Bool) (q : XReg) : XReg × State :=
  match q with
  | .handle h =>
    if h.lazy then
      match s.bindHandle (s.coreOf r.blk) r ctx handler h.index h.boff with
      | (.ok h, s) => (.handle h, s)
      | (.error _, s) => (q, s)
    else (q, s)
  | _ => (q, s)

/-- The bindings of a list, each in the context of its place. -/
def State.bindList (s : State) (r : GRef) (ctx : Nat → Ctx) (handler : Bool) (xs : List XReg) : List XReg × State :=
  (xs.zipIdx).foldl (fun (p : List XReg × State) q =>
    let (y, s) := p.2.bindX r (ctx q.2) handler q.1
    (p.1 ++ [y], s)) ([], s)

/-- The bindings of a group that wait to be made again are made, those of its handler and gate frames included (R227). -/
def State.bindAll (s : State) (r : GRef) : State :=
  match s.group? r with
  | none => s
  | some g =>
    let (x, s) := s.bindList r g.bindCtx g.handler g.x
    let (fs, s) := (g.frames.zipIdx).foldl (fun (p : List HFrame × State) f =>
      let ctx := { g.ctx with htab := f.1.htab, hcount := f.1.hcount }
      let h := decide (f.2 + 1 < g.frames.length)
      let (a, s) := p.2.bindX r ctx h f.1.x6
      let (b, s) := s.bindX r ctx h f.1.x7
      (p.1 ++ [{ f.1 with x6 := a, x7 := b }], s)) ([], s)
    let (gs, s) := g.gates.foldl (fun (p : List GateFrame × State) f =>
      let (x, s) := p.2.bindList r (fun _ => f.ctx) false f.x
      (p.1 ++ [{ f with x := x }], s)) ([], s)
    s.modGroup r (fun g => { g with x := x, frames := fs, gates := gs })

/-- A die now has blocks of a region and its domain (R288, R344). -/
def State.enterDie (s : State) (q : Region) (d : Nat) : State :=
  (s.modRegion q.rcb (fun r => { r with dies := insertNat d r.dies })).modDie d
    (fun k => { k with fdoms := insertNat q.fdom k.fdoms })

/-- The tables of a launch go onto links that hold no loaded table, at its first block (R286). -/
def State.loadTables (s : State) (q : Region) : State :=
  if !q.dies.isEmpty then s
  else match s.almanac q.lrec with
    | (none, s) => s
    | (some ts, s) => { s with links := (s.links.zipIdx).map (fun x =>
        match x.1.owner, ts[x.2]? with
        | none, some t => { x.1 with table := t, owner := some q.rcb }
        | _, _ => x.1) }

/-! ## Queues -/

/-- The priority of what stands in a launch queue (R348). -/
def State.itemPrio (s : State) (i : QItem) : Nat :=
  let rcb := match i with
    | .launch r => r
    | .block b => ((s.blocks[b]?).map (·.rcb)).getD 0
  ((s.region? rcb).map (·.prio)).getD 0

/-- Whether a head is eligible (R348): a saved block, or a launch whose wait events are met. -/
def State.eligible (s : State) (i : QItem) : Bool :=
  match i with
  | .launch r => match s.region? r with
    | some q => q.alive && (s.waitsMet q.lrec).1
    | none => false
  | .block _ => true

/-- What the dispatcher of a die may place, in its order (R348): by priority, saved blocks before launches,
the queues in turn after the one served last. -/
def State.candidates (s : State) (d : Nat) : List (Nat × QItem) :=
  let k := s.die d
  if k.lq.isEmpty || k.st != .running then []
  else [7, 6, 5, 4, 3, 2, 1, 0].flatMap (fun p =>
    let heads := (List.range 64).filterMap (fun j =>
      let n := ((k.lastServed.getD p 63) + 1 + j) % 64
      (k.lq.find? (fun x => x.1 == n)).bind (fun x =>
        if s.itemPrio x.2 == p && s.eligible x.2 then some x else none))
    let saved := fun (x : Nat × QItem) => match x.2 with | .block _ => true | .launch _ => false
    heads.filter saved ++ heads.filter (fun x => !saved x))

/-- The undispatched blocks of a region on a die: next and last. -/
def Region.range? (q : Region) (d : Nat) : Option (Nat × Nat) :=
  (q.pend.find? (fun p => p.1 == d)).map (fun p => (p.2.1, p.2.2))

/-- The blocks that a launch places next on a die (R202, R348): a whole cohort. -/
def Region.nextCohort (q : Region) (d : Nat) : List Nat :=
  match q.range? d with
  | some (a, b) =>
    let C := q.lrec.cohort
    range' a (min b (C * (a / C) + C - 1) + 1 - a)
  | none => []

/-- The cores of a list of numbers. -/
def coresIn (d cluster : Nat) (cores : List Nat) : List CoreId := cores.map (fun n => ⟨d, cluster, n⟩)

/-- A queue's item is placed: it leaves when nothing of it is left, and its queue was served (R348). -/
def State.servedItem (s : State) (d : Nat) (x : Nat × QItem) (leaves : Bool) : State :=
  let p := s.itemPrio x.2
  s.modDie d (fun k => { k with
    lq := if leaves then dropFirst (· == x) k.lq else k.lq,
    lastServed := k.lastServed.set p x.1 })

/-- The entries that the die applies before the first issue of a launch's block: its wait events, the state
of a fork child's control block, what the host wrote (R308, R347, R358). -/
def State.dispatchEntry (s : State) (q : Region) : Sig × State :=
  let (_, e, s) := s.waitsMet q.lrec
  let far := match q.forkBlk with
    | some b => (q.lrec.ranges.zipIdx).any (fun x => x.1.1 ≤ x.1.2 && x.2 != (s.coreOf b).die)
    | none => false
  let (f, s) := if far then s.sigLookup ((q.rcb + 11) / 128) else (0, s)
  (e ||| f ||| s.inbound, s)

/-- Places the next cohort of a launch (R348, R202); none where it does not fit at those cores. -/
def State.placeLaunch (s : State) (d : Nat) (x : Nat × QItem) (rcb : Nat) (cs : List CoreId) : Option State :=
  match s.region? rcb with
  | none => none
  | some q =>
    let ids := q.nextCohort d
    let bs := (ids.zip cs).map (fun p => newBlock q p.2 p.1 ids.length)
    if ids.isEmpty || ids.length != cs.length || !(s.inBudgets d q bs cs) then none
    else match s.placeCohort bs cs s.nextId with
      | none => none
      | some placed =>
        let (_, s) := s.fresh
        let (e, s) := s.dispatchEntry q
        let s := (s.applyEntry d e).loadTables q
        let s := s.enterDie q d
        let s := if q.st < 2 then s.setRegionSt rcb 2 else s
        let n := s.blocks.length
        let s := cs.foldl (fun s c => s.fitL1 c 0) { s with blocks := s.blocks ++ placed }
        let s := (range' n placed.length).foldl (fun s b =>
          (s.groupsOf b).foldl (fun s r => s.bindAll r) s) s
        let next := ids.getLastD 0 + 1
        let left : Bool := match q.range? d with | some (_, b) => decide (next ≤ b) | none => false
        let s := s.modRegion rcb (fun r => { r with
          pend := r.pend.filterMap (fun p =>
            if p.1 != d then some p else if left then some (d, next, p.2.2) else none) })
        some (s.servedItem d x (!left))

/-! ## Save and restore -/

/-- Whether a split stands at a blocking point (R195, R351); the wait of a call that aborts is none (R382). -/
def Split.atPoint (p : Split) : Bool :=
  match p.st with
  | .blocked (.abort _) _ => false
  | .blocked _ _ | .parkedRa | .parkedFault _ => true
  | _ => false

/-- Whether a group does (R351); one that has ended holds nothing up. -/
def Group.atPoint (g : Group) : Bool := g.ended || g.valid.all (fun x => x.2.atPoint)

/-- Whether a split of a group waits in a given way. -/
def Group.waitsIn (g : Group) (p : Wake → Bool) : Bool :=
  g.valid.any (fun x => match x.2.st with | .blocked w _ => p w | _ => false)

/-- A wait in `REGREQ`, or for store in `GCALL` (R221). -/
def Wake.wantsStore : Wake → Bool
  | .regreq _ | .gcall _ => true
  | _ => false

/-- Whether a `GCALL` that waits for store can be met (R221). -/
def State.gcallMet (s : State) (c : CoreId) (r : GRef) : Bool :=
  match s.group? r with
  | some g => g.waitsIn (fun w => match w with
      | .gcall n => (match (s.gateCheck c.die r g n).1 with
          | .ok q => (s.gatePlace c q).isSome
          | .error _ => true)
      | _ => false)
  | none => false

/-- Whether the register requests of a core are deadlocked (R221, R357). -/
def State.regDeadlock (s : State) (c : CoreId) : Bool :=
  let gs := (s.groupsOn c).filter (fun r => match s.group? r with | some g => !g.ended | none => false)
  !gs.isEmpty &&
  gs.all (fun r => match s.group? r with
    | some g => g.atPoint && g.waitsIn Wake.wantsStore
    | none => false) &&
  !((s.regWaits c).any (s.regMet c)) && !(gs.any (s.gcallMet c))

/-- The block that R221 evicts: the youngest of the lowest priority. -/
def State.evictee (s : State) (c : CoreId) : Option Nat :=
  let key := fun (n : Nat) => match s.blocks[n]? with
    | some b => (s.itemPrio (.block n), b.age)
    | none => (0, 0)
  (s.blocksOn c).foldl (fun (o : Option Nat) n => match o with
    | none => some n
    | some m => if (key n).1 < (key m).1 || ((key n).1 == (key m).1 && (key m).2 ≤ (key n).2) then some n
        else some m) none

/-- A block of a cohort in which a split waits in `JOIN` for children (R359). -/
def Block.joinWaits (b : Block) : Bool :=
  b.children != 0 && b.groups.any (fun g => !g.ended && g.waitsIn (fun w => w == .join))

/-- Whether a pre-emption of a block is pending. -/
def Block.preempting (b : Block) : Bool := b.groups.any (fun g => g.preempting && !g.ended)

/-- Whether a resident block's cohort is to be saved and stands at blocking points (R353, R357, R359). -/
def State.saveDue (s : State) (n : Nat) : Bool :=
  match s.blocks[n]? with
  | none => false
  | some b =>
    b.st == .resident && b.preempting &&
    (s.blocksAt (s.cohortOf n)).all (fun m => m.groups.all Group.atPoint)

/-- A pre-emption of drain class, with no deadline, of a block's cohort (R202, R221, R353, R359). -/
def State.startDrain (s : State) (n : Nat) (evicted : Bool) : State :=
  (s.cohortOf n).foldl (fun s m => s.modBlock m (fun b => { b with
    evicted := b.evicted || evicted,
    groups := b.groups.map (fun g => { g with preempting := g.preempting || !g.ended }) })) s

/-- Whether a block is to be saved because it waits in `JOIN` (R359): every group of it stands at a blocking point. -/
def Block.joinDue (b : Block) : Bool :=
  b.st == .resident && b.joinWaits && !b.preempting && b.groups.all Group.atPoint

/-- Starts the saves of blocks that wait in `JOIN`, and notes at which cycle each block that is to be saved came to stand
at its blocking points (R353, R359). -/
def State.noteDrains (s : State) : State :=
  let s := (indicesWhere Block.joinDue s.blocks).foldl (fun s n => s.startDrain n false) s
  if s.blocks.all (fun b => b.st != .resident || (b.drain.isNone && !b.preempting)) then s
  else { s with blocks := (s.blocks.zipIdx).map (fun x =>
      if x.1.st == .resident then
        { x.1 with
          drain := if x.1.preempting && x.1.groups.all Group.atPoint then some (x.1.drain.getD (s.cyclesOf x.1.core))
            else none }
      else x.1) }

/-- Whether a queue entry reads a block's scratchpad (R355). -/
def CpqEntry.onScratch (e : CpqEntry) : Bool := e.src.onScratch

/-- The queue entries of a block's groups on its die. -/
def State.entriesOf (s : State) (n : Nat) : List (Nat × CpqEntry) :=
  (s.die (s.coreOf n).die).cq.filter (fun x => x.2.grp.blk == n)

/-- Whether an abrupt pre-emption throws the matrix work of a group away (R324, R326): a `PREEMPT` of a region of that
class, which alone gives a deadline; a save for `JOIN` or under R221 is a drain pre-emption (R221, R359). -/
def State.discards (s : State) (b : Block) (g : Group) : Bool :=
  g.preempting && g.deadline.isSome && g.rgnOpen && !g.mq.isEmpty && ((s.region? b.rcb).map (·.pclass)) == some 1

/-- The groups of some and of the gangs that tie others to them, one gang after another (R321, R322). -/
def Block.gangMates (b : Block) (hit : List Nat) : List Nat :=
  (List.range 4).foldl (fun (h : List Nat) _ => (List.range 16).filter (fun n => h.contains n ||
    b.gang.any (fun w => w.getLsbD n && h.any (fun m => w.getLsbD m)))) hit

/-- The groups that restart where the work of some is thrown away (R324, R326): those of them that are in an open region,
and the members of their gangs that are, so that the passes they make together stay in step (R311; log entry 33). -/
def Block.restarting (b : Block) (hit : List Nat) : List Nat :=
  (b.gangMates hit).filter (fun n => (b.groups[n]?).any (fun (g : Group) => g.rgnOpen))

/-- Some groups of a block are to restart (R325). -/
def State.restartGroups (s : State) (n : Nat) (ids : List Nat) : State :=
  ids.foldl (fun s i => s.modGroup ⟨n, i⟩ (fun g => { g with restart := true })) s

/-- Whether matrix work and copies of a block are settled (R326, R353, R355). -/
def State.settled (s : State) (n : Nat) : Bool :=
  match s.blocks[n]? with
  | none => false
  | some b =>
    b.groups.all (fun g => g.mq.isEmpty || s.discards b g) &&
    s.engines.all (fun e => e.grp.blk != n || (!e.began && e.kind.rowsLeft == 0)) &&
    (s.entriesOf n).all (fun x => !x.2.onScratch || x.2.read == 0)

/-- A binding as the image keeps it: handle form as index and offset (R354). -/
def XReg.packed : XReg → XReg
  | .handle h => .handle { h with frame := none, limit := 0, lazy := true }
  | q => q

/-- The binding of an engine instruction that has not begun, as the image keeps it (R355). -/
def XReg.unframed : XReg → XReg
  | .handle h => .handle { h with frame := none, limit := 0 }
  | q => q

def Endpoint.unframed (e : Endpoint) : Endpoint := { e with x := e.x.unframed }

def EngKind.unframed : EngKind → EngKind
  | .copy d q len done => .copy d.unframed q.unframed len done
  | .tld t q done b => .tld t q.unframed done b
  | k => k

/-- A split as the image keeps it (R351): cycles left of a `DYIELD`, and a wait for a queue slot as its
unit. -/
def Split.packed (now : Nat) (p : Split) : Split :=
  match p.st with
  | .blocked (.dyield x1 off val sd start limit) n =>
    { p with st := .blocked (.dyield x1 off val sd 0 (start + limit - now)) n }
  | .blocked (.cpq _ _) _ => { p with st := .ready }
  | _ => p

/-- A group as the image keeps it (R354); its pending causes, engine faults and signatures stay, since a pre-emption
changes timing only (R429; DEDUCED, log entry 56). -/
def Group.packed (now : Nat) (g : Group) : Group :=
  let splits := List.map (Option.map (Split.packed now))
  { g with
    splits := splits g.splits,
    x := g.x.map XReg.packed,
    frames := g.frames.map (fun f => { f with x6 := f.x6.packed, x7 := f.x7.packed, splits := splits f.splits }),
    gates := g.gates.map (fun f => { f with x := f.x.map XReg.packed }),
    preempting := false, deadline := none }

/-- The trace record of a save or restore, for each group (R425). -/
def State.traceBlock (s : State) (n ev : Nat) : State :=
  (s.groupsOf n).foldl (fun s r => match s.group? r with
    | some g => (match g.valid.head? with
        | some x => if g.ended then s else s.trace ⟨r.blk, r.grp, x.1⟩ x.2.pc x.2.mask ev 3 0
        | none => s)
    | none => s) s

/-- An access of a die to `n` bytes of a save area: over its link, at a home that answers (R287, R289), whose controller
counts the lines that are not in the home's L2 (R430). What is looked at for a row group's check bits (R415) is the first
line, the length being open (log entry 56). -/
def State.imageAccess (s : State) (d pa n : Nat) : State :=
  match s.homeOf pa with
  | none => s
  | some h =>
    let s := (s.carry d h).ask h
    let s := if s.eccPending.contains (pa / 524288) then s.unreached (.ecc (pa / 524288)) else s
    { s with hot := ((linesOf pa n).foldl (fun s l => if (s.l2? h l).isSome then s else s.hotTouch l) s).hot }

/-- The bytes of a line once `bs` have been written from address `pa`, and which they are. -/
def imageLine (pa : Nat) (bs : List Byte) (line : Nat) (data : List Byte) : List Byte :=
  (data.zipIdx).map (fun x => if pa ≤ 128 * line + x.2 then bs.getD (128 * line + x.2 - pa) x.1 else x.1)
def imageMask (pa n line : Nat) : BitVec 128 :=
  (List.range 128).foldl (fun m i => if pa ≤ 128 * line + i && 128 * line + i < pa + n then m ||| byteMask i 1 else m) 0

/-- Bytes written at their homes (R258, R266): into the home's L2 copy, and its first-level and stash copies, where it has
them, else into DRAM. -/
def State.imageAtHomes (s : State) (pa : Nat) (bs : List Byte) : State :=
  let own := fun (d line : Nat) => s.homeOfLine line == some d
  { s with
    dram := (linesOf pa bs.length).foldl (fun m l =>
      if ((s.homeOfLine l).bind (fun h => s.l2? h l)).isSome then m
      else Memory.writeMasked m (128 * l) (imageMask pa bs.length l) 0 (imageLine pa bs l (List.replicate 128 0))) s.dram,
    dies := (s.dies.zipIdx).map (fun x => { x.1 with copies := x.1.copies.map (fun k =>
      if own x.2 k.line then
        { k with data := imageLine pa bs k.line k.data, mask := k.mask ||| imageMask pa bs.length k.line }
      else k) }),
    cores := s.cores.map (fun c => { c with l1 := c.l1.map (fun k =>
      if own c.id.die k.line then { k with data := imageLine pa bs k.line k.data } else k) }),
    blocks := s.blocks.map (fun b => { b with stashes := b.stashes.map (fun t => { t with lines := t.lines.map (fun k =>
      if own b.core.die k.line then { k with data := imageLine pa bs k.line k.data } else k) }) }) }

/-- The image of a block, which its die writes in the save area (R353, 5): bytes of no stated layout or length, where the
block stands as data here (log entry 56). -/
def State.writeImage (s : State) (d pa : Nat) : State :=
  let bs := Config.saveImage s.free
  let s := { s with free := s.free + 1 }
  match s.rangeOf pa with
  | none => s
  | some m =>
    if m.target == .host then { s with hostMem := Memory.write s.hostMem pa bs }
    else (s.imageAccess d pa bs.length).imageAtHomes pa bs

/-- The image of a block is read as it is placed again (R354), at its home (R289, R430; log entry 56). -/
def State.readImage (s : State) (d pa : Nat) : State :=
  ({ s with free := s.free + 1 } : State).imageAccess d pa (Config.saveImage s.free).length

/-- Saves one block (R353, steps 2 to 6), to stand as `st`. -/
def State.saveBlock (s : State) (st : BlkSt) (n : Nat) : State :=
  match s.blocks[n]? with
  | none => s
  | some b =>
    let c := b.core
    let hit := indicesWhere (s.discards b) b.groups
    let s := (hit.foldl (fun s i => s.discard ⟨n, i⟩ (fun _ => true)) s).restartGroups n (b.restarting hit)
    let mine := fun (x : Nat × CpqEntry) => x.2.grp.blk == n && x.2.onScratch && x.2.read == 0
    let kept := ((s.entriesOf n).filter mine).map (fun x =>
      (x.1, { x.2 with src := x.2.src.unframed, started := false, wait := none }))
    let s := s.modDie c.die (fun k => { k with cq := k.cq.filter (fun x => !(mine x)) })
    let s : State := { s with engines := s.engines.map (fun (e : EngOp) =>
      if e.grp.blk == n then { e with kind := EngKind.unframed e.kind, wait := none } else e) }
    let s := ((s.stashBack n).stashDrop n).traceBlock n 4
    let s := (s.groupsOf n).foldl (fun s r => s.dropLatch r) s
    let s := s.writeImage c.die (((s.region? b.rcb).map (·.save)).getD 0)
    s.modBlock n (fun b => { b with
      st := st, drain := none, recorded := kept,
      groups := b.groups.map (Group.packed (s.cyclesOf c)) })

/-- A cohort goes to the front of its launch queue, under its lowest block number (R221, R348). -/
def State.requeue (s : State) (n : Nat) : State :=
  match s.blocks[n]? with
  | none => s
  | some b =>
    let q := ((s.region? b.rcb).map (·.lrec.queue)).getD 0
    s.modDie b.core.die (fun k => { k with lq := (q, QItem.block n) :: k.lq })

/-- Whether the dispatch of a block's region is stopped on its die (R353). -/
def State.isStopped (s : State) (n : Nat) : Bool :=
  match (s.blocks[n]?).bind (fun b => (s.region? b.rcb).map (fun q => q.stopped.contains b.core.die)) with
  | some x => x
  | none => true

/-- BLOCK_SAVE (R353, R357, R359): the whole cohort. One that `PREEMPT` named waits for `RESUME`, one in `JOIN` for
its children; another is queued again. -/
def execBlockSave (blk : Nat) (s : State) : Out :=
  let ns := s.cohortOf blk
  let stop := s.isStopped blk
  let join := !stop && (s.blocksAt ns).any Block.joinWaits
  let t := ns.foldl (fun s n => s.saveBlock (if join then .waitingJoin else .saved) n) s
  stepIf "BLOCK_SAVE" (s.saveDue blk && ns.all s.settled)
    (if stop || join then t else t.requeue (ns.headD blk))

/-- The registers that waiting requests of a group ask for (R221). -/
def Group.wanted (g : Group) : Nat :=
  g.valid.foldl (fun m x => match x.2.st with | .blocked (.regreq n) _ => max m n | _ => m) g.regcnt

/-- A block with its register requests granted, where it was evicted (R221). -/
def Block.granted (b : Block) : Block :=
  if b.evicted then { b with groups := b.groups.map (fun g => g.grow g.vb g.wanted) } else b

/-- Starts the cycles left of every `DYIELD` (R351). -/
def Split.unpacked (now : Nat) (p : Split) : Split :=
  match p.st with
  | .blocked (.dyield x1 off val sd _ limit) n =>
    { p with st := .blocked (.dyield x1 off val sd now limit) n }
  | _ => p

/-- The same for a group, the splits of its handler frames included. -/
def Group.unpacked (now : Nat) (g : Group) : Group :=
  let splits := List.map (Option.map (Split.unpacked now))
  { g with splits := splits g.splits, frames := g.frames.map (fun f => { f with splits := splits f.splits }) }

/-- The waits for store of an evicted block's groups are met at its restore (R221, R357); none where the core has no room
for a window or a callee. -/
def State.meetWaits (s : State) (n : Nat) : Option State :=
  (s.waiters (s.groupsOf n) (fun _ w => w.wantsStore)).foldl (fun (o : Option State) r =>
    match o with
    | none => none
    | some s => match s.wakeOf r, s.group? r.gref, s.split? r with
      | some (.regreq m, _), some g, _ => match s.blocks[n]? with
        | some b =>
          if s.canGrow b.core g m || (g.regcnt < m && s.regOver b (m - g.regcnt)) then some (s.regTurn r m) else none
        | none => none
      | some (.gcall i, next), some g, some p =>
        let c := s.coreOf n
        (match s.gateCheck c.die r.gref g i with
          | (.error t, s) => some (((s.modSplit r (fun p => { p with st := .ready })).trapAt r t p.pc).after r)
          | (.ok q, s) => (s.gatePlace c q).map (fun vb => (s.enterGate r q next vb).after r))
      | _, _, _ => some s) (some s)

/-- The splits of a block's groups settle, as after an issue (R36, R38). -/
def State.settleBlock (s : State) (n : Nat) : State :=
  (s.groupsOf n).foldl (fun s r => match (s.group? r).bind (fun (g : Group) => g.valid.head?) with
    | some x => s.after ⟨r.blk, r.grp, x.1⟩
    | none => s) s

/-- A placed block goes on (R354, R355): its die applies what the host and other packages have written (R308), its recorded
entries are entered again, its bindings made. -/
def State.revive (s : State) (n : Nat) : State :=
  match s.blocks[n]? with
  | none => s
  | some b =>
    let now := s.cyclesOf b.core
    let s := s.applyEntry b.core.die s.inbound
    let s := b.recorded.foldl (fun s x => s.enterCpq b.core.die x.1 x.2) s
    let s := s.modBlock n (fun b => { b with
      recorded := [], evicted := false,
      groups := b.groups.map (Group.unpacked now) })
    let s := (s.groupsOf n).foldl (fun s r => s.bindAll r) s
    (s.traceBlock n 5).settleBlock n

/-- Saved blocks as they are placed: with the register requests of an eviction granted, unless that takes the region past
its budget, where those past it trap `REGREQ_DENIED` (R219, R221; DESIGN CHOICE, log entry 84). -/
def State.restored (s : State) (d : Nat) (q : Region) (cs : List CoreId) (bs : List Block) : List Block :=
  let more := bs.map Block.granted
  if s.inBudgets d q more cs then more else bs

/-- Places a saved cohort again (R202, R354); none where it does not fit at those cores, or where a copy
queue has no room for what is to be entered again. -/
def State.placeSaved (s : State) (d : Nat) (x : Nat × QItem) (n : Nat) (cs : List CoreId) : Option State :=
  let ns := s.cohortOf n
  let old := s.blocksAt ns
  match (old.head?).bind (fun b => s.region? b.rcb) with
  | none => none
  | some q =>
    let bs := s.restored d q cs old
    let room := (List.range 16).all (fun i => ((s.die d).queue i).length +
      (bs.flatMap (fun b => b.recorded.filter (fun x => x.1 == i))).length ≤ 64)
    if !(bs.all (fun b => b.st == .saved && b.core.die == d)) || !room || !(s.inBudgets d q bs cs) then none
    else match s.placeCohort bs cs s.nextId with
      | none => none
      | some placed =>
        let (_, s) := s.fresh
        let s := (s.servedItem d x true).enterDie q d
        let s := (ns.zip placed).foldl (fun s p => s.modBlock p.1 (fun _ => p.2)) s
        let s := cs.foldl (fun s c => s.fitL1 c 0) s
        let ev := (ns.zip bs).filterMap (fun p => if p.2.evicted then some p.1 else none)
        let s := ns.foldl (fun s n => (s.readImage d q.save).revive n) s
        (ev.foldl (fun o n => o.bind (fun s => s.meetWaits n)) (some s)).filter (fun t =>
          match t.away with | some (.home _) => false | _ => true)

/-- Places what stands in a queue at given cores. -/
def State.placeItem (s : State) (d : Nat) (x : Nat × QItem) (cs : List CoreId) : Option State :=
  match x.2 with
  | .launch rcb => s.placeLaunch d x rcb cs
  | .block n => s.placeSaved d x n cs

/-- The region whose core budget an item counts against (R342). -/
def State.itemOf? (s : State) (i : QItem) : Option Nat :=
  let rcb : Option Nat := match i with
    | .launch r => some r
    | .block n => (s.blocks[n]?).map (fun (b : Block) => b.rcb)
  (rcb.bind s.region?).map (fun (q : Region) => q.coresOf)

/-- The blocks that an item would place, as an empty core sees them: those of an eviction with their requests granted, where
the budgets allow it. -/
def State.itemBlocks (s : State) (d : Nat) : QItem → List Block
  | .launch rcb => match s.region? rcb with
    | some q =>
      let ids := q.nextCohort d
      ids.map (fun i => newBlock q ⟨d, 0, 0⟩ i ids.length)
    | none => []
  | .block n =>
    let bs := s.blocksAt (s.cohortOf n)
    match (bs.head?).bind (fun b => s.region? b.rcb) with
    | some q => s.restored d q [] bs
    | none => bs

/-- The state with a block placed on a core at an offset of its store, where the core takes it (R198), and where the waits
for store of an evicted block can be met there (R221). -/
def State.tryOn (s : State) (off : Nat) (c : CoreId) (b : Block) : Option State :=
  (s.placeOn off 0 c b).bind (fun k =>
    let t : State := { s with blocks := s.blocks ++ [k] }
    if b.evicted then t.meetWaits s.blocks.length else some t)

/-- Whether a core takes a block at an offset of its store. -/
def State.fitsAt (s : State) (off : Nat) (c : CoreId) (b : Block) : Bool := (s.tryOn off c b).isSome

/-- The first core of a list that fits each of some blocks in turn, no core twice. -/
def State.firstFit (s : State) (off : Nat) : List CoreId → List Block → Option (List CoreId)
  | _, [] => some []
  | cs, b :: bs => match cs.find? (fun c => s.fitsAt off c b) with
    | none => none
    | some c => (s.firstFit off (cs.filter (fun x => x != c)) bs).map (fun l => c :: l)

/-- The first core of a list that takes each of some blocks in turn beside those before it: a core may take several. -/
def State.packed (s : State) (off : Nat) (cs : List CoreId) : List Block → Option (List CoreId)
  | [] => some []
  | b :: bs => (cs.findSome? (fun c => (s.tryOn off c b).map (fun t => (c, t)))).bind (fun p =>
      (p.2.packed off cs bs).map (fun l => p.1 :: l))

/-- How many of some blocks a core takes in turn. -/
def State.takes (s : State) (off : Nat) (c : CoreId) : List Block → Nat
  | [] => 0
  | b :: bs => match s.tryOn off c b with
    | some t => t.takes off c bs + 1
    | none => s.takes off c bs

/-- A core for block `i`, where others that have one may have to move to a further core: the new seats, and the cores
looked at. `fuel` bounds the moves. -/
def reseat (fits : Nat → CoreId → Bool) (cs : List CoreId) :
    Nat → Nat → List (CoreId × Nat) → List CoreId → Option (List (CoreId × Nat)) × List CoreId
  | 0, _, _, seen => (none, seen)
  | fuel + 1, i, seats, seen =>
    (cs.filter (fits i)).foldl (fun (p : Option (List (CoreId × Nat)) × List CoreId) c =>
      if p.1.isSome || p.2.contains c then p
      else match seats.find? (fun x => x.1 == c) with
        | none => (some ((c, i) :: seats), c :: p.2)
        | some x => match reseat fits cs fuel x.2 (seats.filter (fun y => y.1 != c)) (c :: p.2) with
          | (some l, seen) => (some ((c, i) :: l), seen)
          | (none, seen) => (none, seen)) (none, seen)

/-- Seats on a list of cores for those of `n` blocks that have none yet, as many as there can be. -/
def seatMore (fits : Nat → CoreId → Bool) (cs : List CoreId) (n : Nat) (seats : List (CoreId × Nat)) :
    List (CoreId × Nat) :=
  (List.range n).foldl (fun l i => if l.any (fun x => x.2 == i) then l
    else ((reseat fits cs (n + 1) i l []).1).getD l) seats

/-- Whether blocks differ in what they take. -/
def unlike (bs : List Block) : Bool :=
  2 ≤ (bs.map (fun b => (b.wins, b.scrSize, b.tiles.length, b.slots, b.evicted))).eraseDups.length

/-- The cores of a cluster for a cohort at an offset: the first of those tried that `ok` finds good (R348). Tried are: no
core twice, the cores in `held` first; for unlike blocks, which compete for cores, on as many of `held` as can be; and where
there is no scratchpad, as few more cores as can be. A block alone may take any core. -/
def State.choose? (s : State) (off : Nat) (held more : List CoreId) (bs : List Block)
    (ok : List CoreId → Option (Nat × List Nat)) : Option (Nat × List Nat) :=
  match bs with
  | [b] => (held ++ more).findSome? (fun c => if s.fitsAt off c b then ok [c] else none)
  | _ =>
    let fits := fun (i : Nat) (c : CoreId) => match bs[i]? with | some b => s.fitsAt off c b | none => false
    let seats := fun (_ : Unit) =>
      let l := seatMore fits (held ++ more) bs.length (seatMore fits held bs.length [])
      (List.range bs.length).mapM (fun i => (l.find? (fun x => x.2 == i)).map (·.1))
    let room := fun (_ : Unit) =>
      let ks := more.map (fun c => (c, s.takes off c bs))
      held ++ ((List.range bs.length).reverse.flatMap (fun k => ks.filter (fun x => x.2 == k + 1))).map (·.1)
    (s.firstFit off (held ++ more) bs).bind ok <|>
    (if unlike bs then (seats ()).bind ok else none) <|>
    (if bs.all (fun b => b.scrSize == 0) then (s.packed off (room ()) bs).bind ok else none)

/-- The offsets at which a scratchpad may start on a cluster: the lowest, and after what stands on some core. -/
def State.offsets (s : State) (d cl : Nat) : List Nat :=
  (0 :: ((s.blocks.filter (fun b => b.st == .resident && b.core.die == d && b.core.cluster == cl)).flatMap (fun b =>
    ((1024 * b.sbk, kib b.scrSize) :: b.groups.flatMap (·.windows)).map (fun x =>
      (x.1 + x.2 + 1023) / 1024 * 1024)))).eraseDups

/-- Where an item is placed when the device chooses (log entry 10): on cores of one cluster, those first that hold blocks
of the region whose core budget counts. -/
def State.placeFor (s : State) (d : Nat) (x : Nat × QItem) : Option (Nat × List Nat) :=
  let bs := s.itemBlocks d x.2
  let held := (s.blocks.filter (fun b => b.st == .resident && b.core.die == d &&
    s.itemOf? x.2 == (s.region? b.rcb).map (·.coresOf))).map (·.core)
  let at' := fun (cl off : Nat) =>
    let cs := coresIn d cl (List.range 256)
    s.choose? off (cs.filter held.contains) (cs.filter (fun c => !(held.contains c))) bs (fun l =>
      (s.placeItem d x l).map (fun _ => (cl, l.map (·.core))))
  if bs.isEmpty then none
  else (List.range 3).findSome? (fun cl => (s.offsets d cl).findSome? (at' cl))

/-- The first item of a list that can be placed at given cores, no earlier one fitting anywhere (R348). -/
def State.placeFirst (s : State) (d : Nat) (cs : List CoreId) :
    List (Nat × QItem) → Option ((Nat × QItem) × State)
  | [] => none
  | x :: xs => match s.placeItem d x cs with
    | some t => some (x, t)
    | none => if (s.placeFor d x).isSome then none else s.placeFirst d cs xs

/-- BLOCK_DISPATCH (R348): the cohort of the launch whose turn it is, at those cores. -/
def execBlockDispatch (die cluster : Nat) (cores : List Nat) (s : State) : Out :=
  match s.placeFirst die (coresIn die cluster cores) (s.candidates die) with
  | some ((_, .launch _), t) => stepIf "BLOCK_DISPATCH" (die < 4) t
  | _ => .fault (.notEnabled "BLOCK_DISPATCH")

/-- BLOCK_RESTORE (R354). -/
def execBlockRestore (blk cluster : Nat) (cores : List Nat) (s : State) : Out :=
  let d := (s.coreOf blk).die
  match s.placeFirst d (coresIn d cluster cores) (s.candidates d) with
  | some ((_, .block n), t) => stepIf "BLOCK_RESTORE" (n == blk) t
  | _ => .fault (.notEnabled "BLOCK_RESTORE")

/-- JOIN_WAKE (R359): a saved cohort is queued again once none of its blocks waits for children (log entry 59), unless its
region is stopped on its die; the waiting splits of one that is still resident go on. -/
def execJoinWake (blk : Nat) (s : State) : Out :=
  match s.blocks[blk]? with
  | none => .fault (.notEnabled "JOIN_WAKE")
  | some b =>
    if b.st == .waitingJoin then
      let ns := s.cohortOf blk
      let t := ns.foldl (fun s n => s.modBlock n (fun k => { k with st := .saved })) s
      stepIf "JOIN_WAKE" (!((s.blocksAt ns).any Block.joinWaits))
        (if s.isStopped blk then t else t.requeue (ns.headD blk))
    else
      let ws := s.waiters (s.groupsOf blk) (fun r w => w == .join && s.mayWake r.gref)
      stepIf "JOIN_WAKE" (b.st == .resident && b.children == 0 && !ws.isEmpty)
        (ws.foldl (fun s r => (s.joinAcquire r).wake r) s)

/-- Whether every block of a region has ended (R344); one that was lost with its die has not. -/
def State.gridDone (s : State) (q : Region) : Bool :=
  q.pend.isEmpty && s.blocks.all (fun b => b.rcb != q.rcb || b.st == .ended)

/-- Whether the releases of a region's dies can run (R289, R344). -/
def State.regionReady (s : State) (q : Region) : Bool := q.dies.all (fun d => !(s.toReset d) && !(s.mergeHeld d))

/-- A region whose grid is done completes, or stands in STATE 4 for as long as its dies' releases cannot run (R344). -/
def State.regionEnds (s : State) (q : Region) : State :=
  if !(s.regionReady q) then s.setRegionSt q.rcb 4
  else
    let t := s.completeRegion q.rcb 5
    if t.away.isNone || !q.alive then t else s.setRegionSt q.rcb 4

/-- REGION_COMPLETE (R344): once its dies' releases can run; until then it stands in STATE 4. -/
def execRegionComplete (rcb : Nat) (s : State) : Out :=
  match s.region? rcb with
  | none => .fault (.notEnabled "REGION_COMPLETE")
  | some q =>
    stepIf "REGION_COMPLETE" (q.st < 5 && s.gridDone q && q.children == 0 && (s.regionReady q || q.alive))
      (s.regionEnds q)

/-- Whether the deadline of a group that is not at a blocking point has run out (R352). -/
def State.overdue (s : State) (r : GRef) (second : Bool) : Bool :=
  match s.group? r with
  | some g => (match g.deadline with
      | some d => s.resident r.blk && !g.ended && !g.atPoint && d.second == second &&
          d.start + d.cycles ≤ s.cyclesOf (s.coreOf r.blk)
      | none => false)
  | none => false

/-- PREEMPT_DEADLINE (R352): the cause and a second deadline, or at a handler level the end of the region. -/
def execPreemptDeadline (g : GRef) (s : State) : Out :=
  match s.group? g with
  | none => .fault (.notEnabled "PREEMPT_DEADLINE")
  | some k => stepIf "PREEMPT_DEADLINE" (s.overdue g false)
      (if k.level != 0 then s.killFor g cPreemptDeadline
       else s.modGroup g (fun k => { k with
        async := k.async ++ [(cPreemptDeadline, 0)],
        deadline := k.deadline.map (fun d =>
          { d with start := s.cyclesOf (s.coreOf g.blk), second := true }) }))

/-- HANDLER_DEADLINE_KILL (R352). -/
def execHandlerDeadlineKill (g : GRef) (s : State) : Out :=
  stepIf "HANDLER_DEADLINE_KILL" (s.overdue g true) (s.killFor g cPreemptDeadline)

/-- Whether a core is to evict a block, whose eviction has not begun (R221). -/
def State.evictDue (s : State) (c : CoreId) : Bool :=
  s.regDeadlock c && !((s.blocksAt (s.blocksOn c)).any Block.preempting)

/-- REGREQ_DEADLOCK_EVICT (R221, R357): a pre-emption of drain class of the block's cohort begins. -/
def execRegreqDeadlockEvict (c : CoreId) (s : State) : Out :=
  match s.evictee c with
  | none => .fault (.notEnabled "REGREQ_DEADLOCK_EVICT")
  | some n => stepIf "REGREQ_DEADLOCK_EVICT" (s.evictDue c) (s.startDrain n true).noteDrains

/-- The cores with a group that waits for store. -/
def State.storeWaiters (s : State) : List CoreId :=
  ((s.blocks.filter (fun b => b.st == .resident && b.groups.any (fun g =>
    !g.ended && g.waitsIn Wake.wantsStore))).map (·.core)).eraseDups

/-- DRAIN_LIMIT_EXPIRY (R326): the work still pending is discarded; a group in an open region restarts, with its gang
(log entry 33), another receives `ENGINE_RESET`. -/
def execDrainLimitExpiry (blk : Nat) (s : State) : Out :=
  match s.blocks[blk]? with
  | none => .fault (.notEnabled "DRAIN_LIMIT_EXPIRY")
  | some b =>
    let late := match b.drain with | some t => t + 65536 ≤ s.cyclesOf b.core | none => false
    stepIf "DRAIN_LIMIT_EXPIRY" (late && b.groups.any (fun g => !g.mq.isEmpty))
      (let hit := indicesWhere (fun g => !g.mq.isEmpty) b.groups
       let redo := b.restarting (indicesWhere (fun g => !g.mq.isEmpty && g.rgnOpen) b.groups)
       let t := (hit.foldl (fun s i => s.discard ⟨blk, i⟩ (fun _ => true)) s).restartGroups blk redo
       (hit.filter (fun i => !redo.contains i)).foldl (fun s i => s.engineResetTo ⟨blk, i⟩) t)

/-! ## The device's own choices -/

/-- The placement that the device makes next, on the lowest die that has one. -/
def State.placeNext (s : State) : Option (Nat × QItem × Nat × List Nat) :=
  (dieList.filterMap (fun d =>
    ((s.candidates d).filterMap (fun x => (s.placeFor d x).map (fun p => (d, x.2, p)))).head?)).head?

/-- The block that is saved next. -/
def State.saveNext (s : State) : Option Nat :=
  (indicesWhere (fun b => b.drain.isSome) s.blocks).find? (fun n =>
    s.saveDue n && (s.cohortOf n).all s.settled)

end Sys2Proof.Machine
end

