-- ==== Sys2Proof/Machine/Rolger.lean ====
section
/-! DEFINITION. Rolger: command queues and commands, boot, attestation, trace and replay configuration, page
tables and migration, power, soundings and hotness (22 R418 to R433, R436; 18 R345, R353; 14 R260, R287, R289). -/

namespace Sys2Proof.Machine

open Sys2Proof

/-! ## Command entries and their status -/

/-- The signature of the lines of a range (R277). -/
def sigOfRange (pa n : Nat) : Sig :=
  (range' (pa / 128) ((pa % 128 + n + 127) / 128)).foldl (fun e l => e ||| sigOfLine l) 0

/-- A command completes with its status (R420, R436): a release, which carries the signature of the bytes that
the command wrote (R278; DEDUCED, log entry 18). A status word whose home is lost cannot be written. -/
def State.complete (s : State) (e : CmdEntry) (result detail : Nat) (sig : Sig := 0) : State :=
  let stat := CmdField e 8 8
  let s := { s with
    pending := dropFirst (· == e) s.pending,
    statuses := s.statuses ++ [⟨e.queue, CmdField e 2 2, result, detail⟩] }
  if isPa stat && !((s.homeOf stat).any (fun h => (s.die h).st == .lost)) then
    (if sig == 0 then s else s.sigOr (stat / 128) sig).physWrite stat (bytesOfNat 4 result ++ bytesOfNat 4 detail)
  else s

/-- A refusal whose detail the spec does not give: a free value (log entry 6). -/
def State.refuseFree (s : State) (e : CmdEntry) (result : Nat) : State :=
  let (n, s) := s.freeN
  s.complete e result (n % 2 ^ 32)

/-- A refusal that names the first failing field of a structure (R420). -/
def State.refuseAt (s : State) (e : CmdEntry) (struct off : Nat) : State :=
  s.complete e 1 (off % 2 ^ 16 + 2 ^ 16 * struct)

/-- The lowest offset whose check fails. -/
def lowestBad (l : List (Nat × Bool)) : Option Nat :=
  minBy (fun n => n) ((l.filter (fun c => !c.2)).map (·.1))

/-- The checks of an entry (R419, R421): reserved bytes, the status address, the bytes that its command does
not name, and the limits `chk` of its arguments; `named` gives the argument bytes. -/
def entryBad (e : CmdEntry) (named : List Nat) (chk : List (Nat × Bool)) : Option Nat :=
  lowestBad ((range' 4 4).map (fun i => (i, CmdField e i 1 == 0)) ++ [(8, isPa (CmdField e 8 8))] ++
    ((range' 16 48).filter (fun i => !named.contains i)).map (fun i => (i, CmdField e i 1 == 0)) ++ chk)

/-- Whether an entry is the next of its queue that Rolger starts (R419). -/
def State.starts (s : State) (e : CmdEntry) : Bool :=
  s.taken.find? (fun x => x.queue == e.queue) == some e

/-- A command that has met the home slices of a lost die in what it did, `t`, is ended by `DIE_LOST`, with none of its
effects (R420; log entry 64). -/
def State.endedIn (s : State) (e : CmdEntry) (t : State) : State :=
  if (s.lostIn t).isSome then s.refuseFree e 5 else t

/-- One command in its mould: it starts, is checked, and does what `body` says (R419 to R421). -/
def command (name : String) (code : Nat) (e : CmdEntry) (named : List Nat) (chk : List (Nat × Bool))
    (rights : Bool) (body : State → State) (s : State) : Out :=
  stepIf name (s.starts e && cmdCode e == code && s.boot == .running)
    (let t := { s with taken := dropFirst (· == e) s.taken }
     if !rights then t.refuseFree e 4
     else match entryBad e named chk with
      | some off => t.refuseAt e 0 off
      | none => t.endedIn e (body t))

/-- DIE_RESET and POWER_CAP are accepted only from queue 0, or from queue 1 of a headless package (R420). -/
def State.mayIssue (s : State) (e : CmdEntry) : Bool := e.queue == (if s.headless then 1 else 0)

/-- The address of a region control block in an entry. -/
def cmdRcb (e : CmdEntry) : Nat := CmdField e 16 8

/-- A command that has written a region control block is done (R420). -/
def State.completeRcb (s : State) (e : CmdEntry) : State := s.complete e 0 0 (sigOfRange (cmdRcb e) 256)

/-- A command that names a region (R420): result 3 where there is none. -/
def onRegion (e : CmdEntry) (f : Region → State → State) (s : State) : State :=
  match s.region? (cmdRcb e) with
  | some q => f q s
  | none => s.refuseFree e 3

/-! ## Launch, pre-emption, resumption, kill -/

/-- The budget fields that one block of a region does not fit (R347). -/
def Region.budgetFails (q : Region) : List (Nat × Bool) :=
  [(18, inBudget q.regu (q.lrec.gpb * q.lrec.regs / 8)), (20, inBudget q.spu (q.lrec.scratch / 1024)),
   (22, inBudget q.tileu q.lrec.tiles)]

/-- TWINCAP of a launch comes into force on the dies that its RANGE names (R269, R420), once their pools hold no more. -/
def State.setTwincap (s : State) (l : LaunchRec) (cap : Nat) : State :=
  if cap == 0 then s
  else (l.ranges.zipIdx).foldl (fun s x =>
    if x.1.1 ≤ x.1.2 then
      (s.shrinkTwins x.2 (twinsOf cap) ((s.die x.2).twins + 1)).modDie x.2 (fun k => { k with twincap := cap })
    else s) s

/-- The body of LAUNCH (R345). -/
def launchBody (e : CmdEntry) (s : State) : State :=
  let (rec, s) := s.physRead (CmdField e 16 8) 160
  match launchBad rec with
  | some off => s.refuseAt e 1 off
  | none =>
    let l := launchRec rec
    if !l.holds then
      let (n, s) := s.freeN
      s.refuseAt e 1 n
    else
      let (bs, s) := s.physRead l.rcb 256
      let q := regionOfBytes l.rcb bs none l
      match lowestBad (((rcbBad bs [0, 2] true).map (fun o => (o, false))).toList ++ q.budgetFails) with
      | some off => s.refuseAt e 2 off
      | none => match s.almanac l with
        | (none, s) => s.refuseFree e 2
        | (some _, s) =>
          let (met, _, s) := s.waitsMet l
          let st := if met then 0 else 1
          let s := (s.initRcb l.rcb 0 st).setTwincap l (CmdField e 24 2)
          let q := { q with st := st }
          ((s.putRegion q).enqueueLaunch q).complete e 0 0 (sigOfRange l.rcb 256)

/-- LAUNCH (R345, R420, R421). -/
def execLaunch (e : CmdEntry) (s : State) : Out :=
  let cap := CmdField e 24 2
  command "LAUNCH" 1 e (range' 16 10)
    [(16, isPa (CmdField e 16 8) && CmdField e 16 8 % 32 == 0),
     (24, cap == 0 || (16 ≤ cap && cap ≤ 256 && cap % 16 == 0))] true (launchBody e) s

/-- The dies of a mask. -/
def diesOf (m : Nat) : List Nat := dieList.filter (fun d => m.testBit d)

/-- The resident blocks of a region on some dies. -/
def State.residentOn (s : State) (rcb : Nat) (ds : List Nat) : List Nat :=
  indicesWhere (fun b => b.rcb == rcb && b.st == .resident && ds.contains b.core.die) s.blocks

/-- Every group of some blocks is to reach a blocking point within the deadline (R352, R353). -/
def State.startSave (s : State) (q : Region) (ns : List Nat) : State :=
  ns.foldl (fun s n => s.modBlock n (fun b => { b with
    groups := b.groups.map (fun g =>
      if g.ended || g.deadline.isSome then g
      else { g with preempting := true,
                    deadline := some ⟨s.cyclesOf b.core, q.deadline, false⟩ }) })) s

/-- Whether what stands in a queue is of a region. -/
def State.itemOf (s : State) (rcb : Nat) : QItem → Bool
  | .launch r => r == rcb
  | .block b => ((s.blocks[b]?).map (·.rcb)) == some rcb

/-- What PREEMPT starts (R353). -/
def State.preemptNow (s : State) (q : Region) (ds : List Nat) : State :=
  let s := s.startSave q (s.residentOn q.rcb ds)
  let s := ds.foldl (fun s d => s.modDie d (fun k => { k with
    lq := k.lq.filter (fun x => !(s.itemOf q.rcb x.2)) })) s
  (s.modRegion q.rcb (fun r => { r with stopped := sortedSet (r.stopped ++ ds) })).setRegionSt q.rcb 3

/-- A command that has started and completes later. -/
def State.defer (s : State) (e : CmdEntry) : State := { s with pending := s.pending ++ [e] }

/-- Whether a PREEMPT is complete (R436). -/
def State.preempted (s : State) (e : CmdEntry) : Bool :=
  (s.residentOn (cmdRcb e) (diesOf (CmdField e 24 1))).isEmpty

/-- Whether a PREEMPT found nothing to do: it has stopped no dispatch (R436). -/
def Region.notStopped (q : Region) (e : CmdEntry) : Bool := !((diesOf (CmdField e 24 1)).all q.stopped.contains)

/-- PREEMPT (R353, R436): a region in STATE 4 first completes. -/
def execPreempt (e : CmdEntry) (s : State) : Out :=
  command "PREEMPT" 2 e (range' 16 9)
    [(16, isPa (cmdRcb e)), (24, CmdField e 24 1 < 16)] true
    (onRegion e (fun q s =>
      if q.st == 4 then s.defer e
      else if !q.alive then s.complete e 0 1
      else
        let s := s.preemptNow q (diesOf (CmdField e 24 1))
        if s.preempted e then s.completeRcb e else s.defer e)) s

/-- The saved cohorts of a region on a die that stand in no queue, by their lowest block. -/
def State.savedOn (s : State) (rcb d : Nat) : List Nat :=
  indicesWhere (fun b => b.rcb == rcb && b.core.die == d && b.st == .saved) s.blocks |>.filter (fun n =>
    (s.cohortOf n).head? == some n && !((s.die d).lq.any (fun x => x.2 == QItem.block n)))

/-- RESUME itself (R348, R353): saved blocks, then the launch, at the front of their queue. -/
def State.resumeNow (s : State) (q : Region) : State :=
  let s := q.stopped.foldl (fun s d =>
    let s := if (q.range? d).isSome && !((s.die d).lq.any (fun x => x.2 == QItem.launch q.rcb)) then
        s.modDie d (fun k => { k with lq := (q.lrec.queue, QItem.launch q.rcb) :: k.lq })
      else s
    ((s.savedOn q.rcb d).reverse).foldl (fun s n => s.requeue n) s) s
  let st := if !q.dies.isEmpty then 2 else if (s.waitsMet q.lrec).1 then 0 else 1
  (s.modRegion q.rcb (fun r => { r with stopped := [] })).setRegionSt q.rcb st

/-- Whether a PREEMPT of a region is still under way. -/
def State.preemptPending (s : State) (rcb : Nat) : Bool :=
  s.pending.any (fun e => cmdCode e == 2 && cmdRcb e == rcb)

/-- RESUME (R353, R436): after a PREEMPT of the region that is under way. -/
def execResume (e : CmdEntry) (s : State) : Out :=
  command "RESUME" 3 e (range' 16 8) [(16, isPa (cmdRcb e))] true
    (onRegion e (fun q s =>
      if q.st != 3 then s.complete e 0 1
      else if s.preemptPending q.rcb then s.defer e
      else (s.resumeNow q).completeRcb e)) s

/-- KILL (R344, R436): a region in STATE 4 first completes. -/
def execKill (e : CmdEntry) (s : State) : Out :=
  command "KILL" 4 e (range' 16 8) [(16, isPa (cmdRcb e))] true
    (onRegion e (fun q s =>
      if q.st == 4 then s.defer e
      else if !q.alive then s.complete e 0 1
      else (s.killRegion q.rcb (s.regions.length + 1)).completeRcb e)) s

/-! ## Page tables -/

/-- The frame of a number in a list of ranges. -/
def frameAt : List MapRange → Nat → Option Nat
  | [], _ => none
  | r :: rs, k => if k < r.size / 65536 then some (r.base + 65536 * k) else frameAt rs (k - r.size / 65536)

/-- The frames of a list of ranges. -/
def frameCount (rs : List MapRange) : Nat := (rs.map (fun r => r.size / 65536)).sum

/-- The first frame from number `k` on that is not in use; `n` bounds the search. -/
def freeFrame (rs : List MapRange) (used : List Nat) (k : Nat) : Nat → Option Nat
  | 0 => none
  | n + 1 => match frameAt rs (k % frameCount rs) with
    | some f => if used.contains f then freeFrame rs used (k + 1) n else some f
    | none => none

/-- A page of memory set to 0: its home answers, and its controller counts the 512 lines (R289, R430). -/
def State.zeroFrame (s : State) (pa : Nat) : State :=
  let s := match s.homeOf pa with | some h => s.ask h | none => s
  { s.hotTouch (pa / 128) 512 with dram := s.dram.filter (fun c => c.1 < pa || pa + 65536 ≤ c.1) }

/-- A fresh page table in Rolger's reservation, at a place that the spec leaves to Rolger (log entry 20). -/
def State.newTable (s : State) : Option (Nat × State) :=
  let (k, s) := s.freeN
  let used := s.tables ++ s.roots.map (·.2)
  (freeFrame (s.map.filter (·.rolger)) used k (used.length + 1)).map (fun f =>
    (f, { s.zeroFrame f with tables := s.tables ++ [f] }))

/-- The root table of an address space, made where there is none. -/
def State.rootOf (s : State) (asid : Nat) : Option (Nat × State) :=
  match s.roots.find? (fun r => r.1 == asid) with
  | some r => some (r.2, s)
  | none => s.newTable.map (fun p => (p.1, { p.2 with roots := p.2.roots ++ [(asid, p.1)] }))

/-- The table below a table's entry for an address, made where the entry names none (R383). -/
def State.tableBelow (s : State) (t va lvl : Nat) : Option (Nat × State) :=
  let a := t + 8 * bitsN va (54 - 13 * (lvl - 1)) (42 - 13 * (lvl - 1))
  let (bs, s) := s.physRead a 8
  let p := natOfBytes bs
  if p % 2 == 1 && p / 2 % 2 == 0 then some (bitsN p 51 16 * 2 ^ 16, s)
  else s.newTable.map (fun q => (q.1, q.2.physWrite a (bytesOfNat 8 (q.1 + 1))))

/-- The leaf that maps an address: entry, its address, level (R384). -/
def State.leafAt (s : State) (asid va : Nat) : Option (Nat × Nat × Nat) :=
  match s.roots.find? (fun r => r.1 == asid) with
  | none => none
  | some r => match (s.walkFrom 4 va r.2 3).1 with
    | .ok x => some x
    | .error _ => none

/-- Rolger has read the entries that lead to the leaf of an address, at their homes (R289, R430). -/
def State.leafRead (s : State) (asid va : Nat) : State :=
  match s.roots.find? (fun r => r.1 == asid) with
  | none => s
  | some r => (s.walkFrom 4 va r.2 3).2

/-- The copies of a mapping's frame are written back and dropped on every die (R260, R399). -/
def State.flushLeaf (s : State) (l : Leaf) : State := s.maintain l.pbase l.size true

/-- The mapping of an address, as a leaf. -/
def State.mappingOf (s : State) (asid va : Nat) : Option Leaf :=
  (s.leafAt asid va).map (fun x => leafOf x.1 x.2.1 x.2.2 asid va)

/-- The old mapping of a page is flushed (R260). -/
def State.flushMapping (s : State) (asid va : Nat) : State :=
  match s.mappingOf asid va with
  | some l => s.flushLeaf l
  | none => s

/-- Rolger's record of the frames it has mapped: a mapping's old frame goes, a new one comes (R431). -/
def State.framesNow (s : State) (old new : Option (Nat × Nat)) : State :=
  { s with frames := new.toList ++ (match old with | some f => dropFirst (· == f) s.frames | none => s.frames) }

/-- The frame of a mapping. -/
def Leaf.frame (l : Leaf) : Nat × Nat := (l.pbase, l.size)

/-- MAP of one page (R260): flush, entry, shootdown. None where Rolger has no memory for a table. -/
def State.mapPage (s : State) (asid va pte : Nat) : Option State :=
  let f := bitsN pte 51 16 * 2 ^ 16
  let s := s.leafRead asid va
  let s := s.framesNow ((s.mappingOf asid va).map Leaf.frame) (if pte.testBit 0 then some (f, 65536) else none)
  let s := (s.flushMapping asid va).maintain f 65536 true
  (s.rootOf asid).bind (fun p => (p.2.tableBelow p.1 va 1).bind (fun p =>
    (p.2.tableBelow p.1 va 2).map (fun p =>
      (p.2.physWrite (p.1 + 8 * bitsN va 28 16) (bytesOfNat 8 pte)).shootdown (tlbiVaLeaf asid va))))

/-- MAP of `n` pages to frames that follow one another (R420, DEDUCED, log entry 20). -/
def State.mapPages (s : State) (asid va pte : Nat) : Nat → Option State
  | 0 => some s
  | n + 1 => (s.mapPage asid va pte).bind (fun s => s.mapPages asid (va + 65536) (pte + 65536) n)

/-- Whether a page table entry holds its limits, with frames that Rolger may map (R22, R383, R435). -/
def State.pteOk (s : State) (pte n : Nat) : Bool :=
  let f := bitsN pte 51 16 * 2 ^ 16
  bitsN pte 55 52 == 0 && bitsN pte 15 11 == 0 &&
  (pte % 2 == 0 || (s.covered f (65536 * n) 65 &&
    s.map.all (fun r => !r.rolger || r.base + r.size ≤ f || f + 65536 * n ≤ r.base)))

/-- The signature of the page table entries of `n` pages (R278, R420). -/
def State.sigOfPages (s : State) (asid va n : Nat) : Sig :=
  (List.range n).foldl (fun e j => match s.leafAt asid (va + 65536 * j) with
    | some x => e ||| sigOfLine (x.2.1 / 128)
    | none => e) 0

/-- The limits of a VA and a page count (R421). -/
def pagesBad (e : CmdEntry) : List (Nat × Bool) :=
  let va := CmdField e 24 8
  let n := CmdField e 40 4
  [(24, va % 65536 == 0 && va < 2 ^ 55), (40, 1 ≤ n && n ≤ 2 ^ 24 && va + 65536 * n ≤ 2 ^ 55)]

/-- Whether a MAP or UNMAP waits: its shootdown for row instructions (R398), the command for a migration of one of its
pages (R431). -/
def State.mapWaits (s : State) (e : CmdEntry) : Bool :=
  s.rowsBusy || s.migrations.any (fun m => m.leaf.asid == CmdField e 16 2 &&
    m.leaf.vbase < CmdField e 24 8 + 65536 * CmdField e 40 4 && CmdField e 24 8 < m.leaf.vbase + m.leaf.size)

/-- MAP itself; where Rolger has no memory for a table it is refused (DESIGN CHOICE, log entry 20). -/
def State.mapNow (s : State) (e : CmdEntry) : State :=
  let asid := CmdField e 16 2
  let va := CmdField e 24 8
  let n := CmdField e 40 4
  match s.mapPages asid va (CmdField e 32 8) n with
  | some t => t.complete e 0 0 (t.sigOfPages asid va n)
  | none => s.refuseFree e 1

/-- MAP (R260, R420, R421): its shootdown waits for row instructions (R398). -/
def execMap (e : CmdEntry) (s : State) : Out :=
  command "MAP" 5 e (range' 16 2 ++ range' 24 20)
    ((32, s.pteOk (CmdField e 32 8) (CmdField e 40 4)) :: pagesBad e) true
    (fun s => if s.mapWaits e then s.defer e else s.mapNow e) s

/-- The trace descriptors of regions, and of the contexts that groups run or will return to, with their address spaces
(R395, R425). -/
def State.traceUnits (s : State) : List (Nat × Nat) :=
  ((s.regions.map (fun q => (q.asid, q.trace)) ++ s.blocks.flatMap (fun b => b.groups.flatMap (fun g =>
    (g.ctx :: g.gates.map (·.ctx)).map (fun c => (c.asid, c.trace))))).filter (fun x => x.2 != 0)).eraseDups

/-- Whether the trace buffer of a descriptor (R425) is enabled and covers part of a range of its address space. -/
def State.traceOn (s : State) (desc va size : Nat) : Bool :=
  !(s.tracesOff.contains desc) &&
  (let (d, _) := s.physRead desc 64
   let base := fieldN d 0 8
   (fieldN d 32 1).testBit 0 && va < base + fieldN d 8 8 && base < va + size)

/-- A shootdown that takes a page from trace buffers stops their units (R426). -/
def State.stopTraces (s : State) (l : Leaf) : State :=
  s.traceUnits.foldl (fun s x =>
    if x.1 == l.asid && s.traceOn x.2 l.vbase l.size then
      ({ s.physWrite (x.2 + 32) [0] with tracesOff := insertNat x.2 s.tracesOff } : State).report (.traceStopped x.2)
    else s) s

/-- The mapping that holds an address is removed, and its translations shot down (R398, R426). -/
def State.unmapPage (s : State) (asid va : Nat) : State :=
  let s := s.leafRead asid va
  match s.leafAt asid va with
  | some x =>
    let l := leafOf x.1 x.2.1 x.2.2 asid va
    (((s.framesNow (some l.frame) none).physWrite x.2.1 (bytesOfNat 8 0)).shootdown (tlbiVaLeaf asid va)).stopTraces l
  | none => s.shootdown (tlbiVaLeaf asid va)

/-- UNMAP itself. -/
def State.unmapNow (s : State) (e : CmdEntry) : State :=
  let asid := CmdField e 16 2
  let va := CmdField e 24 8
  let n := CmdField e 40 4
  if s.roots.any (fun r => r.1 == asid) then
    ((List.range n).foldl (fun s j => s.unmapPage asid (va + 65536 * j)) s).complete e 0 0 (s.sigOfPages asid va n)
  else s.refuseFree e 3

/-- UNMAP (R420, R421): its shootdown waits for row instructions (R398). -/
def execUnmap (e : CmdEntry) (s : State) : Out :=
  command "UNMAP" 6 e (range' 16 2 ++ range' 24 8 ++ range' 40 4) (pagesBad e) true
    (fun s => if s.mapWaits e then s.defer e else s.unmapNow e) s

/-- The ranges of a tier that Rolger may map (R421, R435). -/
def State.tierRanges (s : State) (tier : Nat) : List MapRange :=
  s.map.filter (fun r => !r.rolger && (match r.target with
    | .hbm _ => tier == 0
    | .cxl _ => tier == 1
    | .host => false))

/-- Whether an address lies in a tier. -/
def State.inTier (s : State) (tier pa : Nat) : Bool :=
  (s.tierRanges tier).any (fun r => r.base ≤ pa && pa < r.base + r.size)

/-- Whether a page must stay for now (R431): a started row instruction has translated it, or it is a page of
an enabled trace buffer. -/
def State.pinned (s : State) (l : Leaf) : Bool :=
  s.engines.any (fun e => (match e.kind with
    | .rowcpy d q _ => d ++ q
    | .rowfill d _ _ => d
    | .rowop _ d a b c _ => d ++ a ++ b ++ c
    | _ => []).any (fun p => l.pbase ≤ p && p < l.pbase + l.size)) ||
  s.traceUnits.any (fun x => x.1 == l.asid && s.traceOn x.2 l.vbase l.size)

/-- A frame's bytes and error marks copied to another frame (R431, step 3): a read and a write of every line, which the
controllers count (R430). -/
def State.copyFrame (s : State) (old new size : Nat) : State :=
  let s := (range' (old / 128) (size / 128) ++ range' (new / 128) (size / 128)).foldl (fun s l =>
    (match s.homeOfLine l with | some h => s.ask h | none => s).dramAccess l) s
  let src := s.dram.filter (fun c => old ≤ c.1 && c.1 < old + size)
  let rest := s.dram.filter (fun c => c.1 < new || new + size ≤ c.1)
  let bad := (s.eccBad.filter (fun l => old ≤ 128 * l && 128 * l < old + size)).map
    (fun l => l - old / 128 + new / 128)
  { s with
    dram := src.foldl (fun m c => Memory.set m (c.1 - old + new) c.2) rest,
    eccBad := bad ++ s.eccBad.filter (fun l => !(new ≤ 128 * l && 128 * l < new + size)) }

/-- The frame of a number among some ranges of frames, given as base and count. -/
def nthFrame (rs : List (Nat × Nat)) (size k : Nat) : Option Nat :=
  (rs.foldl (fun (p : Option Nat × Nat) (r : Nat × Nat) =>
    if p.1.isSome then p
    else if p.2 < r.2 then (some (r.1 + size * p.2), 0) else (none, p.2 - r.2)) (none, k)).1

/-- The first frame from a number on that overlaps nothing in use; `n` bounds the search. -/
def unusedFrame (rs : List (Nat × Nat)) (size : Nat) (used : List (Nat × Nat)) (k : Nat) : Nat → Option Nat
  | 0 => none
  | n + 1 => match nthFrame rs size (k % (rs.map (·.2)).sum) with
    | none => none
    | some f =>
      if used.any (fun u => u.1 < f + size && f < u.1 + u.2) then unusedFrame rs size used (k + 1) n else some f

/-- What Rolger knows to be in use: the frames that it has mapped or is moving pages to, region control blocks and command
rings (log entry 20). -/
def State.inUse (s : State) : List (Nat × Nat) :=
  s.frames ++ s.migrations.map (fun m => (m.frame, m.leaf.size)) ++ s.regions.map (fun q => (q.rcb, 256)) ++
  s.queues.map (fun k => (k.base, 64 * k.count))

/-- The frame that a page moves to: which free one of its tier is Rolger's choice, a free value (log entry 20). -/
def State.migrateTo (s : State) (tier size : Nat) : Option Nat × State :=
  let rs := (s.tierRanges tier).filterMap (fun r =>
    let b := (r.base + size - 1) / size * size
    if b + size ≤ r.base + r.size then some (b, (r.base + r.size - b) / size) else none)
  let (k, s) := s.freeN
  (unusedFrame rs size s.inUse k ((s.inUse.map (fun u => u.2 / size + 2)).sum + 1), s)

/-- MIGRATE begins (R431): the entry is made invalid and shot down; the rest follows in steps. -/
def State.migrateNow (s : State) (e : CmdEntry) : State :=
  let asid := CmdField e 16 2
  let va := CmdField e 24 8
  let tier := CmdField e 32 1
  match s.leafAt asid va with
  | none => s.refuseFree e 3
  | some x =>
    let s := s.leafRead asid va
    let l := leafOf x.1 x.2.1 x.2.2 asid va
    if s.inTier tier l.pbase then s.complete e 0 0
    else match s.migrateTo tier l.size with
      | (none, s) => s.refuseAt e 0 32
      | (some f, s) =>
        let s := (s.physWrite x.2.1 (bytesOfNat 8 (x.1 - 1))).shootdown (tlbiVaLeaf asid va)
        { s with
          pending := if s.pending.contains e then s.pending else s.pending ++ [e],
          migrations := s.migrations ++ [{ cmd := e, pte := x.2.1, old := x.1, leaf := l, frame := f, stage := 2 }] }

/-- A migration that leaves the list; what parked on its page is to be replayed (R431). -/
def State.migrated (s : State) (m : Migration) : State :=
  let mark := fun (f : FaultRec) => if f.meets m.leaf then { f with moved := true } else f
  { s with
    migrations := dropFirst (· == m) s.migrations,
    dies := s.dies.map (fun d => { d with faultq := d.faultq.map mark }), farFaults := s.farFaults.map mark }

/-- The next step of a migration (R431, steps 2 to 5). -/
def State.migrateStep (s : State) (m : Migration) : State :=
  let l := m.leaf
  let goto' := fun (s : State) (n : Nat) =>
    ({ s with migrations := modFirst (· == m) (fun m => { m with stage := n }) s.migrations } : State)
  match m.stage with
  | 2 => goto' ((s.flushLeaf l).maintain m.frame l.size true) 3
  | 3 => goto' (s.copyFrame l.pbase m.frame l.size) 4
  | 4 => goto' (s.physWrite m.pte (bytesOfNat 8 (m.old - l.pbase + m.frame))) 5
  | _ => ((s.framesNow (some l.frame) (some (m.frame, l.size))).migrated m).complete m.cmd 0 0 (sigOfRange m.pte 8)

/-- Whether a MIGRATE must wait (R431). -/
def State.migrateWaits (s : State) (e : CmdEntry) : Bool :=
  match s.mappingOf (CmdField e 16 2) (CmdField e 24 8) with
  | some l => s.pinned l
  | none => s.migrations.any (fun m => m.leaf.asid == CmdField e 16 2 && m.leaf.vbase ≤ CmdField e 24 8 &&
      CmdField e 24 8 < m.leaf.vbase + m.leaf.size)

/-- MIGRATE (R431). -/
def execMigrate (e : CmdEntry) (s : State) : Out :=
  let va := CmdField e 24 8
  command "MIGRATE" 7 e (range' 16 2 ++ range' 24 9)
    [(24, va % 65536 == 0 && va < 2 ^ 55), (32, CmdField e 32 1 < 2)] true
    (fun s => if s.migrateWaits e then s.defer e else s.migrateNow e) s

/-! ## Dies and links -/

/-- DIE_RESET (R289): it completes when the die rejoins, or is lost. -/
def execDieReset (e : CmdEntry) (s : State) : Out :=
  let d := CmdField e 16 1
  command "DIE_RESET" 8 e [16] [(16, d < 4)] (s.mayIssue e)
    (fun s => match (s.die d).st with
      | .running => (s.dieReset d).defer e
      | .inReset => s.defer e
      | .lost => s.refuseFree e 5) s

/-- LINK_POWER (R287). -/
def execLinkPower (e : CmdEntry) (s : State) : Out :=
  let m := CmdField e 16 1
  let hold := CmdField e 17 1 == 1
  command "LINK_POWER" 9 e [16, 17] [(16, m < 64), (17, CmdField e 17 1 < 2)] true
    (fun s => ({ s with links := (s.links.zipIdx).map (fun x =>
        if m.testBit x.2 then { (if hold && x.1.asleep then x.1.woken s.wall.toNat else x.1) with held := hold }
        else x.1) } : State).complete e 0 0) s

/-! ## Attestation, trace, replay, power -/

/-- A byte string of a fixed length. -/
def fixLen (n : Nat) (bs : List Byte) : List Byte := (List.range n).map (fun i => bs.getD i 0)

/-- The version that QUERY item 0 and ATTEST report (R423, DEDUCED, log entry 21). -/
def State.version (s : State) : BitVec 32 :=
  if s.boot == .running then s.imageVersion else Config.romVersion

/-- `n` bytes that the spec leaves open (log entry 6). -/
def State.freeBytes (s : State) : Nat → List Byte × State
  | 0 => ([], s)
  | n + 1 =>
    let (k, s) := s.freeN
    let (bs, s) := s.freeBytes n
    (BitVec.ofNat 8 k :: bs, s)

/-- ATTEST (R424): the fields in the order in which R424 names them (DEDUCED, log entry 21). -/
def execAttest (e : CmdEntry) (s : State) : Out :=
  command "ATTEST" 10 e (range' 16 16) [(16, isPa (CmdField e 16 8)), (24, isPa (CmdField e 24 8))] true
    (fun s =>
      let (nonce, s) := s.physRead (CmdField e 16 8) 32
      let (pad, s) := s.freeBytes 18
      let body := nonce ++ fixLen 32 s.imageDigest ++ bytesOfNat 4 s.version.toNat ++
        bytesOfNat 8 Config.serial.toNat ++ bytesOfNat 2 (Config.deviceNumber.toNat % 1024) ++ pad
      (s.physWrite (CmdField e 24 8) (body ++ fixLen 64 (Config.ecdsaSign body))).complete e 0 0
        (sigOfRange (CmdField e 24 8) 160)) s

/-- The limits of a trace descriptor (R425). -/
def traceBad (d : List Byte) : Option Nat :=
  lowestBad ([(0, fieldN d 0 8 % 65536 == 0), (8, fieldN d 8 8 % 65536 == 0), (32, fieldN d 32 1 < 2),
    (33, fieldN d 33 1 < 16)] ++ (range' 34 30).map (fun i => (i, fieldN d i 1 == 0)))

/-- The context of the block's own region, inside gate calls too (R395). -/
def Group.setTrace (a : Nat) (g : Group) : Group :=
  if g.gates.isEmpty then { g with ctx := { g.ctx with trace := a } }
  else
    let set := fun (f : GateFrame) => { f with ctx := { f.ctx with trace := a } }
    { g with gates := modAt g.gates (g.gates.length - 1) set }

/-- TRACE_CFG (R425, R426): it enables the descriptor's unit, whose count starts again (DEDUCED, log entry
22); 0 disables. -/
def execTraceCfg (e : CmdEntry) (s : State) : Out :=
  let a := CmdField e 24 8
  command "TRACE_CFG" 11 e (range' 16 16) [(16, isPa (cmdRcb e)), (24, isPa a)] true
    (onRegion e (fun q s =>
      let set := fun (s : State) =>
        let s : State := { s with blocks := s.blocks.map (fun (b : Block) =>
          if b.rcb == q.rcb then { b with groups := b.groups.map (Group.setTrace a) } else b) }
        ({ s with tracesOff := s.tracesOff.filter (fun d => d != a) } : State).modRegion q.rcb
          (fun r => { r with trace := a })
      if a == 0 then (set s).complete e 0 0
      else
        let (d, s) := s.physRead a 64
        match traceBad d with
        | some off => s.refuseAt e 3 off
        | none => (((set s).physWrite (a + 16) (bytesOfNat 8 0)).physWrite (a + 32) [1]).complete e 0 0
            (sigOfRange a 64))) s

/-- REPLAY_CFG (R428): a recording starts an empty log. -/
def execReplayCfg (e : CmdEntry) (s : State) : Out :=
  let m := CmdField e 16 1
  let a := CmdField e 24 8
  let n := CmdField e 32 8
  command "REPLAY_CFG" 12 e ([16] ++ range' 24 16)
    [(16, m < 3), (24, isPa a && a % 4096 == 0), (32, n % 32 == 0 && 64 ≤ n)] true
    (fun s =>
      let s := if m == 1 then s.physWrite a (List.replicate 32 0) else s
      let (h, s) := if m == 2 then s.physRead a 8 else (bytesOfNat 8 0, s)
      ({ s with reckon := { mode := m, addr := a, size := n, written := natOfBytes h, stopped := false,
                            ords := [], amoOrds := [], diverged := [] },
                  helms := s.helms.map (fun h => { h with next := 0 }) } : State).complete e 0 0
        (if m == 1 then sigOfRange a 32 else 0)) s

/-- POWER_CAP (R432). -/
def execPowerCap (e : CmdEntry) (s : State) : Out :=
  let w := CmdField e 16 4
  command "POWER_CAP" 13 e (range' 16 4) [(16, 600 ≤ w && w ≤ 3600)] (s.mayIssue e)
    (fun s => ({ s with power := { s.power with cap := w } } : State).complete e 0 0) s

/-! ## Queries -/

/-- State of a die as QUERY reports it. -/
def DieSt.code : DieSt → Nat
  | .running => 0
  | .inReset => 1
  | .lost => 2

/-- A range of the address map as QUERY item 11 reports it. -/
def rangeBytes (r : MapRange) : List Byte :=
  let k := match r.target with
    | .hbm n => (0, n)
    | .cxl n => (1, n)
    | .host => (2, 0)
  bytesOfNat 8 r.base ++ bytesOfNat 8 r.size ++ bytesOfNat 1 k.1 ++ bytesOfNat 1 k.2 ++
    bytesOfNat 1 (if r.rolger then 1 else 0) ++ bytesOfNat 5 0

/-- The reply of an item (R422); none for an item that is not in the table. -/
def State.itemReply (s : State) (item value : Nat) : Option (List Byte) :=
  let b := fun (n v : Nat) => bytesOfNat n v
  match item with
  | 0 => some (b 8 Config.serial.toNat ++ b 2 (Config.deviceNumber.toNat % 1024) ++ b 4 s.version.toNat ++
      b 1 (if s.boot == .recovery then 1 else 0) ++ b 1 0)
  | 1 => some (fixLen 64 Config.identityKey)
  | 2 => some (dieList.flatMap (fun d => b 1 (s.die d).st.code ++ b 3 0 ++ b 4 (l2cap d)))
  | 3 => some (s.links.flatMap (fun l => b 1 (if l.failed then 2 else if l.asleep then 1 else 0) ++
      b 1 l.failures ++ b 1 (if l.held then 1 else 0) ++ b 1 0))
  | 4 => some (b 8 Config.doorbellPa.toNat ++ s.queues.flatMap (fun q => b 8 q.base ++ b 4 q.count ++ b 4 q.head))
  | 5 => some (dieList.flatMap (fun d => b 4 (s.die d).faultq.length ++ b 4 (s.die d).served))
  | 6 => some (b 4 s.power.cap ++ b 4 s.power.watts ++ s.power.steps.flatMap (fun n => b 1 n))
  | 7 => some (b 4 s.hot.interval)
  | 8 =>
    let l := ((s.hot.lists.find? (fun x => x.1 == value)).map (·.2)).getD []
    some ((List.range 128).flatMap (fun i => match l[i]? with
      | some p => b 8 (p.1 * 2 ^ 16 + p.2)
      | none => b 8 0))
  | 9 => some ((List.range 16).flatMap (fun i => b 2 (s.power.margin.getD i 0) ++ b 2 (s.power.delay.getD i 0) ++
      b 2 ((s.wall.toNat - s.power.sound) / 1000000) ++ b 2 0))
  | 10 => some (b 8 s.reckon.written ++ b 1 (if s.reckon.stopped then 1 else 0) ++ b 1 s.reckon.mode ++ b 6 0)
  | 11 => some (b 4 s.map.length ++ b 4 0 ++ s.map.flatMap rangeBytes)
  | _ => none

/-- The body of QUERY: the reply before the status (R422). -/
def queryBody (e : CmdEntry) (s : State) : State :=
  match s.itemReply (CmdField e 16 2) (CmdField e 32 8) with
  | none => s.refuseFree e 3
  | some bs => (s.physWrite (CmdField e 24 8) bs).complete e 0 bs.length (sigOfRange (CmdField e 24 8) bs.length)

/-- The limits of QUERY's arguments (R421, R422). -/
def queryBad (e : CmdEntry) : List (Nat × Bool) :=
  [(24, isPa (CmdField e 24 8)), (32, CmdField e 16 2 != 8 || CmdField e 32 8 < 24)]

/-- QUERY with WR = 0 or 1: a package in recovery answers it too (R422, R423). -/
def queryCmd (name : String) (wr : Nat) (e : CmdEntry) (chk : List (Nat × Bool)) (body : State → State)
    (s : State) : Out :=
  stepIf name (s.starts e && cmdCode e == 14 && (CmdField e 18 1 == wr || (wr == 0 && 1 < CmdField e 18 1)) &&
      s.boot != .off)
    (let t := { s with taken := dropFirst (· == e) s.taken }
     match entryBad e (range' 16 3 ++ range' 24 16) ((18, CmdField e 18 1 < 2) :: chk) with
     | some off => t.refuseAt e 0 off
     | none => t.endedIn e (body t))

/-- QUERY (R422). -/
def execQuery (e : CmdEntry) (s : State) : Out := queryCmd "QUERY" 0 e (queryBad e) (queryBody e) s

/-- QUERY with WR = 1 (R422): item 7 takes the value. -/
def execQueryWrite (e : CmdEntry) (s : State) : Out :=
  let item := CmdField e 16 2
  let v := CmdField e 32 8
  queryCmd "QUERY_WRITE" 1 e
    ((18, item == 7 || 11 < item) :: (32, item != 7 || (100 ≤ v && v ≤ 100000)) :: queryBad e)
    (fun s => queryBody e (if item == 7 then { s with hot := { s.hot with interval := v } } else s)) s

/-! ## Doorbells, boot -/

/-- The entries of a ring from `head`, `n` of them. -/
def State.ringEntries (s : State) (q : Nat) (k : CmdQueue) : Nat → Nat → List CmdEntry × State
  | _, 0 => ([], s)
  | head, n + 1 =>
    let (bs, s) := s.physRead (k.base + 64 * (head % k.count)) 64
    let (es, s) := s.ringEntries q k (head + 1) n
    (⟨q, bs⟩ :: es, s)

/-- Whether a code is a command's (R420). -/
def knownCode (c : Nat) : Bool := 1 ≤ c && c ≤ 14

/-- DOORBELL_WRITE (R419): Rolger takes the new entries in ring order; one of no known code is answered at
once (R420), and in recovery only QUERY is answered (R423). -/
def execDoorbellWrite (queue tail : Nat) (s : State) : Out :=
  match s.queues[queue]? with
  | none => .fault (.notEnabled "DOORBELL_WRITE")
  | some k =>
    stepIf "DOORBELL_WRITE" (s.boot != .off && k.count != 0 && tail < k.count && !(s.headless && queue == 0))
      (let (es, s) := s.ringEntries queue k k.head ((tail + k.count - k.head) % k.count)
       let s := { s with queues := s.queues.set queue { k with head := tail, tail := tail } }
       es.foldl (fun s e =>
         if s.boot == .recovery && cmdCode e != 14 then s
         else if knownCode (cmdCode e) then { s with taken := s.taken ++ [e] }
         else s.refuseAt e 0 0) s)

/-- The size of the ranges of a map that satisfy a test. -/
def sizeOf' (m : List MapRange) (p : MapRange → Bool) : Nat := ((m.filter p).map (·.size)).sum

/-- Whether an address map holds its rules (R21, R22, R435): a stack has 64 GB, of which Rolger reserves 2 GB, a port has
at most 384 GB. In whole pages of 64 KiB the 64 GB are rounded down and the 2 GB up: DESIGN CHOICE (log entry 74). -/
def mapOk (m : List MapRange) : Bool :=
  m.length ≤ 64 &&
  m.all (fun r => r.base % 65536 == 0 && r.size % 65536 == 0 && 0 < r.size && r.base + r.size ≤ 2 ^ 52 &&
    (match r.target with
      | .hbm n => n < 8
      | .cxl n => n < 16 && !r.rolger
      | .host => !r.rolger)) &&
  (m.zipIdx).all (fun x => (m.zipIdx).all (fun y => x.2 == y.2 || x.1.base + x.1.size ≤ y.1.base ||
    y.1.base + y.1.size ≤ x.1.base)) &&
  (List.range 8).all (fun k => sizeOf' m (fun r => r.target == .hbm k) == 976562 * 65536 &&
    sizeOf' m (fun r => r.rolger && r.target == .hbm k) == 30518 * 65536) &&
  (List.range 16).all (fun p => decide (sizeOf' m (fun r => r.target == .cxl p) ≤ 384000000000))

/-- Whether a boot image passes every check (R423). -/
def imageOk (bs : List Byte) : Bool :=
  let n := fieldN bs 8 8
  let key := (bs.drop 64).take 64
  fieldN bs 0 4 == 0x52474C42 && Config.sha256 key == Config.keyHash &&
  Config.ecdsaVerify key (bs.take 128) ((bs.drop 128).take 64) &&
  256 + n ≤ bs.length && (bs.drop 32).take 32 == Config.sha256 ((bs.drop 256).take n)

/-- A ring in host memory or HBM (R419): which range holds it, where in it and how long it is are free values. -/
def freeRing (m : List MapRange) (j k n : Nat) : CmdQueue :=
  let rs := m.filter (fun r => match r.target with | .cxl _ => false | _ => true)
  match rs[j % rs.length]? with
  | none => { base := 0, count := 0, head := 0, tail := 0 }
  | some r =>
    let count := if 64 * 2 ^ (4 + n % 9) ≤ r.size then 2 ^ (4 + n % 9) else 16
    { base := r.base + 4096 * (k % ((r.size - 64 * count) / 4096 + 1)), count := count, head := 0, tail := 0 }

/-- The rings of all queues. -/
def State.freeRings (s : State) (m : List MapRange) : Nat → List CmdQueue × State
  | 0 => ([], s)
  | i + 1 =>
    let (j, s) := s.freeN
    let (k, s) := s.freeN
    let (n, s) := s.freeN
    let (l, s) := s.freeRings m i
    (freeRing m j k n :: l, s)

/-- A register of the doorbell page (R419): at 64 q + 4 the head index of queue `q`. -/
def State.doorbellRead (s : State) (off : Nat) : Option Word :=
  if off % 64 == 4 then (s.queues[off / 64]?).map (fun q => wd q.head) else none

/-- The fence word, in Rolger's reservation on a stack of CD0 (R300): its place is a free value. -/
def fenceAt (m : List MapRange) (k : Nat) : Nat :=
  match m.find? (fun r => r.rolger && (r.target == .hbm 0 || r.target == .hbm 1)) with
  | some r => r.base + 4 * (k % (r.size / 4))
  | none => 0

/-- The image at its LOAD address, where that is memory of the package; the helm cores start at ENTRY (R423). -/
def State.loadImage (s : State) (im : List Byte) : State :=
  let n := fieldN im 8 8
  let a := fieldN im 16 8
  let s := { s with
    helmEntry := fieldN im 24 8, helms := s.helms.map (fun (h : Helm) => { h with pc := BitVec.ofNat 64 (fieldN im 24 8) }) }
  if s.covered a n 65 then s.physWrite a ((im.drop 256).take n) else s

/-- BOOT (R423): `images` are what the fetches brought, in order, an empty one where a fetch failed; the first that
passes is loaded and started, and after 16 failures the ROM stays in recovery. Whether the host port trained,
the rings and the fence word are free values (log entry 23). -/
def execBoot (map : List MapRange) (images : List (List Byte)) (s : State) : Out :=
  let (h, t) := s.freeN
  let (f, t) := t.freeN
  let (qs, t) := t.freeRings map 16
  let t := { t with
    map := map, fencePa := fenceAt map f, headless := h % 2 == 1, queues := qs,
    links := t.links.map (fun (l : Link) => { l with failures := 0 }) }
  let found := (images.take 16).find? imageOk
  stepIf "BOOT" (s.boot == .off && mapOk map && (found.isSome || 16 ≤ images.length))
    (match found with
     | some im => { t.loadImage im with
        boot := .running, imageVersion := BitVec.ofNat 32 (fieldN im 4 4),
        imageDigest := Config.sha256 ((im.drop 256).take (fieldN im 8 8)) }
     | none => ({ t with boot := .recovery } : State).report (.bootFailed 16))

/-! ## Timers of the package -/

/-- Free numbers below a bound. -/
def State.freeList (s : State) (m : Nat) : Nat → List Nat × State
  | 0 => ([], s)
  | n + 1 =>
    let (k, s) := s.freeN
    let (l, s) := s.freeList m n
    (k % m :: l, s)

/-- POWER_ARBITER_TICK (R432): what the package drew and how far each island is throttled are free values. -/
def execPowerArbiterTick (s : State) : Out :=
  let (w, t) := s.freeN
  let (ks, t) := t.freeList 33 16
  stepIf "POWER_ARBITER_TICK" (s.boot != .off && s.power.tick + 10000 ≤ s.wall.toNat)
    { t with power := { t.power with watts := w % 2 ^ 32, steps := ks, tick := s.wall.toNat } }

/-- SOUNDING_REPLAN (R433): measured delays, and margins that hold the clock at them, are free values. -/
def execSoundingReplan (s : State) : Out :=
  let (ds, t) := s.freeList 65536 16
  let (ms, t) := t.freeList 65536 16
  stepIf "SOUNDING_REPLAN" (s.boot != .off && s.power.sound + 1000000000 ≤ s.wall.toNat)
    { t with power := { t.power with delay := ds, margin := ms, sound := s.wall.toNat } }

/-- The estimate of a page (R430). -/
def Hot.estimate (h : Hot) (c p : Nat) : Nat :=
  (minBy (fun n => n) (((hotIndices p).zipIdx).map (fun x => h.count c x.2 x.1))).getD 0

/-- The pages of a controller's ranges. -/
def State.ctrlPages (s : State) (c : Nat) : List Nat :=
  (s.map.filter (fun r => targetCtrl r.target == some c)).flatMap (fun r =>
    range' (r.base / 65536) (r.size / 65536))

/-- Puts a page into a list of at most `n` pages, highest estimate first. -/
def putHot (x : Nat × Nat) : List (Nat × Nat) → Nat → List (Nat × Nat)
  | _, 0 => []
  | [], _ => [x]
  | y :: ys, n + 1 => if y.2 < x.2 then x :: (y :: ys).take n else y :: putHot x ys n

/-- The hottest pages of a controller (R430); a page of estimate 0 is not listed. -/
def State.hottest (s : State) (c : Nat) : List (Nat × Nat) :=
  (s.ctrlPages c).foldl (fun l p =>
    let e := s.hot.estimate c p
    if e == 0 then l else putHot (p, e) l 128) []

/-- HOTNESS_INTERVAL_END (R430). -/
def execHotnessIntervalEnd (ctrl : Nat) (s : State) : Out :=
  stepIf "HOTNESS_INTERVAL_END"
    (ctrl < 24 && s.boot != .off && s.hot.since.getD ctrl 0 + 1000 * s.hot.interval ≤ s.wall.toNat)
    { s with
      hot :=
        { interval := s.hot.interval,
          lists := (ctrl, s.hottest ctrl) :: s.hot.lists.filter (fun x => x.1 != ctrl),
          sketch := s.hot.sketch.filter (fun x => x.1 != ctrl),
          since := s.hot.since.set ctrl s.wall.toNat } }

/-! ## The helm cores -/

/-- The log entry that a helm core takes next in replay, with its number (R428). -/
def State.helmLogged (s : State) (h from' : Nat) : Option (Nat × Nat × HelmEvent) :=
  let (w, _) := s.physRead s.reckon.addr 8
  ((range' from' (natOfBytes w - from')).filterMap (fun k =>
    let e := s.logAt k
    if e.2.1 < 4 && e.2.2.1 == h then
      some (k, e.1, { kind := e.2.1, data := e.2.2.2.1, aux := e.2.2.2.2 }) else none)).head?

/-- Free words, `n` of them. -/
def State.freeWords (s : State) (w : Nat) : Nat → List (BitVec w) × State
  | 0 => ([], s)
  | n + 1 =>
    let (k, s) := s.freeN
    let (l, s) := s.freeWords w n
    (BitVec.ofNat w k :: l, s)

/-- A helm core has run the helm OS's program on: its program counter and its registers are free values, x0 apart, which
reads 0 (PRESUMED from RISC-V, log entry 75). -/
def State.helmRun (s : State) (h : Nat) : State :=
  let (pc, s) := s.freeN
  let (x, s) := s.freeWords 64 31
  let (f, s) := s.freeWords 64 32
  let (v, s) := s.freeWords 128 32
  { s with helms := modAt s.helms h (fun c => { c with
      pc := BitVec.ofNat 64 pc, x := 0 :: x, f := f, v := v.map (fun w => bytesOfNat 16 w.toNat) }) }

/-- A helm core runs on, and may meet an event (R428): in record mode the event is logged with its `minstret`, in replay
it comes from the log at the same `minstret`, and what arrives is absorbed (R429). Which core, how far, and what comes are
free values (log entry 75). -/
def State.helmEvent (s : State) : State :=
  let (h, s) := s.freeN
  let s := s.helmRun (h % 16)
  let (n, s) := s.freeN
  let (k, s) := s.freeN
  let (d, s) := s.freeN
  let (a, s) := s.freeN
  let h := h % 16
  match s.helms[h]? with
  | none => s
  | some c =>
    let set := fun (s : State) (c : Helm) => ({ s with helms := s.helms.set h c } : State)
    if s.reckon.mode == 2 then
      match s.helmLogged h c.next with
      | some (i, t, e) => set s { c with minstret := BitVec.ofNat 64 t, event := some e, next := i + 1 }
      | none => set s { c with minstret := c.minstret + BitVec.ofNat 64 n }
    else
      let m := c.minstret + BitVec.ofNat 64 n
      if 4 ≤ k % 5 then set s { c with minstret := m }
      else
        let e : HelmEvent := { kind := k % 5, data := d % 2 ^ 64, aux := if k % 5 < 2 then a % 2 ^ 64 else 0 }
        (set s { c with minstret := m, event := some e }).logEntry m.toNat e.kind h e.data e.aux

/-- The helm OS marks a launch as waiting on storage or network, or no longer (R427): a free choice (log entry 51). -/
def State.helmMark (s : State) : State :=
  let (k, s) := s.freeN
  let (w, s) := s.freeN
  match s.regions[k % s.regions.length]? with
  | none => s
  | some q => s.modRegion q.rcb (fun q => { q with ioWait := w % 2 == 1 })

/-- The helm cores go on, now and then (log entry 75). -/
def helmStep (s : State) : Out :=
  stepIf "HELM" (s.boot == .running && s.steps % 64 == 63) s.helmEvent.helmMark

/-! ## Commands that complete later -/

/-- A command under way goes on, and completes where its condition holds (R436). -/
def State.settleOne (s : State) (e : CmdEntry) : State :=
  match cmdCode e with
  | 2 => match s.region? (cmdRcb e) with
    | some q =>
      if q.notStopped e then (if q.st == 4 then s else s.complete e 0 1)
      else if s.preempted e then s.completeRcb e else s
    | none => s.refuseFree e 3
  | 4 => match s.region? (cmdRcb e) with
    | some q => if q.st == 4 then s else s.complete e 0 1
    | none => s.refuseFree e 3
  | 3 => match s.region? (cmdRcb e) with
    | some q =>
      if q.st != 3 then s.complete e 0 1
      else if s.preemptPending q.rcb then s
      else (s.resumeNow q).completeRcb e
    | none => s.refuseFree e 3
  | 5 => if s.mapWaits e then s else s.mapNow e
  | 6 => if s.mapWaits e then s else s.unmapNow e
  | 7 => match s.migrations.find? (fun m => m.cmd == e) with
    | some m => s.migrateStep m
    | none => if s.migrateWaits e then s else s.migrateNow e
  | _ => match (s.die (CmdField e 16 1)).st with
    | .running => s.complete e 0 0
    | .lost => s.refuseFree e 5
    | .inReset => s

/-- A command under way is ended by `DIE_LOST` (R420); a page that it was moving stays without a mapping. -/
def State.endCmd (s : State) (e : CmdEntry) : State :=
  let s := s.refuseFree e 5
  match s.migrations.find? (fun m => m.cmd == e) with
  | some m => (s.framesNow (some m.leaf.frame) none).migrated m
  | none => s

/-- A change that is made where it reaches all that it needs, and else waits (R289). -/
def State.tried (s t : State) : State := if t.away.isSome then s else t

/-- What becomes of a command under way: ended by the loss of a die, or gone on with (R420, R436). -/
def State.settleNext (s : State) (e : CmdEntry) : State :=
  if s.lostCmds.contains e then ({ s with lostCmds := dropFirst (· == e) s.lostCmds } : State).endCmd e
  else
    let t := s.settleOne e
    if (s.lostIn t).isSome then s.endCmd e else t

/-- A command under way, which waits for a home in reset or a link (R287, R289). -/
def State.settleCmd (s : State) (e : CmdEntry) : State := s.tried (s.settleNext e)

/-- Every command under way, in order. -/
def State.settleCmds (s : State) : State := s.pending.foldl State.settleCmd s

end Sys2Proof.Machine
end

