-- ==== Sys2Proof/Machine/Dispatch.lean ====
section
/-! DEFINITION. What each instruction and each step of the device does: one arm per constructor of `Instr`,
one direct call of its meaning. -/

namespace Sys2Proof.Machine

open Sys2Proof

def exec (i : Instr) (s : State) : Host.Outcome State Fault Refusal :=
  match i with
  | .iadd32 x => Sys2Proof.Machine.execIadd32 x s
  | .iadd64 x => Sys2Proof.Machine.execIadd64 x s
  | .isub32 x => Sys2Proof.Machine.execIsub32 x s
  | .isub64 x => Sys2Proof.Machine.execIsub64 x s
  | .iaddc32 x => Sys2Proof.Machine.execIaddc32 x s
  | .isubb32 x => Sys2Proof.Machine.execIsubb32 x s
  | .imul32 x => Sys2Proof.Machine.execImul32 x s
  | .imul64 x => Sys2Proof.Machine.execImul64 x s
  | .imulhS32 x => Sys2Proof.Machine.execImulhS32 x s
  | .imulhN32 x => Sys2Proof.Machine.execImulhN32 x s
  | .imad32 x => Sys2Proof.Machine.execImad32 x s
  | .imad64 x => Sys2Proof.Machine.execImad64 x s
  | .iminS32 x => Sys2Proof.Machine.execIminS32 x s
  | .iminN32 x => Sys2Proof.Machine.execIminN32 x s
  | .imaxS32 x => Sys2Proof.Machine.execImaxS32 x s
  | .imaxN32 x => Sys2Proof.Machine.execImaxN32 x s
  | .iabs x => Sys2Proof.Machine.execIabs x s
  | .ineg x => Sys2Proof.Machine.execIneg x s
  | .andW x => Sys2Proof.Machine.execAnd x s
  | .orW x => Sys2Proof.Machine.execOr x s
  | .xorW x => Sys2Proof.Machine.execXor x s
  | .andn x => Sys2Proof.Machine.execAndn x s
  | .orn x => Sys2Proof.Machine.execOrn x s
  | .notW x => Sys2Proof.Machine.execNot x s
  | .shl32 x => Sys2Proof.Machine.execShl32 x s
  | .shr32 x => Sys2Proof.Machine.execShr32 x s
  | .sar32 x => Sys2Proof.Machine.execSar32 x s
  | .rol32 x => Sys2Proof.Machine.execRol32 x s
  | .shl64 x => Sys2Proof.Machine.execShl64 x s
  | .shr64 x => Sys2Proof.Machine.execShr64 x s
  | .sar64 x => Sys2Proof.Machine.execSar64 x s
  | .fsh x => Sys2Proof.Machine.execFsh x s
  | .popc x => Sys2Proof.Machine.execPopc x s
  | .clz x => Sys2Proof.Machine.execClz x s
  | .ctz x => Sys2Proof.Machine.execCtz x s
  | .brev x => Sys2Proof.Machine.execBrev x s
  | .bfxS x => Sys2Proof.Machine.execBfxS x s
  | .bfxN x => Sys2Proof.Machine.execBfxN x s
  | .bfi x => Sys2Proof.Machine.execBfi x s
  | .bperm x => Sys2Proof.Machine.execBperm x s
  | .sel x => Sys2Proof.Machine.execSel x s
  | .icmp32 x => Sys2Proof.Machine.execIcmp32 x s
  | .icmp64 x => Sys2Proof.Machine.execIcmp64 x s
  | .kop x => Sys2Proof.Machine.execKop x s
  | .kmovKv x => Sys2Proof.Machine.execKmovKv x s
  | .kmovVk x => Sys2Proof.Machine.execKmovVk x s
  | .mov x => Sys2Proof.Machine.execMov x s
  | .mov64 x => Sys2Proof.Machine.execMov64 x s
  | .iaddi32 x => Sys2Proof.Machine.execIaddi32 x s
  | .iaddi64 x => Sys2Proof.Machine.execIaddi64 x s
  | .andi x => Sys2Proof.Machine.execAndi x s
  | .ori x => Sys2Proof.Machine.execOri x s
  | .xori x => Sys2Proof.Machine.execXori x s
  | .shli x => Sys2Proof.Machine.execShli x s
  | .shri x => Sys2Proof.Machine.execShri x s
  | .sari x => Sys2Proof.Machine.execSari x s
  | .icmpi32 x => Sys2Proof.Machine.execIcmpi32 x s
  | .imuli32 x => Sys2Proof.Machine.execImuli32 x s
  | .lea2 x => Sys2Proof.Machine.execLea2 x s
  | .lea4 x => Sys2Proof.Machine.execLea4 x s
  | .lea8 x => Sys2Proof.Machine.execLea8 x s
  | .lea16 x => Sys2Proof.Machine.execLea16 x s
  | .movi x => Sys2Proof.Machine.execMovi x s
  | .movhi x => Sys2Proof.Machine.execMovhi x s
  | .faddF64 x => Sys2Proof.Machine.execFaddF64 x s
  | .faddF32 x => Sys2Proof.Machine.execFaddF32 x s
  | .faddH2 x => Sys2Proof.Machine.execFaddH2 x s
  | .faddBh2 x => Sys2Proof.Machine.execFaddBh2 x s
  | .fsubF64 x => Sys2Proof.Machine.execFsubF64 x s
  | .fsubF32 x => Sys2Proof.Machine.execFsubF32 x s
  | .fsubH2 x => Sys2Proof.Machine.execFsubH2 x s
  | .fsubBh2 x => Sys2Proof.Machine.execFsubBh2 x s
  | .fmulF64 x => Sys2Proof.Machine.execFmulF64 x s
  | .fmulF32 x => Sys2Proof.Machine.execFmulF32 x s
  | .fmulH2 x => Sys2Proof.Machine.execFmulH2 x s
  | .fmulBh2 x => Sys2Proof.Machine.execFmulBh2 x s
  | .ffmaF64 x => Sys2Proof.Machine.execFfmaF64 x s
  | .ffmaF32 x => Sys2Proof.Machine.execFfmaF32 x s
  | .ffmaH2 x => Sys2Proof.Machine.execFfmaH2 x s
  | .ffmaBh2 x => Sys2Proof.Machine.execFfmaBh2 x s
  | .fminF64 x => Sys2Proof.Machine.execFminF64 x s
  | .fminF32 x => Sys2Proof.Machine.execFminF32 x s
  | .fminH2 x => Sys2Proof.Machine.execFminH2 x s
  | .fminBh2 x => Sys2Proof.Machine.execFminBh2 x s
  | .fmaxF64 x => Sys2Proof.Machine.execFmaxF64 x s
  | .fmaxF32 x => Sys2Proof.Machine.execFmaxF32 x s
  | .fmaxH2 x => Sys2Proof.Machine.execFmaxH2 x s
  | .fmaxBh2 x => Sys2Proof.Machine.execFmaxBh2 x s
  | .fminnF64 x => Sys2Proof.Machine.execFminnF64 x s
  | .fminnF32 x => Sys2Proof.Machine.execFminnF32 x s
  | .fminnH2 x => Sys2Proof.Machine.execFminnH2 x s
  | .fminnBh2 x => Sys2Proof.Machine.execFminnBh2 x s
  | .fmaxnF64 x => Sys2Proof.Machine.execFmaxnF64 x s
  | .fmaxnF32 x => Sys2Proof.Machine.execFmaxnF32 x s
  | .fmaxnH2 x => Sys2Proof.Machine.execFmaxnH2 x s
  | .fmaxnBh2 x => Sys2Proof.Machine.execFmaxnBh2 x s
  | .fcmpF64 x => Sys2Proof.Machine.execFcmpF64 x s
  | .fcmpF32 x => Sys2Proof.Machine.execFcmpF32 x s
  | .fcmpH2 x => Sys2Proof.Machine.execFcmpH2 x s
  | .fcmpBh2 x => Sys2Proof.Machine.execFcmpBh2 x s
  | .fabs x => Sys2Proof.Machine.execFabs x s
  | .fneg x => Sys2Proof.Machine.execFneg x s
  | .fcpysF32 x => Sys2Proof.Machine.execFcpysF32 x s
  | .fcpysF64 x => Sys2Proof.Machine.execFcpysF64 x s
  | .fclass x => Sys2Proof.Machine.execFclass x s
  | .frnd x => Sys2Proof.Machine.execFrnd x s
  | .fdivF32 x => Sys2Proof.Machine.execFdivF32 x s
  | .fdivF64 x => Sys2Proof.Machine.execFdivF64 x s
  | .fsqrtF32 x => Sys2Proof.Machine.execFsqrtF32 x s
  | .fsqrtF64 x => Sys2Proof.Machine.execFsqrtF64 x s
  | .frcpF32 x => Sys2Proof.Machine.execFrcpF32 x s
  | .frsqF32 x => Sys2Proof.Machine.execFrsqF32 x s
  | .fex2F32 x => Sys2Proof.Machine.execFex2F32 x s
  | .flg2F32 x => Sys2Proof.Machine.execFlg2F32 x s
  | .fsinF32 x => Sys2Proof.Machine.execFsinF32 x s
  | .fcosF32 x => Sys2Proof.Machine.execFcosF32 x s
  | .fldxF32 x => Sys2Proof.Machine.execFldxF32 x s
  | .fldxF64 x => Sys2Proof.Machine.execFldxF64 x s
  | .ffrxF32Frac x => Sys2Proof.Machine.execFfrxF32Frac x s
  | .ffrxF32Exp x => Sys2Proof.Machine.execFfrxF32Exp x s
  | .ffrxF64Frac x => Sys2Proof.Machine.execFfrxF64Frac x s
  | .ffrxF64Exp x => Sys2Proof.Machine.execFfrxF64Exp x s
  | .cvtff x => Sys2Proof.Machine.execCvtff x s
  | .cvtfi x => Sys2Proof.Machine.execCvtfi x s
  | .cvtif x => Sys2Proof.Machine.execCvtif x s
  | .pk8 x => Sys2Proof.Machine.execPk8 x s
  | .unpk8 x => Sys2Proof.Machine.execUnpk8 x s
  | .pkbs x => Sys2Proof.Machine.execPkbs x s
  | .fdot2H2 x => Sys2Proof.Machine.execFdot2H2 x s
  | .fdot2Bh2 x => Sys2Proof.Machine.execFdot2Bh2 x s
  | .shflIdx x => Sys2Proof.Machine.execShflIdx x s
  | .shflUp x => Sys2Proof.Machine.execShflUp x s
  | .shflDown x => Sys2Proof.Machine.execShflDown x s
  | .shflXor x => Sys2Proof.Machine.execShflXor x s
  | .voteAll x => Sys2Proof.Machine.execVoteAll x s
  | .voteAny x => Sys2Proof.Machine.execVoteAny x s
  | .voteEq x => Sys2Proof.Machine.execVoteEq x s
  | .voteBallot x => Sys2Proof.Machine.execVoteBallot x s
  | .redux x => Sys2Proof.Machine.execRedux x s
  | .matchSet x => Sys2Proof.Machine.execMatch x s
  | .matchLead x => Sys2Proof.Machine.execMatchLead x s
  | .laneb x => Sys2Proof.Machine.execLaneb x s
  | .bra x => Sys2Proof.Machine.execBra x s
  | .brau x => Sys2Proof.Machine.execBrau x s
  | .brx x => Sys2Proof.Machine.execBrx x s
  | .call x => Sys2Proof.Machine.execCall x s
  | .callx x => Sys2Proof.Machine.execCallx x s
  | .ret x => Sys2Proof.Machine.execRet x s
  | .bdec x => Sys2Proof.Machine.execBdec x s
  | .yield x => Sys2Proof.Machine.execYield x s
  | .exit x => Sys2Proof.Machine.execExit x s
  | .nop x => Sys2Proof.Machine.execNop x s
  | .trap x => Sys2Proof.Machine.execTrap x s
  | .brk x => Sys2Proof.Machine.execBrk x s
  | .ld8s x => Sys2Proof.Machine.execLd8s x s
  | .ld8n x => Sys2Proof.Machine.execLd8n x s
  | .ld16s x => Sys2Proof.Machine.execLd16s x s
  | .ld16n x => Sys2Proof.Machine.execLd16n x s
  | .ld32 x => Sys2Proof.Machine.execLd32 x s
  | .ld64 x => Sys2Proof.Machine.execLd64 x s
  | .ld128 x => Sys2Proof.Machine.execLd128 x s
  | .st8 x => Sys2Proof.Machine.execSt8 x s
  | .st16 x => Sys2Proof.Machine.execSt16 x s
  | .st32 x => Sys2Proof.Machine.execSt32 x s
  | .st64 x => Sys2Proof.Machine.execSt64 x s
  | .st128 x => Sys2Proof.Machine.execSt128 x s
  | .pf x => Sys2Proof.Machine.execPf x s
  | .rwb x => Sys2Proof.Machine.execRwb x s
  | .rinv x => Sys2Proof.Machine.execRinv x s
  | .amoAdd32 x => Sys2Proof.Machine.execAmoAdd32 x s
  | .amoAdd64 x => Sys2Proof.Machine.execAmoAdd64 x s
  | .amoFaddF32 x => Sys2Proof.Machine.execAmoFaddF32 x s
  | .amoFaddBh2 x => Sys2Proof.Machine.execAmoFaddBh2 x s
  | .amoMinS32 x => Sys2Proof.Machine.execAmoMinS32 x s
  | .amoMinN32 x => Sys2Proof.Machine.execAmoMinN32 x s
  | .amoMaxS32 x => Sys2Proof.Machine.execAmoMaxS32 x s
  | .amoMaxN32 x => Sys2Proof.Machine.execAmoMaxN32 x s
  | .amoAnd32 x => Sys2Proof.Machine.execAmoAnd32 x s
  | .amoOr32 x => Sys2Proof.Machine.execAmoOr32 x s
  | .amoXor32 x => Sys2Proof.Machine.execAmoXor32 x s
  | .amoXchg32 x => Sys2Proof.Machine.execAmoXchg32 x s
  | .amoXchg64 x => Sys2Proof.Machine.execAmoXchg64 x s
  | .amoCas32 x => Sys2Proof.Machine.execAmoCas32 x s
  | .amoCas64 x => Sys2Proof.Machine.execAmoCas64 x s
  | .amoIncN32 x => Sys2Proof.Machine.execAmoIncN32 x s
  | .fenceAcq x => Sys2Proof.Machine.execFenceAcq x s
  | .fenceRel x => Sys2Proof.Machine.execFenceRel x s
  | .fenceAr x => Sys2Proof.Machine.execFenceAr x s
  | .fenceSc x => Sys2Proof.Machine.execFenceSc x s
  | .bar x => Sys2Proof.Machine.execBar x s
  | .bara x => Sys2Proof.Machine.execBara x s
  | .barw x => Sys2Proof.Machine.execBarw x s
  | .mbini x => Sys2Proof.Machine.execMbini x s
  | .mbarv x => Sys2Proof.Machine.execMbarv x s
  | .mbwait x => Sys2Proof.Machine.execMbwait x s
  | .mbtst x => Sys2Proof.Machine.execMbtst x s
  | .dyield x => Sys2Proof.Machine.execDyield x s
  | .regreq x => Sys2Proof.Machine.execRegreq x s
  | .regrel x => Sys2Proof.Machine.execRegrel x s
  | .feq x => Sys2Proof.Machine.execFeq x s
  | .hbind x => Sys2Proof.Machine.execHbind x s
  | .hqry x => Sys2Proof.Machine.execHqry x s
  | .smap x => Sys2Proof.Machine.execSmap x s
  | .sunmap x => Sys2Proof.Machine.execSunmap x s
  | .cpy x => Sys2Proof.Machine.execCpy x s
  | .cpq x => Sys2Proof.Machine.execCpq x s
  | .tld x => Sys2Proof.Machine.execTld x s
  | .tst x => Sys2Proof.Machine.execTst x s
  | .tzero x => Sys2Proof.Machine.execTzero x s
  | .tmovFromTile x => Sys2Proof.Machine.execTmovFromTile x s
  | .tmovToTile x => Sys2Proof.Machine.execTmovToTile x s
  | .mma x => Sys2Proof.Machine.execMma x s
  | .mlut x => Sys2Proof.Machine.execMlut x s
  | .mgath x => Sys2Proof.Machine.execMgath x s
  | .mfence x => Sys2Proof.Machine.execMfence x s
  | .mwait x => Sys2Proof.Machine.execMwait x s
  | .rowcpy x => Sys2Proof.Machine.execRowcpy x s
  | .rowfill x => Sys2Proof.Machine.execRowfill x s
  | .rowop x => Sys2Proof.Machine.execRowop x s
  | .gang x => Sys2Proof.Machine.execGang x s
  | .regn x => Sys2Proof.Machine.execRegn x s
  | .srr x => Sys2Proof.Machine.execSrr x s
  | .srw x => Sys2Proof.Machine.execSrw x s
  | .tret x => Sys2Proof.Machine.execTret x s
  | .tretKill x => Sys2Proof.Machine.execTretKill x s
  | .gcall x => Sys2Proof.Machine.execGcall x s
  | .gcallStoreGrant r => Sys2Proof.Machine.execGcallStoreGrant r s
  | .gret x => Sys2Proof.Machine.execGret x s
  | .gqry x => Sys2Proof.Machine.execGqry x s
  | .fork x => Sys2Proof.Machine.execFork x s
  | .join x => Sys2Proof.Machine.execJoin x s
  | .tlbiVa x => Sys2Proof.Machine.execTlbiVa x s
  | .tlbiAsid x => Sys2Proof.Machine.execTlbiAsid x s
  | .tlbiAll x => Sys2Proof.Machine.execTlbiAll x s
  | .cmaintClean x => Sys2Proof.Machine.execCmaintClean x s
  | .cmaintFlush x => Sys2Proof.Machine.execCmaintFlush x s
  | .cmaintSweep x => Sys2Proof.Machine.execCmaintSweep x s
  | .dresume x => Sys2Proof.Machine.execDresume x s
  | .dresumeStep x => Sys2Proof.Machine.execDresumeStep x s
  | .loadDataReturn g id => Sys2Proof.Machine.execLoadDataReturn g id s
  | .remotePendingTimeout r => Sys2Proof.Machine.execRemotePendingTimeout r s
  | .barPhaseResume blk name => Sys2Proof.Machine.execBarPhaseResume blk name s
  | .mbwaitWake r => Sys2Proof.Machine.execMbwaitWake r s
  | .dyieldWake r => Sys2Proof.Machine.execDyieldWake r s
  | .dyieldLimitExpiry r => Sys2Proof.Machine.execDyieldLimitExpiry r s
  | .regreqGrant r => Sys2Proof.Machine.execRegreqGrant r s
  | .regreqDeadlockEvict c => Sys2Proof.Machine.execRegreqDeadlockEvict c s
  | .faultReplay token => Sys2Proof.Machine.execFaultReplay token s
  | .faultDeliver token => Sys2Proof.Machine.execFaultDeliver token s
  | .breakpointHalt r => Sys2Proof.Machine.execBreakpointHalt r s
  | .matrixBatchComplete g => Sys2Proof.Machine.execMatrixBatchComplete g s
  | .gangRelease blk gang => Sys2Proof.Machine.execGangRelease blk gang s
  | .matrixEngineReset c => Sys2Proof.Machine.execMatrixEngineReset c s
  | .tileEccError blk tile => Sys2Proof.Machine.execTileEccError blk tile s
  | .drainLimitExpiry blk => Sys2Proof.Machine.execDrainLimitExpiry blk s
  | .copyRunLanded id bytes => Sys2Proof.Machine.execCopyRunLanded id bytes s
  | .cpqSlotFree r => Sys2Proof.Machine.execCpqSlotFree r s
  | .cpqEntryRun die queue => Sys2Proof.Machine.execCpqEntryRun die queue s
  | .cpqFlagAtomic die queue => Sys2Proof.Machine.execCpqFlagAtomic die queue s
  | .rowWritten id => Sys2Proof.Machine.execRowWritten id s
  | .eccRecomputeDone rowGroup => Sys2Proof.Machine.execEccRecomputeDone rowGroup s
  | .gets c line => Sys2Proof.Machine.execGets c line s
  | .getm c line => Sys2Proof.Machine.execGetm c line s
  | .upg c line => Sys2Proof.Machine.execUpg c line s
  | .putm c line => Sys2Proof.Machine.execPutm c line s
  | .pute c line => Sys2Proof.Machine.execPute c line s
  | .l2Eviction die line => Sys2Proof.Machine.execL2Eviction die line s
  | .earlyDifference die line => Sys2Proof.Machine.execEarlyDifference die line s
  | .deviceReleaseRun die => Sys2Proof.Machine.execDeviceReleaseRun die s
  | .diffRecordMerge src home => Sys2Proof.Machine.execDiffRecordMerge src home s
  | .mergeAck src => Sys2Proof.Machine.execMergeAck src s
  | .coherenceSweep => Sys2Proof.Machine.execCoherenceSweep s
  | .linkSleep link => Sys2Proof.Machine.execLinkSleep link s
  | .linkWake link => Sys2Proof.Machine.execLinkWake link s
  | .linkTrainingFailure link die => Sys2Proof.Machine.execLinkTrainingFailure link die s
  | .dieLostTimeout die => Sys2Proof.Machine.execDieLostTimeout die s
  | .dieRejoin die => Sys2Proof.Machine.execDieRejoin die s
  | .blockDispatch die cluster cores => Sys2Proof.Machine.execBlockDispatch die cluster cores s
  | .blockSave blk => Sys2Proof.Machine.execBlockSave blk s
  | .blockRestore blk cluster cores => Sys2Proof.Machine.execBlockRestore blk cluster cores s
  | .joinWake blk => Sys2Proof.Machine.execJoinWake blk s
  | .regionComplete rcb => Sys2Proof.Machine.execRegionComplete rcb s
  | .preemptDeadline g => Sys2Proof.Machine.execPreemptDeadline g s
  | .handlerDeadlineKill g => Sys2Proof.Machine.execHandlerDeadlineKill g s
  | .doorbellWrite queue tail => Sys2Proof.Machine.execDoorbellWrite queue tail s
  | .launch e => Sys2Proof.Machine.execLaunch e s
  | .preempt e => Sys2Proof.Machine.execPreempt e s
  | .resume e => Sys2Proof.Machine.execResume e s
  | .kill e => Sys2Proof.Machine.execKill e s
  | .map e => Sys2Proof.Machine.execMap e s
  | .unmap e => Sys2Proof.Machine.execUnmap e s
  | .migrate e => Sys2Proof.Machine.execMigrate e s
  | .dieReset e => Sys2Proof.Machine.execDieReset e s
  | .linkPower e => Sys2Proof.Machine.execLinkPower e s
  | .attest e => Sys2Proof.Machine.execAttest e s
  | .traceCfg e => Sys2Proof.Machine.execTraceCfg e s
  | .replayCfg e => Sys2Proof.Machine.execReplayCfg e s
  | .powerCap e => Sys2Proof.Machine.execPowerCap e s
  | .query e => Sys2Proof.Machine.execQuery e s
  | .queryWrite e => Sys2Proof.Machine.execQueryWrite e s
  | .boot map images => Sys2Proof.Machine.execBoot map images s
  | .powerArbiterTick => Sys2Proof.Machine.execPowerArbiterTick s
  | .soundingReplan => Sys2Proof.Machine.execSoundingReplan s
  | .hotnessIntervalEnd ctrl => Sys2Proof.Machine.execHotnessIntervalEnd ctrl s
  | .unassignedOpcode w => Sys2Proof.Machine.execUnassignedOpcode w s
  | .fetchFault cause detail va => Sys2Proof.Machine.execFetchFault cause detail va s
  | .tldRunLanded id bytes => Sys2Proof.Machine.execTldRunLanded id bytes s
  | .homeSliceAccess q => Sys2Proof.Machine.execHomeSliceAccess q s
  | .storeAcknowledged g id => Sys2Proof.Machine.execStoreAcknowledged g id s
  | .linkError link => Sys2Proof.Machine.execLinkError link s

end Sys2Proof.Machine
end

