-- ==== Sys2Proof/Machine/Run.lean ====
section
/-! DEFINITION. How the package runs: fetching a unit (09 R180, 04 R72, R83), the choice of what happens next (18
R350, log entry 4), asynchronous causes and restarts (20 R365, R369; 17 R324), and time (06 R4, 22 R427). -/

namespace Sys2Proof.Machine

open Sys2Proof

/-! ## Fetch and issue of a unit -/

/-- What a fetch uses: a plain memory page. -/
def fetchAttr : Attr :=
  { space := 0, policy := 0, r := true, w := false, a := false, row := false, dev := 0, die := 0 }

/-- What the fetch of a word answers: a word, a fault with its address, or a wait. -/
inductive Fetched where
  | word (w : Word)
  | fault (t : TrapInfo) (va : Nat)
  | wait

/-- A fetch where it reaches what it needs (R180, R228): the value that a weak load of the core would return; a read of
DRAM is counted (R430). -/
def State.fetchReached (s : State) (r : SRef) (pc : Pc) : Fetched × State :=
  match s.blocks[r.blk]?, s.group? r.gref with
  | some b, some g =>
    let va := pc.toNat
    match s.translate b.core g.ctx.asid va .fetch g.handler with
    | (.error t, s) => (.fault t va, s)
    | (.ok (pa, l), s) => match s.checkPa pa l.cc 4 fetchAttr .fetch va with
      | .error f => (.fault f.1 va, s)
      | .ok q =>
        if s.eccBad.contains (pa / 128) then (.fault { cause := cEcc, acc := 3 } va, s)
        else if s.locWaits g q 4 then (.wait, s)
        else
          let (bs, _, t) := s.memRead b.core pa 4 l.cc fetchAttr AOrd.weak 5
          (.word (wd (natOfBytes bs)), { s with badPa := t.badPa, away := t.away, hot := t.hot })
  | _, _ => (.wait, s)

/-- Fetches the word at an address (R180, R228): it waits for a home in reset or a link, and faults for a lost home
(R287 to R289). -/
def State.fetchWord (s : State) (r : SRef) (pc : Pc) : Fetched × State :=
  let (f, t) := s.fetchReached r pc
  match t.away with
  | none => (f, t)
  | some (.home d) =>
    if (s.die d).st == .lost then (.fault { cause := cDieLost, detail := d, acc := 3 } pc.toNat, s) else (.wait, s)
  | some a => (.wait, s.rouse a)

/-- Whether a word is a hint word (R72). -/
def isHint (w : Word) : Bool := 0xF0 ≤ opcodeOf w && opcodeOf w ≤ 0xF4

/-- The words of the unit at an address, at most `n` of them: to the first that is no hint word. A word that follows a
repeated hint kind is fetched too, and its fetch fault comes first: DESIGN CHOICE (log entry 60). -/
def State.fetchUnit (s : State) (r : SRef) (pc : Pc) : Nat → Except (Option (TrapInfo × Nat)) (List Word) × State
  | 0 => (.ok [], s)
  | n + 1 => match s.fetchWord r pc with
    | (.fault t va, s) => (.error (some (t, va)), s)
    | (.wait, s) => (.error none, s)
    | (.word w, s) =>
      if isHint w then match s.fetchUnit r (pc + 4) n with
        | (.ok ws, s) => (.ok (w :: ws), s)
        | (.error e, s) => (.error e, s)
      else (.ok [w], s)

/-- The unit being issued: its lanes are those of a replay, or the split's (R6, R231, R370). -/
def curOf (r : SRef) (p : Split) (words : Nat) (h : Hints) : Cur :=
  { ref := r, unit := p.pc, next := p.pc + BitVec.ofNat 55 (4 * words), hints := h,
    active := match p.replay with | some q => q.mask &&& p.mask | none => p.mask,
    replay := p.replay }

/-- A unit that traps before any instruction is reached (R83). -/
def State.trapUnit (s : State) (t : TrapInfo) : Out :=
  match s.iss? with
  | none => .fault .noIssuingSplit
  | some i => s.finish i (.trap t)

/-- Whether an opcode with kinds is one that R82 keeps from groups outside handler mode: TLBI, CMAINT, TRET,
DRESUME. -/
def privilegedOp (w : Word) (g : Group) : Bool :=
  let op := opcodeOf w
  ((op == 0xE2 || op == 0xE8 || op == 0xE9) && !g.handler) || (op == 0xEA && !(g.handler && g.debug))

/-- Whether an opcode with kinds has them in field b of format R: FFRX and MATCH. -/
def kindInB (w : Word) : Bool := opcodeOf w == 0x76 || opcodeOf w == 0x77 || opcodeOf w == 0x89

/-- The fields of a word whose kind bits select no row: those of a row of its opcode, with the kind field
refused; in field b only bits 5 to 1 are at fault, and bit 0 still names the row (R169). -/
def kindSig (w : Word) : OpSig :=
  let x := if kindInB w then w &&& ~~~0xF80 else if opcodeOf w == 0xC0 then (w &&& ~~~0x3F) ||| 0x20 else w &&& ~~~0x3F
  match decodeWord x with
  | .ok i => if kindInB w then { sigOf i with bR := .okIf false } else { sigOf i with other := false }
  | .error _ => { sgNone with other := false }

/-- A word of an assigned opcode whose kind bits select no row: checks 3 to 5 of R83. -/
def State.badKind (s : State) (w : Word) (h : Hints) : Out :=
  match s.iss? with
  | none => .fault .noIssuingSplit
  | some i =>
    let acc : HAcc := { ft := !kindInB w }
    if privilegedOp w i.g then s.finish i (.trap { cause := cIllegalOp })
    else if !acc.ok h then s.finish i (.trap { cause := cIllegalHint })
    else s.finish i (trapOp cIllegalOperand (((kindSig w).bad i.limits).getD .other))

/-- The unit of some words is issued (R72, R83). -/
def State.issueUnit (s : State) (r : SRef) (p : Split) (ws : List Word) : Out :=
  let at' := fun (n : Nat) (h : Hints) => ({ s with cur := some (curOf r p n h) } : State)
  match unitOfWords ws {} 0 with
  | .error (.unassigned w) => execUnassignedOpcode w (at' 1 {})
  | .error (.reservedHint w) => execUnassignedOpcode w (at' 1 {})
  | .error _ => (at' ws.length {}).trapUnit { cause := cIllegalHint }
  | .ok u => match u.instr with
    | .ok i => exec i (at' u.words u.hints)
    | .error _ => (at' u.words u.hints).badKind u.word u.hints

/-- Whether splits that could fuse do so at the issue of a unit (R38): at every unit but those whose results rest on which
lanes issue together, the lane-crossing instructions and `EXIT`, at which R196 has its four splits issue apart: DEDUCED
(log entry 88). -/
def unitFuses (ws : List Word) : Bool :=
  match ws.getLast? with
  | some w => !(0x80 ≤ opcodeOf w && opcodeOf w < 0x90) && opcodeOf w != 0x99
  | none => false

/-- A ready split halts at a breakpoint, or fetches and issues its next unit (R180, R375), after the splits that fuse
with it have done so (R38) where `fuse` says so. A halt whose record cannot be written waits as a trapping unit does (R287
to R289). -/
def State.issueNext (s : State) (r : SRef) (fuse : Bool := true) : Out :=
  match s.split? r with
  | none => .fault .noIssuingSplit
  | some p =>
    if s.breaks r then match execBreakpointHalt r s with
      | .next t => .next t
      | _ => ({ s with cur := some (curOf r p 1 {}) } : State).trapUnit { cause := cBreak, detail := 64 }
    else match s.fetchUnit r p.pc 3 with
      | (.ok ws, s) =>
        if fuse && unitFuses ws then
          let (r, s) := s.fuseIssue r
          s.issueUnit r ((s.split? r).getD p) ws
        else s.issueUnit r p ws
      | (.error none, s) => .next (s.modSplit r (fun p => { p with st := .operand [] [] }))
      | (.error (some (t, va)), s) =>
        execFetchFault t.cause t.detail (BitVec.ofNat 64 va) { s with cur := some (curOf r p 1 {}) }

/-- Whether a split of an answer waits for operands. -/
def waitsIn (o : Out) (r : SRef) : Bool :=
  match o with
  | .next t => ((t.split? r).map (fun p => p.st.waiting)).getD false
  | _ => false

/-- Whether the next unit of a split would wait for operands. -/
def State.unitWaits (s : State) (r : SRef) : Bool := waitsIn (s.issueNext r false) r

/-! ## The choice of the split -/

/-- The resident groups that have not ended. -/
def State.liveGroups (s : State) : List (GRef × Group) :=
  (s.blocks.zipIdx).flatMap (fun x =>
    if x.1.st == .resident then
      (x.1.groups.zipIdx).filterMap (fun y => if y.1.ended then none else some (⟨x.2, y.2⟩, y.1))
    else [])

/-- Their splits. -/
def splitsOf (gs : List (GRef × Group)) : List (SRef × Group × Split) :=
  gs.flatMap (fun x => x.2.valid.map (fun y => (⟨x.1.blk, x.1.grp, y.1⟩, x.2, y.2)))

/-- Whether one ready split of a core issues before another of it (R190, R350): one that has not issued for 256
cycles, oldest first, then the higher priority, then a group that has not just executed `YIELD`, then the split that
issued least recently. -/
def State.before (s : State) (a b : SRef × Group × Split) : Bool :=
  let old := fun (x : SRef × Group × Split) =>
    decide (x.2.2.lastIssue + 256 ≤ s.cyclesOf (s.coreOf x.1.blk))
  if old a || old b then decide (a.2.2.lastIssue < b.2.2.lastIssue)
  else decide (b.2.1.priority < a.2.1.priority) || (a.2.1.priority == b.2.1.priority &&
    ((!a.2.1.yielded && b.2.1.yielded) ||
      (a.2.1.yielded == b.2.1.yielded && decide (a.2.2.lastIssue < b.2.2.lastIssue))))

/-- The split that issues next: the first of one core; the cores take turns (log entry 4). -/
def State.pick (s : State) : Option SRef :=
  let ready := (splitsOf s.liveGroups).filter (fun x => x.2.2.st == .ready)
  let cs := (ready.map (fun (x : SRef × Group × Split) => s.coreOf x.1.blk)).eraseDups
  let mine := match cs[s.steps % cs.length]? with
    | some c => ready.filter (fun (x : SRef × Group × Split) => s.coreOf x.1.blk == c)
    | none => []
  (mine.foldl (fun (o : Option (SRef × Group × Split)) x => match o with
    | none => some x
    | some y => if s.before x y then some x else o) none).map (fun (x : SRef × Group × Split) => x.1)

/-! ## Restarts and asynchronous causes -/

/-- The tile on which an instruction meets pending work (R320). -/
def tileMet : Instr → Option Nat
  | .tzero x | .mma x | .mlut x | .tld x | .tst x | .tmovToTile x => some x.d.toNat
  | _ => none

/-- Whether a split that waits at issue may wait for work on a tile (R320). -/
def State.tileWait (s : State) (r : SRef) (p : Split) : Bool :=
  match (s.fetchUnit r p.pc 3).1 with
  | .ok ws => match unitOfWords ws {} 0 with
    | .ok u => match u.instr with
      | .ok i => (tileMet i).any (fun t => !(s.tileWork r.blk t).isEmpty)
      | .error _ => false
    | .error _ => false
  | .error _ => false

/-- Whether a split takes a cause that waits for its group (R326, R365): it can issue, it has yielded and so wakes at
once, or, for `ENGINE_RESET`, it waits in `MWAIT`, `MFENCE` or a wait of R320. A unit that is still to be replayed issues
first, and no blocking point ends while the group is being pre-empted. -/
def State.takesCause (s : State) (r : SRef) (g : Group) (p : Split) (cause : Nat) : Bool :=
  match p.st with
  | .ready => p.replay.isNone && !(s.unitWaits r)
  | .operand _ _ => cause == cEngineReset && s.tileWait r p
  | .blocked w _ => !g.preempting && (w == .yielded || (cause == cEngineReset && (match w with
      | .mwait _ | .mfence => true
      | _ => false)))
  | _ => false

/-- A group's restart is due, unless it stands saved for its pre-emption (R324). -/
def Group.restarts (g : Group) : Bool := g.restartDue && !(g.preempting && g.atPoint)

/-- What is due for each group: its restart, or the delivery of a cause to the lowest-numbered entry that takes it (R324,
R365). -/
def State.due (s : State) : List State :=
  s.liveGroups.filterMap (fun x =>
    if x.2.restarts then some (s.restart x.1)
    else x.2.nextAsync.bind (fun c =>
      (x.2.valid.find? (fun y => s.takesCause ⟨x.1.blk, x.1.grp, y.1⟩ x.2 y.2 c.1)).map (fun y =>
        s.takeAsync ⟨x.1.blk, x.1.grp, y.1⟩)))

/-- The restart or delivery of the first group for which one is due and reaches all that it needs. -/
def State.prepare (s : State) : Option State := s.due.find? (fun t => t.away.isNone)

/-! ## The device's own steps -/

/-- The first of some attempts that is enabled. -/
def firstOf (s : State) : List (State → Out) → Option Out
  | [] => none
  | f :: fs => match f s with
    | .fault (.notEnabled _) => firstOf s fs
    | .fault (.asleep _) => firstOf s fs
    | o => some o

/-- The links for which some attempts wait (R287). -/
def heldLinks (s : State) (fs : List (State → Out)) : List Nat :=
  fs.filterMap (fun f => match f s with
    | .fault (.asleep l) => some l
    | _ => none)

/-- The link that a state could not be reached over. -/
def State.awayLink (s : State) : Option Nat :=
  match s.away with
  | some (.link l) => some l
  | _ => none

/-- The command that Rolger starts next (R419). -/
def State.startCmd (s : State) : List (State → Out) :=
  s.taken.map (fun e => match cmdCode e with
    | 1 => execLaunch e
    | 2 => execPreempt e
    | 3 => execResume e
    | 4 => execKill e
    | 5 => execMap e
    | 6 => execUnmap e
    | 7 => execMigrate e
    | 8 => execDieReset e
    | 9 => execLinkPower e
    | 10 => execAttest e
    | 11 => execTraceCfg e
    | 12 => execReplayCfg e
    | 13 => execPowerCap e
    | _ => if CmdField e 18 1 == 1 then execQueryWrite e else execQuery e)

/-- A yield ends at once (R190). -/
def wakeYield (r : SRef) (s : State) : Out := stepIf "YIELD" (s.mayWake r.gref) (s.wake r)

/-- A wait for remote data ends when the data has come, and its unit issues again (R51). -/
def wakeRemote (r : SRef) (id : Nat) (s : State) : Out :=
  let there := match s.group? r.gref with | some g => g.loads.any (fun l => l.id == id) | none => true
  stepIf "LOAD_DATA_RETURN" (s.mayWake r.gref && !there) ((s.modSplit r (fun p => { p with st := .ready })).after r)

/-- A unit that waited for a home in reset is tried again (R289). -/
def wakeHome (r : SRef) (s : State) : Out :=
  stepIf "DIE_REJOIN" (s.mayWake r.gref) ((s.modSplit r (fun p => { p with st := .ready })).after r)

/-- The entries of the split tables in the handler frames of some groups. -/
def framesOf (gs : List (GRef × Group)) : List (SRef × Split) :=
  gs.flatMap (fun x => x.2.frames.flatMap (fun f => (f.splits.zipIdx).filterMap (fun y =>
    y.1.map (fun p => (⟨x.1.blk, x.1.grp, y.2⟩, p)))))

/-- The wakes of waiting splits (R351), and of what the splits in handler frames have issued (R367). -/
def State.wakes (s : State) : List (State → Out) :=
  (framesOf s.liveGroups).flatMap (fun x => match x.2.st with
    | .blocked (.dyield _ _ _ _ _ _) _ => [execDyieldWake x.1, execDyieldLimitExpiry x.1]
    | .blocked (.cpq _ _) _ => [execCpqSlotFree x.1]
    | _ => []) ++
  (splitsOf s.liveGroups).flatMap (fun x =>
    let r := x.1
    match x.2.2.st with
    | .blocked w _ => match w with
      | .bar n _ => [execBarPhaseResume r.blk n]
      | .mbwait _ _ => [execMbwaitWake r]
      | .dyield _ _ _ _ _ _ => [execDyieldWake r, execDyieldLimitExpiry r]
      | .regreq _ => [execRegreqGrant r]
      | .mwait _ | .mfence => [execMatrixBatchComplete r.gref]
      | .join => [execJoinWake r.blk]
      | .cpq _ _ => [execCpqSlotFree r]
      | .gcall _ => [execGcallStoreGrant r]
      | .remote id => [wakeRemote r id]
      | .home => [wakeHome r]
      | .yielded => [wakeYield r]
      | .abort _ => [wakeAbort r.gref]
    | _ => [])

/-- Saves, restores, placements, completions (18). -/
def State.schedule (s : State) : List (State → Out) :=
  (match s.saveNext with | some n => [execBlockSave n] | none => []) ++
  s.storeWaiters.map execRegreqDeadlockEvict ++
  (indicesWhere (fun b => b.st == .waitingJoin) s.blocks).map execJoinWake ++
  (s.regions.map (fun q => execRegionComplete q.rcb)) ++
  (match s.placeNext with
    | some (d, .launch _, cl, cs) => [execBlockDispatch d cl cs]
    | some (_, .block n, cl, cs) => [execBlockRestore n cl cs]
    | none => [])

/-- The gangs whose instructions may leave the rendezvous latch: as soon as they can (R322). -/
def State.releases (s : State) : List (State → Out) :=
  (s.blocks.zipIdx).flatMap (fun x =>
    if x.1.groups.all (fun g => g.mq.isEmpty) then [] else (List.range 4).map (fun g => execGangRelease x.2 g))

/-- What goes on in the background: data, acknowledgements, engines, matrix work, queues, records. -/
def State.background (s : State) : List (State → Out) :=
  let gs := (s.blocks.zipIdx).flatMap (fun x => (x.1.groups.zipIdx).map (fun y => ((⟨x.2, y.2⟩ : GRef), y.1)))
  gs.flatMap (fun x => x.2.loads.map (fun l => execLoadDataReturn x.1 l.id) ++
    x.2.unacked.map (fun id => execStoreAcknowledged x.1 id) ++
    (if x.2.mq.isEmpty && x.2.batches.isEmpty then [] else [execMatrixBatchComplete x.1])) ++
  s.engines.map (fun e => match e.kind with
    | .copy _ _ len done => execCopyRunLanded e.id (len - done)
    | .tld _ _ done _ => execTldRunLanded e.id (8192 - done)
    | _ => execRowWritten e.id) ++
  dieList.flatMap (fun d => (s.die d).cq.flatMap (fun q => [execCpqEntryRun d q.1, execCpqFlagAtomic d q.1])) ++
  s.eccPending.map execEccRecomputeDone ++
  s.records.flatMap (fun r => [execDiffRecordMerge r.src ((s.homeOfLine r.line).getD 4), execMergeAck r.src]) ++
  (if s.sweepDue then [execCoherenceSweep] else [])

/-- Whether no step of the package brings a replay on (R429): nothing in the background can go on, no answer of the helm
cores, no rejoining die and no limit of a `DYIELD` is awaited, and every split that could issue waits. -/
def State.stalled (s : State) : Bool :=
  let fs := s.wakes ++ s.schedule ++ s.releases ++ s.background
  s.reckon.mode == 2 && s.farFaults.isEmpty &&
  s.dies.all (fun d => d.faultq.isEmpty && d.st != .inReset) &&
  s.links.all (fun l => l.waking.isNone) && (firstOf s fs).isNone && (heldLinks s fs).isEmpty &&
  (splitsOf s.liveGroups).all (fun x => match x.2.2.st with
    | .ready | .operand _ _ => (s.modSplit x.1 (fun p => { p with st := .ready })).unitWaits x.1
    | .blocked (.dyield _ _ _ _ _ _) _ => false
    | _ => true) &&
  (framesOf s.liveGroups).all (fun x => match x.2.st with
    | .blocked (.dyield _ _ _ _ _ _) _ => false
    | _ => true)

/-- The launches that something of a stalled replay belongs to: splits that wait, difference records, releases that wait
for a merge, queue entries (R429). -/
def State.stalledRcbs (s : State) : List Nat :=
  let of := fun (b : Nat) => ((s.blocks[b]?).map (fun (b : Block) => b.rcb)).toList
  sortedSet (
    (splitsOf s.liveGroups).flatMap (fun x => match x.2.2.st with
      | .ready | .operand _ _ => of x.1.blk
      | _ => []) ++
    s.records.flatMap (fun r => s.rcbsOn r.src) ++
    (s.regions.filter (fun q => q.st < 5 && q.dies.any s.mergeHeld)).map (fun q => q.rcb) ++
    s.engines.flatMap (fun e => of e.grp.blk) ++
    s.dies.flatMap (fun d => d.cq.flatMap (fun q => of q.2.grp.blk)))

/-- The homes find that a logged order is missing (R429): where a replay has come to a stop, its launches that still have
something under way diverge. DESIGN CHOICE when they find it (log entry 76); which line they report is a free value. -/
def missingOrder (s : State) : Out :=
  let (l, t) := s.freeN
  let qs := if s.stalled then s.stalledRcbs.filter (fun q => !(s.reckon.diverged.contains q)) else []
  stepIf "REPLAY_DIVERGENCE" (!qs.isEmpty) (t.diverge qs (l % 2 ^ 45))

/-- Timers, deadlines and the helm cores' answers to fault records, which of the two being a free choice (log
entry 6). -/
def State.timers (s : State) : List (State → Out) :=
  s.liveGroups.flatMap (fun x => if x.2.deadline.isSome then
    [execPreemptDeadline x.1, execHandlerDeadlineKill x.1] else []) ++
  (indicesWhere (fun b => b.drain.isSome) s.blocks).map execDrainLimitExpiry ++
  (splitsOf s.liveGroups).flatMap (fun x =>
    if x.2.2.st.waiting then [execRemotePendingTimeout x.1] else []) ++
  (dieList.filter (fun d => (s.die d).st == .inReset)).map execDieRejoin ++
  (if s.boot == .off then [] else
    [execPowerArbiterTick, execSoundingReplan] ++ (List.range 24).map execHotnessIntervalEnd) ++
  (List.range 6).map execLinkSleep ++
  [helmStep, missingOrder] ++
  (dieList.flatMap (fun d => (s.die d).faultq) ++ s.farFaults).map (fun f t =>
    let (k, t) := t.freeN
    if k % 2 == 0 then execFaultReplay f.token t else execFaultDeliver f.token t)

/-- Splits that waited for an operand try again. -/
def State.rearm (s : State) : Option State :=
  let ws := (splitsOf s.liveGroups).filter (fun x => x.2.2.st.waiting)
  if ws.isEmpty then none
  else some (ws.foldl (fun s x => s.modSplit x.1 (fun p => { p with st := .ready })) s)

/-- The first answer of some. -/
@[inline] def orElse (a : Option Out) (b : Unit → Option Out) : Option Out :=
  match a with
  | some o => some o
  | none => b ()

/-- The first enabled step of some lists, each begun at an item that goes round. -/
def firstIn (s : State) : List (State → List (State → Out)) → Option Out
  | [] => none
  | f :: fs => orElse (firstOf s ((f s).rotateLeft (s.steps / 32))) (fun _ => firstIn s fs)

/-- The device's own steps, its four kinds in an order that goes round (log entry 4). -/
def State.own (s : State) : Option Out :=
  let fs := [State.wakes, State.schedule, State.background, State.timers]
  let n := s.steps / 8 % 4
  firstIn s (fs.drop n ++ fs.take n)

/-- The links that are not up and that a message of the device waits for: of a step of its own, of a cause or a restart, of
a command under way, or of a block that ends (R287). A message of a unit wakes its link itself. -/
def State.wantedLinks (s : State) : List Nat :=
  if s.links.any (fun l => (l.asleep || l.failed) && l.waking.isNone) then
    heldLinks s (s.startCmd ++ s.releases ++ s.wakes ++ s.schedule ++ s.background ++ s.timers) ++
    (s.due ++ s.pending.map s.settleNext ++ (List.range s.blocks.length).map s.blockEnd).filterMap State.awayLink
  else []

/-- A link that a message waits for comes up within 1.5 µs (R29, R287); `want` says that one waits. -/
def Link.tick (l : Link) (now : Nat) (want : Bool) : Link :=
  if !l.asleep && !l.failed then l
  else match l.waking with
    | some t => if t + 1500 ≤ now then { l.woken now with failures := 0 } else l
    | none => if want then { l with waking := some now } else l

/-- What happens next (log entry 4): inputs in the order they come, then commands, restarts and asynchronous
causes, gangs that are complete, then units before the device's other steps, but in every eighth step after
them; in every eighth step, too, splits that wait for an operand are looked at again first. -/
def State.choose (s : State) : Out :=
  match s.agenda with
  | i :: is => exec i { s with agenda := is }
  | [] =>
    let unit := fun (_ : Unit) => s.pick.map (fun r => s.issueNext r)
    let rest := fun (_ : Unit) =>
      if s.steps % 8 == 7 then orElse s.own unit
      else orElse (if s.steps % 8 == 3 then s.rearm.map .next else none)
        (fun _ => orElse (unit ()) (fun _ => s.own))
    let o := orElse (firstOf s s.startCmd) (fun _ => orElse (s.prepare.map .next) (fun _ =>
      orElse (firstOf s s.releases) (fun _ => orElse (rest ()) (fun _ => s.rearm.map .next))))
    o.getD (.next s)

/-! ## Time -/

/-- The component of a region's time that a step falls in (R427): none for QUEUE. -/
def State.lossOf (s : State) (q : Region) : Option Nat :=
  let gs := s.liveGroups.filter (fun x => ((s.blocks[x.1.blk]?).map (·.rcb)) == some q.rcb)
  let faulted := fun (g : Group) => g.valid.any (fun x => match x.2.st with
      | .parkedFault k => k.token.isSome | _ => false) &&
    g.valid.all (fun x => match x.2.st with
      | .parkedFault k => k.token.isSome
      | .parkedRa => true
      | _ => false)
  if !(s.blocks.any (fun b => b.rcb == q.rcb && b.st == .resident)) then none
  else if !gs.isEmpty && gs.all (fun x => faulted x.2) then some 0
  else if q.ioWait then some 1
  else some 2

/-- Adds `n` cycles to a component. -/
def TimeLoss.add (t : TimeLoss) (k n : Nat) : TimeLoss :=
  match k with
  | 0 => { t with fault := t.fault + n }
  | 1 => { t with io := t.io + n }
  | _ => { t with engine := t.engine + n }

/-- Time goes on (log entry 7): the wall timer and the clock of every island by at least one cycle. -/
def State.advance (s : State) : State :=
  let n := 1 + Config.wallExtra s.steps
  let now := s.wall + BitVec.ofNat 64 n
  let want := s.wantedLinks
  { s with
    away := none,
    links := (s.links.zipIdx).map (fun (x : Link × Nat) => x.1.tick now.toNat (want.contains x.2)),
    wall := now,
    cycles := (s.cycles.zipIdx).map (fun (x : BitVec 64 × Nat) =>
      x.1 + BitVec.ofNat 64 (1 + Config.cycleExtra x.2 s.steps)),
    regions := s.regions.map (fun (q : Region) =>
      if q.alive then (match s.lossOf q with
        | some k => { q with tl := q.tl.add k n }
        | none => q)
      else q),
    steps := s.steps + 1 }

/-- What follows every step: blocks that have ended leave (R191), drains are noted, commands that are complete
are answered, time goes on. -/
def State.close (s : State) : State :=
  ((List.range s.blocks.length).foldl (fun s n => s.tried (s.blockEnd n)) s).noteDrains.settleCmds.advance

/-- One step of the package. -/
def State.run (s : State) : Out :=
  match s.choose with
  | .next t => .next t.close
  | o => o

/-! ## A program placed from outside -/

/-- Where `placeWord` puts the code page. -/
def codePage : Nat := 0x10000

/-- The region of `placeWord`. -/
def placedRegion : Region :=
  { rcb := 0x20000, parent := none, kind := 0, prio := 3, pclass := 0, deadline := 1048576, cores := 768,
    regu := 0xFFFE, spu := 0xFFFE, tileu := 0xFFFE, coresOf := 0x20000, reguOf := 0x20000, spuOf := 0x20000,
    tileuOf := 0x20000, asid := 1, fdom := 1, hcount := 0, htab := 0x20400, gtab := 0x20800, gcount := 0,
    tloss := 0, trace := 0, mailbox := 0, save := 0x20C00,
    lrec := { entry := codePage, grid := 1, gpb := 1, regs := 48, tiles := 16, cohort := 1, scratch := 65536,
              param := 0, almanac := 0, almn := 0, queue := 0, rcb := 0x20000, ranges := [(0, 0)],
              waits := [] },
    st := 2, compl := 0, children := 0, pend := [], stopped := [], dies := [0], haltSeq := 0,
    forkBlk := none, ioWait := false, tl := { fault := 0, io := 0, engine := 0, other := 0 } }

/-- The leaf of its code page. -/
def codeLeaf : Leaf :=
  { vbase := codePage, pbase := codePage, size := 65536, y := true, w := false, x := true, h := false,
    d := false, g := false, cc := 2, asid := 1, pte := 0 }

/-- A handle over the code page's frame, as x2 holds it. -/
def placedHandle : HandleX :=
  { index := 0, boff := 0, vbase := codePage, bound := 65536,
    attr := { space := 0, policy := 0, r := true, w := false, a := false, row := false, dev := 0, die := 0 },
    frame := some { pa := codePage, leaf := codeLeaf }, limit := 65536, lazy := false }

/-- The block of `placeWord`, on core 0 of cluster 0 of CD0. -/
def placedBlock : Block :=
  let b := newBlock placedRegion ⟨0, 0, 0⟩ 0 1
  { b with
    groups := b.groups.map (fun g => { g with x := g.x.set 2 (.handle placedHandle), vb := 65536 }) }

/-- The words of one unit placed as the next that a step issues: one resident group at its address (log
entry 24). -/
def State.placeWord (s : State) (bs : List Byte) : State :=
  { s with
    boot := .running, agenda := [], taken := [], pending := [], lostCmds := [], frames := [], migrations := [], cur := none, badPa := none, away := none, steps := 0,
    map := [{ base := 0, size := 0x100000, target := .hbm 0, rolger := false }],
    dram := Memory.write s.dram codePage bs,
    domains := [(1, ⟨0x40000, 0, 0x20400, 0, true⟩)],
    regions := [placedRegion], blocks := [placedBlock], engines := [], records := [],
    dies := List.replicate 4 Die.reset, cores := [{ Core.empty ⟨0, 0, 0⟩ with tlb := [codeLeaf] }],
    eccBad := [], eccPending := [], sweepOwed := false, farFaults := [], links := List.replicate 6 Link.reset }

end Sys2Proof.Machine
end

