-- ==== Sys2Proof/Machine/Step.lean ====
section
/-! DEFINITION. One step of the package, and the placement of a word where the next step fetches. -/

namespace Sys2Proof.Machine

open Sys2Proof

/-- One step (log entry 4). -/
def step (s : State) : Host.Outcome State Fault Refusal := s.run

/-- `s` with an instruction stored where the next step fetches: its bytes, the lowest first, and zero words
after them (log entry 24). -/
def State.withFetchWord (s : State) (nbits w : Nat) : State :=
  s.placeWord (bytesOfNat (max (nbits / 8) 12) (w % 2 ^ nbits))

end Sys2Proof.Machine
end

