-- ==== Sys2Proof/Safety.lean ====
section
/-! DEFINITION. What counts as a safe run, and the terms in which claims are stated: when a unit issues, the
state that its issue leaves, and what an address reads as. -/

namespace Sys2Proof.Safety

open Sys2Proof Sys2Proof.Machine

/-- A step is safe where it answers a next state: neither a fault nor a refusal. -/
def SafeStep (s : State) : Prop := ∃ t, step s = .next t

/-- `n` steps from a state are safe. -/
def SafeFor : Nat → State → Prop
  | 0, _ => True
  | n + 1, s => ∃ t, step s = .next t ∧ SafeFor n t

/-- The unit in `cur` issues (R83): `i` is its split; its mode allows it, its hint words are accepted and its
fields hold their limits (checks 3 to 5); no source is empty, no register it writes is pending, and no acquire
holds it (R51, R52, R235). -/
structure Ready (s : State) (u : Iss → Issue) (i : Iss) : Prop where
  issuing : s.iss? = some i
  checks : ((u i).refuse i).isNone = true
  waits : ((u i).stall i).isNone = true

/-- The v registers that a unit writes. -/
def writesV (u : Issue) : List Nat := (if u.sig.dst then u.sig.dR.vRegs u.sig.d else []) ++ u.vd

/-- The state that a complete unit leaves, from the state `t` with its effect in it: the operand latch steps
(R47), the group has issued (R190, R377), the split stands at Next and is ready, and its group settles (R33 to R38). -/
def ended (s : State) (i : Iss) (u : Issue) (t : State) : State :=
  ({ ((t.latchStep i (writesV u) u.hold).issued i false).modSplit i.r (fun p =>
      { p with pc := i.cur.next, st := .ready, replay := none, lastIssue := s.cyclesOf i.b.core }) with
    cur := none } : State).after i.r

/-- The state that a unit leaves which has placed its split itself, as a taken branch does. -/
def moved (i : Iss) (u : Issue) (t : State) : State :=
  ({ (t.latchStep i u.vd none).issued i false with cur := none } : State).after i.r

/-- The state that a unit leaves at a blocking point (R195). -/
def waiting (s : State) (i : Iss) (w : Wake) (t : State) : State :=
  ({ ((t.latchStep i [] none).issued i (w == .yielded)).modSplit i.r (fun p =>
      { p with st := .blocked w i.cur.next, lastIssue := s.cyclesOf i.b.core }) with
    cur := none } : State).after i.r

/-- The state that a unit leaves which traps before it has any effect (R231, R365). -/
def trapped (s : State) (i : Iss) (t : TrapInfo) : State :=
  (({ s with cur := none } : State).trapAt i.r t i.cur.unit).after i.r

/-- No access of the step met an address in no range of the address map (R435), a home that does not answer, a link that
sleeps or a row group under recompute (R287 to R289, R415). -/
def Populated (t : State) : Prop := t.badPa = none ∧ t.away = none

/-- The group after the splits have settled still lives (R33). -/
def Lives (g : Group) : Prop := (g.settle 40).live ≠ 0

/-- The canonical form of every byte memory outside the cores: DRAM, host memory, other packages. -/
def MemInv (s : State) : Prop :=
  Memory.wf s.dram = true ∧ Memory.wf s.hostMem = true ∧ Memory.wf s.remote = true

end Sys2Proof.Safety
end

