-- ==== Sys2Proof/Certificates/Slice0/Obligations.lean ====
section
/-! DEFINITION. The statements about the model, from the numbered rules of the spec, with the tables in which
they name their instructions. -/

namespace Sys2Proof.Claims

open Sys2Proof Sys2Proof.Machine Sys2Proof.Safety

/-- `ins` issues as `u` says, and from every state in which it is ready and `pre` holds it answers the next
state in which it is complete with the effect `f`. -/
def Completes (ins : Instr) (u : Iss → Issue) (pre : State → Iss → Prop) (f : State → Iss → State) : Prop :=
  ∀ (s : State) (i : Iss), Ready s u i → pre s i → Populated (ended s i (u i) (f s i)) →
    exec ins s = .next (ended s i (u i) (f s i))

/-- No condition beyond being ready. -/
def always : State → Iss → Prop := fun _ _ => True

/-- The effect that leaves another group in place of the issuing one. -/
def onGroup (f : Iss → Group) : State → Iss → State := fun s i => s.putGroup i.r.gref (f i)

/-- The two-source instructions of R131, R133 and R144 on 32 bits, each with its row's result. -/
def alu2 : List ((RF → Instr) × (Word → Word → Word)) :=
  [(.iadd32, fun a b => BitVec.ofNat 32 (a.toNat + b.toNat)),
   (.isub32, fun a b => BitVec.ofInt 32 (a.toNat - b.toNat : Int)),
   (.imul32, fun a b => BitVec.ofNat 32 (a.toNat * b.toNat)),
   (.imulhS32, fun a b => BitVec.ofInt 32 (a.toInt * b.toInt / 2 ^ 32)),
   (.imulhN32, fun a b => BitVec.ofNat 32 (a.toNat * b.toNat / 2 ^ 32)),
   (.iminS32, fun a b => if a.toInt ≤ b.toInt then a else b),
   (.iminN32, fun a b => if a.toNat ≤ b.toNat then a else b),
   (.imaxS32, fun a b => if a.toInt ≤ b.toInt then b else a),
   (.imaxN32, fun a b => if a.toNat ≤ b.toNat then b else a),
   (.andW, fun a b => a &&& b), (.orW, fun a b => a ||| b), (.xorW, fun a b => a ^^^ b),
   (.andn, fun a b => a &&& ~~~b), (.orn, fun a b => a ||| ~~~b),
   (.shl32, fun a b => BitVec.ofNat 32 (a.toNat * 2 ^ (b.toNat % 32))),
   (.shr32, fun a b => BitVec.ofNat 32 (a.toNat / 2 ^ (b.toNat % 32))),
   (.sar32, fun a b => BitVec.ofInt 32 (a.toInt / 2 ^ (b.toNat % 32))),
   (.rol32, fun a b => BitVec.ofNat 32 (a.toNat * 2 ^ (b.toNat % 32) + a.toNat / 2 ^ (32 - b.toNat % 32))),
   (.lea2, fun a b => BitVec.ofNat 32 (a.toNat + b.toNat * 2)),
   (.lea4, fun a b => BitVec.ofNat 32 (a.toNat + b.toNat * 4)),
   (.lea8, fun a b => BitVec.ofNat 32 (a.toNat + b.toNat * 8)),
   (.lea16, fun a b => BitVec.ofNat 32 (a.toNat + b.toNat * 16))]

/-- The 64-bit forms of R131 and R133 on two pairs. -/
def alu2w : List ((RF → Instr) × (DWord → DWord → DWord)) :=
  [(.iadd64, fun a b => BitVec.ofNat 64 (a.toNat + b.toNat)),
   (.isub64, fun a b => BitVec.ofInt 64 (a.toNat - b.toNat : Int)),
   (.imul64, fun a b => BitVec.ofNat 64 (a.toNat * b.toNat))]

/-- The 64-bit shifts of R133: a pair, and an amount in one register. -/
def shift64 : List ((RF → Instr) × (DWord → Word → DWord)) :=
  [(.shl64, fun a b => BitVec.ofNat 64 (a.toNat * 2 ^ (b.toNat % 64))),
   (.shr64, fun a b => BitVec.ofNat 64 (a.toNat / 2 ^ (b.toNat % 64))),
   (.sar64, fun a b => BitVec.ofInt 64 (a.toInt / 2 ^ (b.toNat % 64)))]

/-- The one-source instructions of R131, R133 and R142. -/
def alu1 : List ((RF → Instr) × (Word → Word)) :=
  [(.iabs, fun a => BitVec.ofNat 32 a.toInt.natAbs),
   (.ineg, fun a => BitVec.ofInt 32 (0 - a.toNat : Int)),
   (.notW, fun a => ~~~a),
   (.popc, fun a => BitVec.ofNat 32 ((List.range 32).countP (fun n => a.getLsbD n))),
   (.clz, fun a => BitVec.ofNat 32 (((List.range 32).takeWhile (fun n => !a.getLsbD (31 - n))).length)),
   (.ctz, fun a => BitVec.ofNat 32 (((List.range 32).takeWhile (fun n => !a.getLsbD n)).length)),
   (.brev, fun a => a.reverse),
   (.mov, fun a => a)]

/-- The result of a bit-field extraction (R135): `n` bits from bit `pos`. -/
def fieldAt (b : Word) : Nat × Nat :=
  let pos := b.toNat % 32
  (pos, min (b.toNat / 2 ^ 8 % 64) (32 - pos))

/-- The instructions that read d as a third source (R131, R134, R136). -/
def alu3 : List ((RF → Instr) × (Word → Word → Word → Word)) :=
  [(.imad32, fun a b d => BitVec.ofNat 32 (a.toNat * b.toNat + d.toNat)),
   (.fsh, fun a b d => BitVec.ofNat 32 ((a.toNat * 2 ^ 32 + b.toNat) / 2 ^ (d.toNat % 32))),
   (.bperm, fun a b d => BitVec.ofNat 32 (((List.range 4).map (fun j =>
      let n := d.toNat / 16 ^ j % 16
      256 ^ j * (if n < 8 then (b.toNat * 2 ^ 32 + a.toNat) / 256 ^ n % 256 else 0))).sum))]

/-- The conditions of integer compares, d[5:3] (R70). -/
def condHolds {w : Nat} (c : Nat) (a b : BitVec w) : Bool :=
  match c with
  | 0 => decide (a.toNat = b.toNat)
  | 1 => decide (a.toNat ≠ b.toNat)
  | 2 => decide (a.toInt < b.toInt)
  | 3 => decide (a.toInt ≤ b.toInt)
  | 4 => decide (b.toInt < a.toInt)
  | 5 => decide (b.toInt ≤ a.toInt)
  | 6 => decide (a.toNat < b.toNat)
  | _ => decide (b.toNat ≤ a.toNat)

/-- The carry that a lane takes in: k7 of the lane, or of the lowest lane of `Active` on the scalar pipe
(R130, R132). -/
def carryIn (i : Iss) (x : RF) (L : Nat) : Nat :=
  ((i.g.kGet 7).getLsbD (if isS x.d then lowLane i.cur.active else L)).toNat

/-- The lanes whose k7 a carry instruction writes (R130, R132). -/
def carryLanes (i : Iss) (x : RF) : Mask := if isS x.d then i.cur.active else i.part x.g

/-- The operations of `KOP`, d[5:3] (R139). -/
def kopBit (k : Nat) (p q : Bool) : Bool :=
  match k with
  | 0 => p && q
  | 1 => p || q
  | 2 => p != q
  | 3 => p && !q
  | 4 => p || !q
  | 5 => !(p && q)
  | 6 => !(p || q)
  | _ => p == q

/-- The immediate of a format-I instruction: imm12, or P:imm12, sign-extended (R75, R143). -/
def immSigned (h : Hints) (x : IF) : Int :=
  match h.ximm with
  | some p => if p.toNat < 2 ^ 23 then p.toNat * 2 ^ 12 + x.imm.toNat
      else (p.toNat : Int) * 2 ^ 12 + x.imm.toNat - 2 ^ 36
  | none => x.imm.toInt

/-- The same zero-extended, for `ANDI`, `ORI` and `XORI`. -/
def immUnsigned (h : Hints) (x : IF) : Nat :=
  match h.ximm with
  | some p => p.toNat * 2 ^ 12 + x.imm.toNat
  | none => x.imm.toNat

/-- The 32-bit immediate instructions of R143, each with its result from A and the two readings of I. -/
def aluI32 : List ((IF → Instr) × (Word → Int → Nat → Word)) :=
  [(.iaddi32, fun a n _ => BitVec.ofInt 32 (a.toNat + n)),
   (.imuli32, fun a n _ => BitVec.ofInt 32 (a.toNat * n)),
   (.andi, fun a _ n => a &&& BitVec.ofNat 32 n),
   (.ori, fun a _ n => a ||| BitVec.ofNat 32 n),
   (.xori, fun a _ n => a ^^^ BitVec.ofNat 32 n)]

/-- The shifts by an immediate (R143), with their results. -/
def shiftImm : List ((IF → Instr) × (Word → Nat → Word)) :=
  [(.shli, fun a n => BitVec.ofNat 32 (a.toNat * 2 ^ n)),
   (.shri, fun a n => BitVec.ofNat 32 (a.toNat / 2 ^ n)),
   (.sari, fun a n => BitVec.ofInt 32 (a.toInt / 2 ^ n))]

/-- The bits of a field moved to bit 0 (R135). -/
def fieldBits (a b : Word) : Nat := a.toNat / 2 ^ (fieldAt b).1 % 2 ^ (fieldAt b).2

/-- The bit-field instructions of R135 with their results; `BFI` reads d. -/
def fieldOps : List ((RF → Instr) × (Word → Word → Word → Word)) :=
  [(.bfxN, fun a b _ => BitVec.ofNat 32 (fieldBits a b)),
   (.bfxS, fun a b _ =>
      let n := (fieldAt b).2
      BitVec.ofInt 32 (if 2 ^ n ≤ 2 * fieldBits a b ∧ n ≠ 0 then (fieldBits a b : Int) - 2 ^ n
        else fieldBits a b)),
   (.bfi, fun a b d =>
      let (p, n) := fieldAt b
      BitVec.ofNat 32 (d.toNat % 2 ^ p + a.toNat % 2 ^ n * 2 ^ p + d.toNat / 2 ^ (p + n) * 2 ^ (p + n)))]

/-- No lane that a bit-field instruction acts for holds a length above 32 (R135). -/
def lengthsOk (sig : OpSig) (x : RF) : State → Iss → Prop := fun _ i =>
  (sig.scalar = true → (i.g.src x.b 0).toNat / 2 ^ 8 % 64 ≤ 32) ∧
  ∀ L ∈ lanesOf (i.part x.g), (i.g.src x.b L).toNat / 2 ^ 8 % 64 ≤ 32

/-- The shuffles of R147: the position in the segment that a lane reads, from its own position, the
selector modulo the segment and the segment's size. -/
def shuffles : List ((RF → Instr) × Shuffle × (Nat → Nat → Nat → Nat)) :=
  [(.shflIdx, .idx, fun _ q _ => q),
   (.shflUp, .up, fun p q n => (p + n - q) % n),
   (.shflDown, .down, fun p q n => (p + q) % n),
   (.shflXor, .xor, fun p q _ => p ^^^ q)]

/-- The lane that lane L reads under a selector word (R147). -/
def shuffleFrom (f : Nat → Nat → Nat → Nat) (n : Word) (L : Nat) : Nat :=
  let w := n.toNat / 32 % 8
  let size := if w = 0 then 32 else 2 ^ w
  L / size * size + f (L % size) (n.toNat % 32 % size) size

/-- The voters of R148 and the contributors of R149. -/
def votersOf (i : Iss) (x : RF) (filter : Nat) : List Nat :=
  (lanesOf (i.part x.g)).filter (fun L => filter == 0 || (i.g.kGet filter).getLsbD L)

/-- The voters that vote yes (R148). -/
def yesOf (i : Iss) (x : RF) : List Nat :=
  (votersOf i x (x.b.toNat % 8)).filter (fun L =>
    (i.g.kGet (x.a.toNat % 8)).getLsbD L != x.a.getLsbD 3)

/-- The votes of R148 that write a predicate. -/
def votes : List ((RF → Instr) × (List Nat → List Nat → Bool)) :=
  [(.voteAll, fun yes all => yes == all),
   (.voteAny, fun yes _ => yes != []),
   (.voteEq, fun yes all => yes == all || yes == [])]

/-- The kinds of `REDUX`, b[2:0] (R149). -/
def reduced (k : Nat) (l : List Word) : Word :=
  match k with
  | 0 => BitVec.ofNat 32 (l.map (fun a => a.toNat)).sum
  | 1 => l.foldr (fun a m => if a.toInt ≤ m.toInt then a else m) 0x7FFFFFFF
  | 2 => l.foldr (fun a m => if a.toInt ≤ m.toInt then m else a) 0x80000000
  | 3 => l.foldr (fun a m => if a.toNat ≤ m.toNat then a else m) 0xFFFFFFFF
  | 4 => l.foldr (fun a m => if a.toNat ≤ m.toNat then m else a) 0
  | 5 => l.foldr (fun a m => a &&& m) 0xFFFFFFFF
  | 6 => l.foldr (fun a m => a ||| m) 0
  | _ => l.foldr (fun a m => a ^^^ m) 0

/-- The lanes of `Part` that hold the value of lane L (R150). -/
def sameAs (i : Iss) (x : RF) (L : Nat) : List Nat :=
  (lanesOf (i.part x.g)).filter (fun M => i.g.vGet x.a.toNat M == i.g.vGet x.a.toNat L)

/-- Which fields of an `XRND` word an instruction of 0x40 to 0x7F accepts (R155). -/
def rnd2 : BitVec 24 → Bool := rndOk true false true true false
def rndA : BitVec 24 → Bool := rndOk true false true false false
def rndC : BitVec 24 → Bool := rndOk false false true true false
def rndV : BitVec 24 → Bool := rndOk false false true false false

/-- Element `n` of an operand of type t in a lane, as a pattern (R103, R153). -/
def elemAt (i : Iss) (t : FTy) (v : BitVec 6) (neg : Bool) (n L : Nat) : Nat :=
  let p := if t = .f64 then (i.g.src64 v L).toNat
    else (i.g.src v L).toNat / 2 ^ (t.fmt.w * n) % 2 ^ t.fmt.w
  if neg then (if 2 ^ (t.fmt.w - 1) ≤ p then p - 2 ^ (t.fmt.w - 1) else p + 2 ^ (t.fmt.w - 1)) else p

/-- The elements of a type in one register or pair (R103). -/
def elemsOf (t : FTy) : Nat := if t = .h2 ∨ t = .bh2 then 2 else 1

/-- An elementwise result with its exceptions: the elements side by side, the exceptions of all of them
ORed into FLAGS for every lane of `Part` unless `XRND` says no flags (R55, R103). -/
def elementwise (i : Iss) (x : RF) (t : FTy) (f : Nat → Nat → Nat × Word) : Group :=
  let v := fun L => ((List.range (elemsOf t)).map (fun n => (f L n).1 * 2 ^ (t.fmt.w * n))).sum
  let g := if t = .f64 then i.g.dst64 x.d (i.part x.g) (fun L => BitVec.ofNat 64 (v L))
    else i.g.dst x.d (i.part x.g) (fun L => BitVec.ofNat 32 (v L))
  g.orFlags (rndOf i.cur.hints) (i.part x.g)
    (fun L => (List.range (elemsOf t)).foldl (fun fl n => fl ||| (f L n).2) 0)

/-- A value rounded once, beside the exceptions that formed it (R104, R107). -/
def rounded (i : Iss) (t : FTy) (v : FVal × Word) : Nat × Word :=
  ((t.fmt.round (rndOf i.cur.hints).rm v.1).1, (t.fmt.round (rndOf i.cur.hints).rm v.1).2 ||| v.2)

/-- The value of element n of an operand (R102). -/
def valAt (i : Iss) (t : FTy) (v : BitVec 6) (neg : Bool) (n L : Nat) : FVal :=
  t.fmt.decode (elemAt i t v neg n L)

/-- The arithmetic of R157 and the divisions of R165, each with its exact value. -/
def fpArith : List ((RF → Instr) × FTy × (RMode → FVal → FVal → FVal × Word)) :=
  [(.faddF64, .f64, fun m a b => a.add m b), (.faddF32, .f32, fun m a b => a.add m b),
   (.faddH2, .h2, fun m a b => a.add m b), (.faddBh2, .bh2, fun m a b => a.add m b),
   (.fsubF64, .f64, fun m a b => a.add m b.neg), (.fsubF32, .f32, fun m a b => a.add m b.neg),
   (.fsubH2, .h2, fun m a b => a.add m b.neg), (.fsubBh2, .bh2, fun m a b => a.add m b.neg),
   (.fmulF64, .f64, fun _ a b => a.mul b), (.fmulF32, .f32, fun _ a b => a.mul b),
   (.fmulH2, .h2, fun _ a b => a.mul b), (.fmulBh2, .bh2, fun _ a b => a.mul b),
   (.fdivF32, .f32, fun _ a b => a.div b), (.fdivF64, .f64, fun _ a b => a.div b)]

/-- The fused instructions of R158. -/
def fpFused : List ((RF → Instr) × FTy) :=
  [(.ffmaF64, .f64), (.ffmaF32, .f32), (.ffmaH2, .h2), (.ffmaBh2, .bh2)]

/-- The minima and maxima of R159: the greater one, a number before a NaN. -/
def fpMinMax : List ((RF → Instr) × FTy × Bool × Bool) :=
  [(.fminF64, .f64, false, false), (.fminF32, .f32, false, false), (.fminH2, .h2, false, false),
   (.fminBh2, .bh2, false, false), (.fmaxF64, .f64, true, false), (.fmaxF32, .f32, true, false),
   (.fmaxH2, .h2, true, false), (.fmaxBh2, .bh2, true, false), (.fminnF64, .f64, false, true),
   (.fminnF32, .f32, false, true), (.fminnH2, .h2, false, true), (.fminnBh2, .bh2, false, true),
   (.fmaxnF64, .f64, true, true), (.fmaxnF32, .f32, true, true), (.fmaxnH2, .h2, true, true),
   (.fmaxnBh2, .bh2, true, true)]

/-- The minimum or maximum of two patterns: NaNs first, then the order with -0 below +0 (R159). -/
def extremum (f : FFmt) (greater num : Bool) (a b : Nat) : Nat :=
  let x := f.decode a
  let y := f.decode b
  if x.isNan && y.isNan then f.nan
  else if x.isNan then (if num then b else f.nan)
  else if y.isNan then (if num then a else f.nan)
  else if (if greater then FVal.lt true x y else FVal.lt true y x) then b else a

/-- The compares of R160. -/
def fpCompare : List ((RF → Instr) × FTy) :=
  [(.fcmpF64, .f64), (.fcmpF32, .f32), (.fcmpH2, .h2), (.fcmpBh2, .bh2)]

/-- The conditions of `FCMP` (R70). -/
def condFp (c : Nat) (a b : FVal) : Bool :=
  let un := a.isNan || b.isNan
  let eq := !un && !FVal.lt false a b && !FVal.lt false b a
  match c with
  | 0 => eq
  | 1 => !eq
  | 2 => FVal.lt false a b
  | 3 => FVal.lt false a b || eq
  | 4 => FVal.lt false b a
  | 5 => FVal.lt false b a || eq
  | 6 => un
  | _ => !un

/-- The invalid flag of a compare: any NaN for lt, le, gt and ge, else a signalling NaN (R160). -/
def condInvalid (c : Nat) (a b : FVal) : Bool :=
  if 2 ≤ c ∧ c ≤ 5 then a.isNan || b.isNan else a == .nan true || b == .nan true

/-- The approximations of R166, each with the value that the part gives for a pattern. -/
def fpApprox : List ((RF → Instr) × (Word → Word × Word)) :=
  [(.frcpF32, rcp), (.frsqF32, rsq), (.fex2F32, ex2), (.flg2F32, lg2), (.fsinF32, trig 0x72 0),
   (.fcosF32, trig 0x73 1)]

/-- The type that b[1:0] names (R153). -/
def typeOf (b : BitVec 6) : FTy :=
  if b.toNat % 4 = 0 then .f64 else if b.toNat % 4 = 1 then .f32 else if b.toNat % 4 = 2 then .h2 else .bh2

/-- The rounding mode that b[3:2] of `FRND` names (R164). -/
def frndMode (b : BitVec 6) : RMode :=
  if b.toNat / 4 % 4 = 0 then .rne else if b.toNat / 4 % 4 = 1 then .rtz
  else if b.toNat / 4 % 4 = 2 then .rup else .rdn

/-- A conversion's float result: a pair, a register, or one half of a register whose other half stays
(R170, R171). -/
def converted (i : Iss) (x : RF) (dt : Nat) (high : Bool) (f : Nat → Nat × Word) : Group :=
  let g := if dt = 0 then i.g.dst64 x.d (i.part x.g) (fun L => BitVec.ofNat 64 (f L).1)
    else i.g.dst x.d (i.part x.g) (fun L =>
      let v := BitVec.ofNat 32 (f L).1
      let d := i.g.src x.d L
      if dt = 1 then v else if high then (d &&& 0xFFFF) ||| (v <<< 16) else (d &&& 0xFFFF0000) ||| v)
  g.orFlags (rndOf i.cur.hints) (i.part x.g) (fun L => (f L).2)

/-- The float that a conversion reads: of the 16-bit types, the half that `high` names (R170). -/
def halfVal (i : Iss) (x : RF) (t : Nat) (high : Bool) (L : Nat) : FVal :=
  let r := rndOf i.cur.hints
  let ty := if t = 0 then FTy.f64 else if t = 1 then .f32 else if t = 2 then .h2 else .bh2
  if high then (if t < 2 then ty.fmt.decode 0 else valAt i ty x.a r.na 1 L) else valAt i ty x.a r.na 0 L

/-- The integer that a conversion reads (R170). -/
def intVal (i : Iss) (x : RF) (t L : Nat) : Int :=
  if t = 0 then (i.g.src x.a L).toInt else if t = 1 then (i.g.src x.a L).toNat
  else if t = 2 then (i.g.src64 x.a L).toInt else (i.g.src64 x.a L).toNat

/-- How `PK8`, `UNPK8` and `PKBS` issue (R175 to R177). -/
def issueP (sig : OpSig) (x : RF) (cv na ovf : Bool) : Iss → Issue := fun i =>
  { issueF sig x (rndOk true ovf na false false) with
    acc := { xrnd := rndOk true ovf na false false, cv := cv, xsrc := !cv || clsOk i.cur.hints } }

/-- The format byte of every lane of `Part` names a format (R108, R175 to R177). -/
def formatsOk (x : RF) (ok : Nat → Bool) : State → Iss → Prop := fun _ i =>
  (isS x.d = true → ok ((i.g.src x.b 0).toNat % 256) = true) ∧
  ∀ L ∈ lanesOf (i.part x.g), ok ((i.g.src x.b L).toNat % 256) = true

/-- The format of a lane's format byte. -/
def formatAt (i : Iss) (x : RF) (L : Nat) : B8 :=
  (b8Of ((i.g.src x.b L).toNat % 256)).getD ⟨false, false, 1⟩

/-- A word with byte j replaced (R175, R177). -/
def withByte (d : Word) (j c : Nat) : Word :=
  (d &&& ~~~((0xFF : Word) <<< (8 * j))) ||| (BitVec.ofNat 32 (c % 256) <<< (8 * j))

/-- The byte of an integer format, signed under 0x03 (R176). -/
def byteInt (fmt c : Nat) : Int := if fmt = 3 ∧ 128 ≤ c then (c : Int) - 256 else c

/-- `ins` places its split itself: from every state in which it is ready and `pre` holds it answers the next
state with the effect `f`. -/
def Moves (ins : Instr) (u : Iss → Issue) (pre : State → Iss → Prop) (f : State → Iss → State) : Prop :=
  ∀ (s : State) (i : Iss), Ready s u i → pre s i → Populated (moved i (u i) (f s i)) →
    exec ins s = .next (moved i (u i) (f s i))

/-- `ins` leaves its split at a blocking point (R195). -/
def Blocks (ins : Instr) (u : Iss → Issue) (pre : State → Iss → Prop) (w : Iss → Wake)
    (f : State → Iss → State) : Prop :=
  ∀ (s : State) (i : Iss), Ready s u i → pre s i → Populated (waiting s i (w i) (f s i)) →
    exec ins s = .next (waiting s i (w i) (f s i))

/-- `ins` traps with `q` before it has any effect. -/
def Traps (ins : Instr) (u : Iss → Issue) (pre : State → Iss → Prop) (q : Iss → TrapInfo) : Prop :=
  ∀ (s : State) (i : Iss), Ready s u i → pre s i → Populated (trapped s i (q i)) →
    exec ins s = .next (trapped s i (q i))

/-- The state after an access that met a memory fault (R231): what its other lanes have done, and the split parked at the
unit, with the unfinished lanes, the registers that it leaves pending, and whether `FLAGS` is still due. -/
def parked (i : Iss) (t : State) (q : MFault) (m : Mask) (vs ss : List Nat) (fl : Bool) : State :=
  (({ t with cur := none } : State).parkAt i.r i.cur.unit q m vs ss fl).after i.r

/-- `ins` parks its split (R231): its other lanes have had the effect `f`. -/
def Parks (ins : Instr) (u : Iss → Issue) (pre : State → Iss → Prop) (f : State → Iss → State) (q : MFault)
    (m : State → Iss → Mask) (vs ss : List Nat) (fl : Iss → Bool) : Prop :=
  ∀ (s : State) (i : Iss), Ready s u i → pre s i → Populated (parked i (f s i) q (m s i) vs ss (fl i)) →
    exec ins s = .next (parked i (f s i) q (m s i) vs ss (fl i))

/-- The offset of a direct branch in words, sign-extended from 20 or 44 bits (R75, R180). -/
def branchOff (h : Hints) (x : BF) : Int :=
  match h.ximm with
  | some p => if p.toNat < 2 ^ 23 then p.toNat * 2 ^ 20 + x.off.toNat
      else (p.toNat : Int) * 2 ^ 20 + x.off.toNat - 2 ^ 44
  | none => x.off.toInt

/-- The target of a direct branch: Next + 4 times the offset (R180). -/
def branchTo (i : Iss) (x : BF) : Pc := BitVec.ofInt 55 (i.cur.next.toNat + 4 * branchOff i.cur.hints x)

/-- The lanes of `M` that take a direct branch (R182). -/
def takenB (i : Iss) (x : BF) : Mask :=
  maskOf (fun L => i.p.mask.getLsbD L && ((i.g.kGet x.g.toNat).getLsbD L != (x.n == 1)))

/-- Y of `XSCH` and a backward branch (R78). -/
def yieldsB (i : Iss) (x : BF) : Bool :=
  (match i.cur.hints.xsch with | some p => p.getLsbD 8 | none => false) &&
    decide (branchOff i.cur.hints x < 0)

/-- The direct branches (R182, R183, R185), each with the registers it writes, its hint words and what it
does to the group's registers first. -/
def branches : List ((BF → Instr) × List Nat × (BF → Bool) × (Iss → BF → Group)) :=
  [(.bra, [], fun x => x.g != 0, fun i _ => i.g),
   (.brau, [], fun _ => false, fun i _ => i.g),
   (.call, [47], fun x => x.g != 0, fun i x => i.g.vSet 47 (takenB i x) (fun _ => i.cur.next.setWidth 32))]

/-- How a direct branch issues. -/
def issueB (sig : OpSig) (vd : List Nat) (rcv : Bool) (sx : List Nat) : Issue :=
  { sig := sig, acc := { ximm := true, xsrc := false, y := true, xrcv := rcv }, vd := vd, sx := sx }

/-- The whole split goes to an address. -/
def jump (s : State) (i : Iss) (g : Group) (a : Pc) (y : Bool) : State :=
  (((s.putGroup i.r.gref g).goto i a).yieldAt i y).traceBranch i a

/-- The split has divided or been serialized into the group `g` (R35, R37); its operand-latch entries are gone (R48). -/
def divided (s : State) (i : Iss) (g : Group) : State :=
  ((s.putGroup i.r.gref g).modSplit i.r (fun p => { p with lastIssue := s.cyclesOf i.b.core })).dropHeld i.r.gref
    [i.r.sp]

/-- The same after a direct branch. -/
def split (s : State) (i : Iss) (g : Group) (a : Pc) (y : Bool) : State :=
  ((divided s i g).yieldAt i y).traceBranch i a

/-- The register branches (R187 to R189): the register of a lane's target, and the link. -/
def regBranches : List ((RF → Instr) × (RF → Issue) × (Iss → RF → Nat → Word) × (Iss → RF → Group)) :=
  [(.brx, fun x => { sig := sigOf (.brx x), acc := accC true, f := some (x.f == 1) },
      fun i x L => i.g.src x.a L, fun i _ => i.g),
   (.callx, fun x => { sig := sigOf (.callx x), acc := accC false, f := some (x.f == 1), vd := [47] },
      fun i x L => i.g.src x.a L,
      fun i x => i.g.vSet 47 (i.part x.g &&& i.p.mask) (fun _ => i.cur.next.setWidth 32)),
   (.ret, fun x => { sig := sigOf (.ret x), acc := accC false, f := some (x.f == 1), vx := [47] },
      fun i _ L => i.g.vGet 47 L, fun i _ => i.g)]

/-- The target of a lane of a register branch: bits 54:32 of the unit's address over the register, or Next
for a lane outside `Part` (R180, R186). -/
def laneTo (i : Iss) (x : RF) (v : Nat → Word) (L : Nat) : Pc :=
  if (i.part x.g).getLsbD L && i.p.mask.getLsbD L then
    BitVec.ofNat 55 (i.cur.unit.toNat / 2 ^ 32 * 2 ^ 32 + (v L).toNat)
  else i.cur.next

/-- The records of a register branch, one for each destination with taken lanes (R425). -/
def traceTaken (s : State) (i : Iss) (x : RF) (ds : List (Pc × Mask)) : State :=
  (ds.filter (fun d => d.2 &&& (i.part x.g &&& i.p.mask) != 0)).foldl (fun s d => s.traceBranch i d.1) s

/-- How the instructions without operands of their own issue (R181). -/
def issueC (sig : OpSig) : Issue := { sig := sig, acc := { xsrc := false } }

/-- How the memory instructions issue (R246). -/
def issueMem (sig : OpSig) (rnd : Bool) : Issue :=
  { sig := sig, acc := { ximm := true, ft := true, xrnd := if rnd then rndOk true false false false false
      else fun _ => false }, dOp := .d, mem := true }

/-- The lanes of an access with their offsets: the register plus the displacement; one access on the scalar
pipe (R65, R75, R228). -/
def offsetsOf (i : Iss) (sig : OpSig) (x : MF) : List (Nat × Int) :=
  (if sig.scalar then [0] else lanesOf (i.part x.g)).map (fun L => (L, (i.g.src x.a L).toInt +
    match i.cur.hints.ximm with | some p => p.toInt | none => 0))

/-- Every offset is a multiple of the access size (R230). -/
def alignedAt (i : Iss) (sig : OpSig) (x : MF) (size : Nat) : Prop :=
  ∀ p ∈ offsetsOf i sig x, p.2 % (size : Int) = 0

/-- The state in which the binding of an access has been made, where it waited for it (R227). -/
def boundAt (s : State) (i : Iss) (x : MF) (k : AccKind) : State := (s.rebind i.r.gref x.x.toNat k).2

/-- The kind and scope of an access (R69, R237): strong accesses to the host or another device are at system scope. -/
def orderOf (s : State) (i : Iss) (x : MF) (k : AccKind) (amo : Bool) : AOrd := (boundAt s i x k).order i x amo

/-- Where each lane's access goes, and the state in which its bindings are made and its walks done. -/
def placesOf (s : State) (i : Iss) (sig : OpSig) (x : MF) (size : Nat) (k : AccKind) (amo : Bool) :
    List (Nat × Except MFault Loc) × State :=
  (boundAt s i x k).resolveLanes i.r.gref x.x.toNat (offsetsOf i sig x) size k (orderOf s i x k amo).atHome

/-- No lane faults and none waits for its place. -/
def accessible (s : State) (i : Iss) (sig : OpSig) (x : MF) (size : Nat) (k : AccKind) (amo : Bool) : Prop :=
  let q := placesOf s i sig x size k amo
  firstFault q.1 = none ∧ i.g.anyEmpty size q.1 = []

/-- Some lane faults, the lowest of them L, and none waits for its place (R231). -/
def faulting (s : State) (i : Iss) (sig : OpSig) (x : MF) (size : Nat) (k : AccKind) (amo : Bool) (L : Nat)
    (f : MFault) : Prop :=
  let q := placesOf s i sig x size k amo
  firstFault q.1 = some (L, f) ∧ i.g.anyEmpty size q.1 = []

/-- The lanes from L on. -/
def fromLane (q : List (Nat × Except MFault Loc)) (L : Nat) : Mask :=
  maskOf (fun M => (q.map (fun p => p.1)).contains M && decide (L ≤ M))

/-- The lanes that have no place. -/
def outside (q : List (Nat × Except MFault Loc)) : Mask :=
  maskOf (fun M => (q.map (fun p => p.1)).contains M && !((okAll q).any (fun p => p.1 == M)))

/-- Where a checked physical address of a handle leads, or its fault at the virtual address (R228 to R230, R288). -/
def reached (t : State) (a : Attr) (k : AccKind) (va : Int) (n pa cc : Nat) : Except MFault Loc :=
  let fault : Nat → Nat → Except MFault Loc := fun cause detail =>
    .error ({ cause := cause, detail := detail, acc := k.code }, some va)
  let bad := (k = .load ∨ k = .atomic) ∧ a.space ≠ 3 ∧ (pa / 128 ∈ t.eccBad ∨ (pa + n - 1) / 128 ∈ t.eccBad)
  if a.allows k = false then fault cProtection 1
  else match (if a.space = 3 then none else t.homeOf pa) with
    | some d => if (t.die d).st = .lost then fault cDieLost d else if bad then fault cEcc 0 else .ok (.mem pa cc a)
    | none => if bad then fault cEcc 0 else .ok (.mem pa cc a)

/-- A number extended with its sign from n bits to a word. -/
def signWord (n v : Nat) : Word := BitVec.ofInt 32 (if v < 2 ^ (n - 1) then (v : Int) else (v : Int) - 2 ^ n)

/-- The loads of R234: registers, bytes, and the words from the loaded bytes as a little-endian number. -/
def loadForms : List ((MF → Instr) × Nat × Nat × (Nat → List Word)) :=
  [(.ld8s, 1, 1, fun v => [signWord 8 (v % 2 ^ 8)]), (.ld8n, 1, 1, fun v => [BitVec.ofNat 32 (v % 2 ^ 8)]),
   (.ld16s, 1, 2, fun v => [signWord 16 (v % 2 ^ 16)]),
   (.ld16n, 1, 2, fun v => [BitVec.ofNat 32 (v % 2 ^ 16)]),
   (.ld32, 1, 4, fun v => [BitVec.ofNat 32 v]),
   (.ld64, 2, 8, fun v => [BitVec.ofNat 32 v, BitVec.ofNat 32 (v / 2 ^ 32)]),
   (.ld128, 4, 16, fun v => [BitVec.ofNat 32 v, BitVec.ofNat 32 (v / 2 ^ 32),
      BitVec.ofNat 32 (v / 2 ^ 64), BitVec.ofNat 32 (v / 2 ^ 96)])]

/-- The stores of R234: registers and bytes. -/
def storeForms : List ((MF → Instr) × Nat × Nat) :=
  [(.st8, 1, 1), (.st16, 1, 2), (.st32, 1, 4), (.st64, 2, 8), (.st128, 4, 16)]

/-- The lanes of a load one after the other, from the state t: the words of each, the entries returned. -/
def readLanes (i : Iss) (size : Nat) (o : AOrd) (conv : Nat → List Word) (t : State) (l : List (Nat × Loc)) :
    List (Nat × List Word) × Sig × State :=
  l.foldl (fun p q =>
    let r := p.2.2.readLoc i.r.gref q.2 size o
    (p.1 ++ [(q.1, conv (natOfBytes r.1))], p.2.1 ||| r.2.1, r.2.2)) ([], 0, t)

/-- The bytes that a lane stores: the registers' bytes, the lowest first (R234). -/
def storeBytes (i : Iss) (x : MF) (w size L : Nat) : List Byte :=
  ((List.range w).flatMap (fun j => bytesOfNat 4 (i.g.srcAt x.d j L).toNat)).take size

/-- The lanes of a store one after the other. -/
def writeLanes (i : Iss) (x : MF) (w size : Nat) (o : AOrd) (e : Option Sig) (t : State)
    (l : List (Nat × Loc)) : State :=
  l.foldl (fun t q => (t.writeLoc i.r.gref q.2 (storeBytes i x w size q.1) o
    (if t.carries q.2 then e else none)).winDrop i q.2 size) t

/-- The result of an atomic on two words (R244). -/
def onWords (f : Word → Word → Word) : RMode → Nat → Nat → Nat → Option Nat × Word :=
  fun _ old d _ => (some (f (BitVec.ofNat 32 old) (BitVec.ofNat 32 d)).toNat, 0)

/-- One element's rounded sum (R245). -/
def sumOf (f : FFmt) (m : RMode) (a b : Nat) : Nat × Word :=
  let v := (f.decode a).add m (f.decode b)
  ((f.round m v.1).1, (f.round m v.1).2 ||| v.2)

/-- The atomics of R244, R245: bytes, registers of the field, registers written, whether a rounding is
accepted, and the new value from the rounding, the old value, the operand and the compare value: none where
a compare fails. -/
def amoForms : List ((MF → Instr) × Nat × Nat × Nat × Bool × (RMode → Nat → Nat → Nat → Option Nat × Word)) :=
  [(.amoAdd32, 4, 1, 1, false, onWords (fun a b => a + b)),
   (.amoAdd64, 8, 2, 2, false, fun _ old d _ => (some ((old + d) % 2 ^ 64), 0)),
   (.amoFaddF32, 4, 1, 1, true, fun m old d _ => (some (sumOf fp32 m old d).1, (sumOf fp32 m old d).2)),
   (.amoFaddBh2, 4, 1, 1, true, fun m old d _ =>
      let a := sumOf bf16 m (old % 2 ^ 16) (d % 2 ^ 16)
      let b := sumOf bf16 m (old / 2 ^ 16 % 2 ^ 16) (d / 2 ^ 16 % 2 ^ 16)
      (some (a.1 + 2 ^ 16 * b.1), a.2 ||| b.2)),
   (.amoMinS32, 4, 1, 1, false, onWords (fun a b => if a.toInt ≤ b.toInt then a else b)),
   (.amoMinN32, 4, 1, 1, false, onWords (fun a b => if a.toNat ≤ b.toNat then a else b)),
   (.amoMaxS32, 4, 1, 1, false, onWords (fun a b => if a.toInt ≤ b.toInt then b else a)),
   (.amoMaxN32, 4, 1, 1, false, onWords (fun a b => if a.toNat ≤ b.toNat then b else a)),
   (.amoAnd32, 4, 1, 1, false, onWords (fun a b => a &&& b)),
   (.amoOr32, 4, 1, 1, false, onWords (fun a b => a ||| b)),
   (.amoXor32, 4, 1, 1, false, onWords (fun a b => a ^^^ b)),
   (.amoXchg32, 4, 1, 1, false, fun _ _ d _ => (some d, 0)),
   (.amoXchg64, 8, 2, 2, false, fun _ _ d _ => (some d, 0)),
   (.amoCas32, 4, 2, 1, false, fun _ old d c => (if old = c then some d else none, 0)),
   (.amoCas64, 8, 4, 2, false, fun _ old d c => (if old = c then some d else none, 0)),
   (.amoIncN32, 4, 1, 1, false, fun _ old d _ => (some (if d ≤ old then 0 else old + 1), 0))]

/-- Operand j of an atomic in a lane: 32 or 64 bits (R243). -/
def amoOperand (i : Iss) (x : MF) (size L j : Nat) : Nat :=
  if size = 8 then (i.g.srcAt x.d (2 * j) L).toNat + 2 ^ 32 * (i.g.srcAt x.d (2 * j + 1) L).toNat
  else (i.g.srcAt x.d j L).toNat

/-- The lanes of an atomic one after the other: each lane's old value, the entries returned, the exceptions. -/
def updateLanes (i : Iss) (x : MF) (size r : Nat) (f : RMode → Nat → Nat → Nat → Option Nat × Word)
    (o : AOrd) (e : Option Sig) (t : State) (l : List (Nat × Loc)) :
    List (Nat × List Word) × Sig × Word × State :=
  l.foldl (fun p q =>
    let new := fun (old : List Byte) => f (rndOf i.cur.hints).rm (natOfBytes old)
      (amoOperand i x size q.1 0) (amoOperand i x size q.1 1)
    let a := p.2.2.2.amoLoc i.r.gref q.2 size o (if p.2.2.2.carries q.2 then e else none)
      (fun old => (new old).1.map (bytesOfNat size))
    (p.1 ++ [(q.1, wordsOf a.1 r)], p.2.1 ||| a.2.1, p.2.2.1 ||| (new a.1).2, a.2.2.winDrop i q.2 size))
    ([], 0, 0, t)

/-- How the format-E instructions issue: `mem` says that an acquire holds the unit (R235, R246). -/
def issueEng (sig : OpSig) (mem : Bool) : Issue := { sig := sig, acc := { ft := true }, mem := mem, dOp := .d }

/-- The fences of R247 that release, each with whether it acquires as well; `FENCE.sc` has its own clause. -/
def releaseFences : List ((EF → Instr) × Bool) := [(.fenceRel, false), (.fenceAr, true)]

/-- The four fences; whether each acquires. -/
def fences : List ((EF → Instr) × Bool) :=
  [(.fenceAcq, true), (.fenceRel, false), (.fenceAr, true), (.fenceSc, true)]

/-- The release, the atomic on the fence word and the acquire of a `FENCE.sc` (R247, R300). -/
def fencedSc (s : State) (i : Iss) (scope : Nat) : State :=
  let t := s.fenceRel i.r.gref scope
  (if 4 ≤ scope then t.fenceWord i.r.gref scope else t).acquireAt i.r scope

/-- The barrier record of a name (R210). -/
def barOf (i : Iss) (n : Nat) : Barrier :=
  i.b.bars.getD n { isOpen := false, low := 0, high := 0, count := 0, arrivals := 0, phase := 0 }

/-- The group member mask, the lane mask and the count of an arrival (R210). -/
def barLow (i : Iss) (x : EF) : Word := i.g.srcAt x.a 0 0
def barHigh (i : Iss) (x : EF) : Word := i.g.srcAt x.a 1 0
def barCount (i : Iss) (x : EF) : Word := i.g.src x.b 0

/-- The membership pair of an arrival keeps its limits (R210). -/
def barMembers (i : Iss) (x : EF) : Prop :=
  (barLow i x).toNat < 2 ^ 16 ∧ barLow i x ≠ 0 ∧ (barLow i x).toNat < 2 ^ i.b.groups.length ∧ barHigh i x ≠ 0

/-- The operands of an arrival keep their limits (R210): members of the block, lanes, and a count from 1 to
their product. -/
def barLegal (i : Iss) (x : EF) : Prop :=
  barMembers i x ∧ barCount i x ≠ 0 ∧
  (barCount i x).toNat ≤ ((List.range 32).countP (fun n => (barLow i x).getLsbD n)) *
    ((List.range 32).countP (fun n => (barHigh i x).getLsbD n))

/-- An arrival matches (R211): an open phase's operands, membership, the lanes, and a fused group's lanes. -/
def barMatches (i : Iss) (x : EF) : Prop :=
  let k := barOf i (x.m.toNat % 16)
  (k.isOpen = true → k.low = barLow i x ∧ k.high = barHigh i x ∧ k.count = barCount i x) ∧
  (barLow i x).getLsbD i.r.grp = true ∧ i.cur.active &&& ~~~barHigh i x = 0 ∧
  (i.g.fused = true → i.cur.active = barHigh i x &&& i.g.live)

/-- The arrival of a unit at its name: the phase, whether it completes it, and the state (R211). -/
def arrival (s : State) (i : Iss) (x : EF) : Nat × Bool × State :=
  s.arrive i (x.m.toNat % 16) (barLow i x) (barHigh i x) (barCount i x)

/-- A barrier object of a unit: aligned, in the scratchpad that x0 reaches, valid (R213, R249). -/
def objectAt (i : Iss) (w : Word) (k : AccKind) : Prop :=
  w.toNat % 16 = 0 ∧ ∃ l, resolveScr i.b i.g i.r.gref w.toInt 16 k = .ok l

/-- The bytes of a unit's barrier object, its PHASE and its VALID bit (R213). -/
def objBytes (s : State) (i : Iss) (w : Word) : List Byte := s.ownRead i.r.gref w.toNat 16
def phaseAt (s : State) (i : Iss) (w : Word) : Nat := natOfBytes (((objBytes s i w).drop 8).take 2)
def validAt (s : State) (i : Iss) (w : Word) : Prop :=
  natOfBytes (((objBytes s i w).drop 10).take 1) % 2 = 1

/-- The 24-byte handle entry words that `HQRY` reads (R254). -/
def queried (s : State) (i : Iss) (x : EF) : Word × Word :=
  if x.b = 3 then (BitVec.ofNat 32 i.g.ctx.hcount, 0)
  else match (s.handleEntry i.b.core.die i.r.gref i.g.ctx (i.g.src x.a 0).toNat).1 with
    | .error _ => (0, 0)
    | .ok e =>
      let o := if x.b = 0 then 8 else if x.b = 1 then 0 else 16
      (BitVec.ofNat 32 (natOfBytes ((e.bytes.drop o).take 4)),
        BitVec.ofNat 32 (natOfBytes ((e.bytes.drop (o + 4)).take 4)))

/-- The entry that a query reads is not on a lost die (R288). -/
def entryReached (s : State) (i : Iss) (x : EF) : Prop :=
  x.b = 3 ∨ ∀ t, (s.handleEntry i.b.core.die i.r.gref i.g.ctx (i.g.src x.a 0).toNat).1 = .error t → t.cause ≠ cDieLost

/-- The state after the entry was read. -/
def afterQuery (s : State) (i : Iss) (x : EF) : State :=
  if x.b = 3 then s else (s.handleEntry i.b.core.die i.r.gref i.g.ctx (i.g.src x.a 0).toNat).2

/-- A pair of s registers written. -/
def setPair (g : Group) (d : BitVec 6) (w : Word × Word) : Group :=
  (g.sSet (d.toNat - 48) w.1).sSet (d.toNat - 48 + 1) w.2

/-- Word j of the parameter pack of an engine instruction (R400). -/
def packAt (i : Iss) (x : EF) (j : Nat) : Word := i.g.srcAt x.a j 0

/-- An engine instruction that starts from the state t: its acquire first, then its identity and entry
(R329, R401, R414). -/
def starts (t : State) (i : Iss) (x : EF) (kind : EngKind) (obj : Nat) (rel : Bool) : State :=
  let a := t.engAcquire i x
  { a with
    nextId := a.nextId + 1,
    engines := a.engines ++ [{
      id := a.nextId, grp := i.r.gref, sp := i.r.sp, depth := i.g.gates.length,
      level := i.g.level, kind := kind, obj := obj, rel := rel, scope := x.m.toNat % 8,
      asid := i.g.ctx.asid, fdom := i.g.ctx.fdom, die := i.b.core.die, wait := none, began := false }] }

/-- The row instructions, each with the reading of its pack (R410). -/
def rowForms : List ((EF → Instr) × ((Nat → Word) → RowArgs)) :=
  [(.rowcpy, fun w =>
      { op := none, dst := (w 0).toInt, srcs := [(w 1).toInt], rows := (w 2).toNat, pat := none, obj := w 3,
        strict := (w 4).getLsbD 0,
        ok := decide ((w 4).toNat < 2) && decide (1 ≤ (w 2).toNat) && decide ((w 2).toNat ≤ 4096) }),
   (.rowfill, fun w =>
      { op := none, dst := (w 0).toInt, srcs := [], rows := (w 1).toNat,
        pat := some (BitVec.ofNat 64 ((w 2).toNat + 2 ^ 32 * (w 3).toNat)), obj := w 4,
        strict := (w 5).getLsbD 0,
        ok := decide ((w 5).toNat < 2) && decide (1 ≤ (w 1).toNat) && decide ((w 1).toNat ≤ 4096) }),
   (.rowop, fun w =>
      let op := (w 6).toNat / 2 % 8
      { op := some op, dst := (w 0).toInt,
        srcs := if op = 3 then [(w 1).toInt] else if op = 4 then [(w 1).toInt, (w 2).toInt, (w 3).toInt]
          else [(w 1).toInt, (w 2).toInt],
        rows := (w 4).toNat, pat := none, obj := w 5, strict := (w 6).getLsbD 0,
        ok := decide ((w 6).toNat < 16) && decide (op ≤ 4) && decide (1 ≤ (w 4).toNat) &&
          decide ((w 4).toNat ≤ 4096) })]

/-- The two bindings of a row instruction name row-capable memory, and its rows and ranges keep their bounds
(R409, R411). -/
def rowsLegal (a : RowArgs) (dx sx : XReg) : Prop :=
  rowCapable dx = true ∧ rowCapable sx = true ∧ rowAligned dx a.dst = true ∧
  (∀ o ∈ a.srcs, rowAligned sx o = true) ∧ rowRange dx a.dst (1024 * a.rows) .engW = none ∧
  (∀ o ∈ a.srcs, rowRange sx o (1024 * a.rows) .engR = none)

/-- The rows found lie in memory of classes that rows may be in, and no source row is a destination row but
for an operation on the very same rows (R411). -/
def rowsClear (a : RowArgs) (dst : List (Nat × Nat)) (srcs : List (List (Nat × Nat))) : Prop :=
  (∀ p ∈ dst ++ srcs.flatten, p.2 ≠ 0 ∧ p.2 ≠ 2) ∧
  ∀ l ∈ srcs, (a.op.isSome = true ∧ l = dst) ∨ ∀ p ∈ l, ∀ q ∈ dst, q.1 ≠ p.1

/-- A source row is of another row group than its destination (R409, R412). -/
def fallsBack (dst : List (Nat × Nat)) (srcs : List (List (Nat × Nat))) : Bool :=
  rowFallback (dst.map (fun p => p.1)) (srcs.map (fun l => l.map (fun p => p.1)))

/-- The scratchpad ranges that a product reads beside its format block (R315, R317, R336). -/
def productRuns (i : Iss) (lat boff K : Nat) (fa fb : FmtRec) : List (Nat × Nat) :=
  (boff, bBytes fb.fmt K) ::
    (scaleRuns fa K ((i.g.latchIdx lat).map (fun w => w.toNat)) ++ scaleRuns fb K (List.range 64))

/-- Whether a product's operands keep their limits (R315, R316, R336). -/
def productLegal (lut : Bool) (i : Iss) (x : EF) : Prop :=
  let c := (packAt i x 0).toNat
  let bs := Memory.read i.b.scr (packAt i x 2).toNat 32
  c < 16 ∧ (packAt i x 2).toNat % 32 = 0 ∧ i.scrFault [((packAt i x 2).toNat, 32)] = none ∧
  fmtOk lut bs = true ∧ ((i.g.latches[c % 2]?).map (fun l => l.valid)).getD false = true ∧
  (packAt i x 1).toNat % 128 = 0 ∧
  i.scrFault (productRuns i (c % 2) (packAt i x 1).toNat ((pairK lut (fmtRec bs 0).fmt (fmtRec bs 8).fmt).getD
    128) (fmtRec bs 0) (fmtRec bs 8)) = none

/-- The work that a product leaves in its queue (R336). -/
def productWork (lut : Bool) (i : Iss) (x : EF) : MWork :=
  let c := (packAt i x 0).toNat
  let bs := Memory.read i.b.scr (packAt i x 2).toNat 32
  let ganged := decide (c / 2 % 2 = 1)
  .mma x.d.toNat (c % 2) (packAt i x 1).toNat (packAt i x 2).toNat (fmtRec bs 0) (fmtRec bs 8) bs lut
    (if ganged then some (c / 4 % 4) else none) ganged

/-- A matrix instruction joins the open batch of its group (R319). -/
def queued (t : State) (r : GRef) (w : MWork) : State :=
  ({ t with nextId := t.nextId + 1 } : State).modGroup r
    (fun g => { g with mq := g.mq ++ [{ id := t.nextId, work := w, batch := none, level := g.level }] })

/-- The addresses that a gather reads, one for each lane (R335). -/
def gatherAt (i : Iss) (x : EF) (L : Nat) : Nat :=
  (packAt i x 0).toNat + (i.g.vGet x.b.toNat L).toNat * (packAt i x 1).toNat

/-- The elements of a tile that a move into it writes: row L, the columns from j (R334). -/
def tileWith (i : Iss) (x : EF) (j count : Nat) (tile : List Word) : List Word :=
  (lanesOf i.cur.active).foldl (fun t L => (List.range count).foldl (fun t c =>
    t.set (64 * L + j + c) (i.g.vGet (x.a.toNat + c) L)) t) tile

/-- A trap register of the issuing group: 0 at level 0 (R389). -/
def trapVal (i : Iss) (f : TrapRegs → Nat) : Nat := if i.g.level = 0 then 0 else f i.g.trap

/-- The special registers of R388 outside the debug agent's, each with what R389 says it reads. -/
def specials : List (Nat × (State → Iss → Nat → Nat)) :=
  [(0x00, fun _ _ L => L), (0x01, fun _ i _ => i.r.grp), (0x02, fun _ i _ => i.b.index),
   (0x03, fun _ i _ => i.b.core.die), (0x04, fun _ i _ => i.b.core.cluster),
   (0x05, fun _ i _ => i.b.core.core), (0x06, fun _ i _ => i.p.mask.toNat),
   (0x07, fun _ i _ => i.b.cohort % 2 ^ 6 + 2 ^ 8 * (i.b.rank % 2 ^ 5) + 2 ^ 15 * (i.b.sbk % 2 ^ 9)),
   (0x08, fun _ i _ => i.g.flags.toNat), (0x09, fun _ i _ => i.g.rgncnt.toNat),
   (0x0A, fun _ i _ => i.g.rgnpc.toNat % 2 ^ 32 / 4 * 4 + if i.g.rgnOpen then 1 else 0),
   (0x0C, fun s i _ => (s.cycles.getD (4 * i.b.core.die + i.b.core.cluster) 0).toNat),
   (0x0D, fun s _ _ => s.wall.toNat), (0x0E, fun s i L => s.cohmap i.b L),
   (0x10, fun _ i _ => trapVal i (fun t => t.cause.toNat)), (0x11, fun _ i _ => trapVal i (fun t => t.pc.toNat)),
   (0x12, fun _ i _ => trapVal i (fun t => t.mask.toNat)), (0x13, fun _ i _ => trapVal i (fun t => t.va.toNat)),
   (0x14, fun _ i _ => trapVal i (fun t => t.info.toNat)), (0x18, fun _ i _ => i.g.gatestat.toNat),
   (0x19, fun _ i _ => i.g.gates.length), (0x1C, fun _ i _ => i.g.vb), (0x1D, fun _ i _ => i.g.regcnt),
   (0x20, fun _ i _ => l2cap i.b.core.die), (0x21, fun s i _ => s.twincapWord i.b.core.die),
   (0x24, fun _ i _ => i.g.level + if i.g.debug then 4 else 0), (0x28, fun s i _ => s.engstat i)]

/-- How a read and a write of a special register issue (R388, R391, R392). -/
def issueSr (sig : OpSig) (ok : Iss → Bool) : Iss → Issue := fun i =>
  { issueEng sig false with field := if ok i then none else some .other }

/-- The CYCLE, WALL, TRAPPC and FAULTVA registers have 64 bits (R388). -/
def srWide (n : Nat) : Prop := n = 0x0C ∨ n = 0x0D ∨ n = 0x11 ∨ n = 0x13

/-- How a privileged instruction issues (R82, R362). -/
def issuePriv (sig : OpSig) (p : Iss → Bool) : Iss → Issue := fun i => { issueEng sig false with priv := p i }

/-- In handler mode outside the debug agent, in the debug agent, and in either (R82, R389). -/
def inAgent (i : Iss) : Bool := decide (i.g.level ≠ 0) && i.g.debug
def inMode (i : Iss) : Bool := decide (i.g.level ≠ 0)

/-- The privileged instructions, each with the mode that it needs (R82, R393, R394, R398, R399). -/
def privileged : List ((EF → Instr) × (Iss → Bool)) :=
  [(.tret, inMode), (.tretKill, inMode), (.dresume, inAgent), (.dresumeStep, inAgent),
   (.tlbiVa, inMode), (.tlbiAsid, inMode), (.tlbiAll, inMode),
   (.cmaintClean, inMode), (.cmaintFlush, inMode), (.cmaintSweep, inMode)]

/-- The leaves that the three forms of `TLBI` remove (R398). -/
def shotDown : List ((EF → Instr) × (Iss → EF → Leaf → Bool)) :=
  [(.tlbiVa, fun i x l => (l.g || l.asid == (i.g.src x.b 0).toNat % 2 ^ 16) &&
      decide (l.vbase ≤ (i.g.src64 x.a 0).toNat) && decide ((i.g.src64 x.a 0).toNat < l.vbase + l.size)),
   (.tlbiAsid, fun i x l => !l.g && l.asid == (i.g.src x.b 0).toNat % 2 ^ 16),
   (.tlbiAll, fun _ _ _ => true)]

/-- A step of the device that is enabled where `ok` holds and has the effect `f`. -/
def Happens (ins : Instr) (ok : State → Prop) (f : State → State) : Prop :=
  ∀ s : State, ok s → Populated (f s) → exec ins s = .next (f s)

/-- The opcodes that no instruction has (R82). -/
def unassigned (o : Nat) : Prop :=
  (0x8B ≤ o ∧ o ≤ 0x8F) ∨ o = 0x97 ∨ (0x9D ≤ o ∧ o ≤ 0x9F) ∨ o = 0xAD ∨ (0xEB ≤ o ∧ o ≤ 0xEF)

/-- An engine reset of a core (R326): every group's matrix state is thrown away, a group in an open region
restarts, another that has tiles receives `ENGINE_RESET`, and the tiles are invalid. -/
def resetGroups (c : CoreId) (s : State) : State :=
  (s.blocksOn c).foldl (fun s n => s.modBlock n (fun b => { b with
      tiles := b.tiles.map (fun _ => List.replicate 2048 0x7FC00000) }))
    ((s.groupsOn c).foldl (fun s r =>
      match s.group? r, s.blocks[r.blk]? with
      | some g, b =>
        let t := s.discardAll r
        if g.ended then t
        else if g.rgnOpen then t.modGroup r (fun g => { g with restart := true })
        else if (match b with | some b => b.tiles.isEmpty | none => true) then t
        else t.modGroup r (fun g => { g with async := g.async ++ [(cEngineReset, 0)] })
      | none, _ => s) s)

/-- An error in a tile (R326): the work that would write it is thrown away; a group in an open region restarts where it
had such work, another receives `ECC`. -/
def tileErrorGroups (blk tile : Nat) (s : State) : State :=
  (s.groupsOf blk).foldl (fun s r =>
    match s.group? r with
    | none => s
    | some g =>
      let writes := fun (it : MItem) => it.work.tile? == some tile
      let t := s.discard r writes
      if g.ended then t
      else if g.rgnOpen then (if g.mq.any writes then t.modGroup r (fun g => { g with restart := true }) else t)
      else t.pushFault r { cause := cEcc } (some tile) true) s

/-- A drain that has run out of time (R324, R326): pending work is thrown away. The groups that had some in an open region
restart, and with them the members of their gangs that are in one (log entry 33); the others that had some receive
`ENGINE_RESET`. -/
def drained (blk : Nat) (s : State) : State :=
  match s.blocks[blk]? with
  | none => s
  | some b =>
    let those := fun (p : Group → Bool) => (List.range b.groups.length).filter (fun n => (b.groups[n]?).any p)
    let mates := fun (l : List Nat) => (List.range 16).filter (fun n => l.contains n ||
      b.gang.any (fun w => w.getLsbD n && l.any (fun m => w.getLsbD m)))
    let gone := those (fun g => !g.mq.isEmpty)
    let again := (mates (mates (mates (mates (those (fun g => !g.mq.isEmpty && g.rgnOpen)))))).filter (fun n =>
      (b.groups[n]?).any (fun g => g.rgnOpen))
    let t := gone.foldl (fun s n => s.discard ⟨blk, n⟩ (fun _ => true)) s
    let t := again.foldl (fun s n => s.modGroup ⟨blk, n⟩ (fun g => { g with restart := true })) t
    (gone.filter (fun n => !again.contains n)).foldl (fun s n => s.modGroup ⟨blk, n⟩ (fun g => { g with
      async := g.async ++ [(cEngineReset, 0)] })) t

/-- A group that has entered a handler or the debug agent (R366, R367, R374): the frame keeps what R367 names, the trap
registers say what happened, and one split stands at the entry; everything else stays. -/
def atEntry (h : Group) (sp : Nat) (q : TrapInfo) (pc : Pc) (m : Mask) (va : BitVec 64) (pend : Option (Pc × Parked))
    (entry htab hcount : Nat) (debug : Bool) : Group :=
  let was := h.splits.getD sp none
  let f : HFrame := {
    splits := h.splits, sp := sp, pend := pend, s := h.landSaved.s.drop 12, k6 := h.kGet 6, k7 := h.kGet 7,
    x6 := h.x.getD 6 .unbound, x7 := h.x.getD 7 .unbound, flags := h.landSaved.flags, htab := h.ctx.htab,
    hcount := h.ctx.hcount, regs := h.trap, debug := h.debug }
  { h.landSaved with
    splits := [some { pc := BitVec.ofNat 55 entry, mask := (was.map (fun p => p.mask)).getD 0, st := .ready,
                      rlist := [], mstk := [], replay := none,
                      lastIssue := (was.map (fun p => p.lastIssue)).getD 0 }, none, none, none],
    x := (h.x.set 6 .unbound).set 7 .unbound, flags := 0, level := h.level + 1, debug := debug,
    freshS := h.freshS.filter (fun n => !(f.owed.any (fun o => o.s.contains n))),
    trap := { cause := BitVec.ofNat 32 q.cause, pc := BitVec.ofNat 64 pc.toNat, mask := m, va := va,
              info := BitVec.ofNat 32 (q.detail % 256 + 2 ^ 8 * (q.opnd % 16) + 2 ^ 16 * (q.acc % 16)) },
    ctx := { h.ctx with htab := htab, hcount := hcount }, frames := f :: h.frames }

/-- A split waits at `w` before the unit at `n`, and its block may go on (R195, R351). -/
def waitsAt (s : State) (r : SRef) (w : Wake) (n : Pc) : Prop :=
  s.wakeOf r = some (w, n) ∧ s.mayWake r.gref = true

/-- The instruction of a split that stands in frame `j` of its group waits at `w`, while the handler's code in the same entry
waits for nothing (R367). -/
def framed (s : State) (r : SRef) (g : Group) (j : Nat) (w : Wake) : Prop :=
  s.group? r.gref = some g ∧ s.mayWake r.gref = true ∧ s.wakeOf r = none ∧
  (∀ k < j, ∀ f, g.frames[k]? = some f → (f.splits.getD r.sp none).bind Split.wakeOf = none) ∧
  ∃ f n, g.frames[j]? = some f ∧ (f.splits.getD r.sp none).bind Split.wakeOf = some (w, n)

/-- That wait has ended: the split stands ready at the next unit in its frame. -/
def frameGoes (s : State) (r : SRef) (j : Nat) : State :=
  s.modGroup r.gref (fun g => { g with frames := modAt g.frames j (fun f => { f with
    splits := modAt f.splits r.sp (Option.map (fun p => match p.st with
      | .blocked _ n => { p with pc := n, st := .ready, replay := none }
      | _ => p)) }) })

/-- An s register of a frame's code written: the frame keeps s12 to s15 of it (R367). -/
def frameSet (s : State) (r : GRef) (j n : Nat) (w : Word) : State :=
  s.modGroup r (fun g => if n < 12 then { g with s := g.s.set n w }
    else { g with frames := modAt g.frames j (fun f => { f with s := f.s.set (n - 12) w }) })

/-- A load or atomic under way whose data may arrive (R49). -/
def arriving (s : State) (r : GRef) (id : Nat) (ld : PendLoad) : Prop :=
  (s.group? r).bind (fun g => g.loads.find? (fun l => l.id == id)) = some ld

/-- What its arrival leaves: its registers written in the lanes that still live, their operand-latch entries gone, its full
bits set, its exceptions in FLAGS (R48, R49, R191, R245). -/
def arrived (s : State) (r : GRef) (id : Nat) (ld : PendLoad) : State :=
  ((s.modGroup r (fun g => { g with
    v := ld.v.foldl (fun v n => putRow v n.1 (ld.lanes &&& g.liveAll) (fun L => n.2.getD L 0)) g.v,
    fe := ld.v.foldl (fun fe n => modAt fe n.1 (fun m => m ||| ld.lanes)) g.fe,
    s := ld.s.foldl (fun q n => q.set n.1 n.2) g.s,
    flags := g.flags ||| ld.flags,
    loads := g.loads.filter (fun l => l.id != id) })).dropRegs r (ld.v.map (fun n => n.1))).blockEnd r.blk

/-- The splits that wait for a phase of a name that has completed (R212). -/
def phaseWaiters (s : State) (blk name : Nat) (b : Block) : List SRef :=
  s.waiters (s.groupsOf blk) (fun r w => match w with
    | .bar n ph => n == name && b.phaseDone name ph && s.mayWake r.gref
    | _ => false)

/-- A command that Rolger starts: the next of its queue, of that code, in a package that runs (R419). -/
def startsAs (s : State) (e : CmdEntry) (code : Nat) : Prop :=
  s.starts e = true ∧ natOfBytes ((e.bytes.drop 0).take 2) = code ∧ s.boot = .running

/-- The queue without the entry that has started. -/
def taking (s : State) (e : CmdEntry) : State := { s with taken := dropFirst (fun q => q == e) s.taken }

/-- The argument of a command at an offset of its entry (R421). -/
def argOf (e : CmdEntry) (off n : Nat) : Nat := natOfBytes ((e.bytes.drop off).take n)

/-- The argument bytes and the limits of the commands of R421, and who may issue them (R420). -/
def limitsOk (e : CmdEntry) (named : List Nat) (chk : List (Nat × Bool)) : Prop := entryBad e named chk = none

/-- A command with its limits kept: its effect is `f` (R419 to R421). -/
def Commands (ins : CmdEntry → Instr) (code : Nat) (named : List Nat) (chk : CmdEntry → List (Nat × Bool))
    (pre : CmdEntry → State → Prop) (f : CmdEntry → State → State) : Prop :=
  ∀ e : CmdEntry, Happens (ins e)
    (fun s => startsAs s e code ∧ limitsOk e named (chk e) ∧ pre e (taking s e)) (fun s => f e (taking s e))

/-- What holds a `MAP` or `UNMAP` up: row instructions that its shootdown waits for, or a migration of one of its pages
(R398, R431). -/
def heldUp (s : State) (e : CmdEntry) : Prop :=
  s.rowsBusy = true ∨ ∃ m ∈ s.migrations, m.leaf.asid = argOf e 16 2 ∧
    m.leaf.vbase < argOf e 24 8 + 65536 * argOf e 40 4 ∧ argOf e 24 8 < m.leaf.vbase + m.leaf.size

/-- `TRACE` of a region is the descriptor at an address, in the context of its own groups too (R395, R425). -/
def traced (s : State) (q : Region) (a : Nat) : State :=
  ({ s with
      tracesOff := s.tracesOff.filter (fun d => d != a),
      blocks := s.blocks.map (fun (b : Block) =>
        if b.rcb == q.rcb then { b with groups := b.groups.map (Group.setTrace a) } else b) } :
    State).modRegion q.rcb (fun r => { r with trace := a })

/-- Replay is set to a mode, with a log that holds `w` entries (R428). -/
def replaySet (s : State) (e : CmdEntry) (mode w : Nat) : State :=
  { s with
    reckon := { mode := mode, addr := argOf e 24 8, size := argOf e 32 8, written := w, stopped := false, ords := [],
                amoOrds := [], diverged := [] },
    helms := s.helms.map (fun h => { h with next := 0 }) }

/-- The region that a command names (R420). -/
def namesRegion (q : Region) : CmdEntry → State → Prop := fun e s => s.region? (argOf e 16 8) = some q

/-- The one-result instructions on registers whose only effect is on their destination. -/
def regForms : List (RF → Instr) :=
  alu2.map (fun e => e.1) ++ alu2w.map (fun e => e.1) ++ shift64.map (fun e => e.1) ++
    alu1.map (fun e => e.1) ++ alu3.map (fun e => e.1) ++ [.imad64, .mov64]

/-- The register instructions that write one predicate, named by d[2:0]. -/
def predForms : List (RF → Instr) :=
  [.icmp32, .icmp64, .kop, .kmovKv] ++ votes.map (fun e => e.1)

/-- What of a group an instruction may write: v and s registers, predicates and `FLAGS`, in which lanes. -/
structure Writes where
  v : List Nat
  s : List Nat
  k : List Nat
  flags : Bool
  lanes : Mask

/-- `t` is `s` outside the issuing split and what `w` names: every other field of the package, every other
core, block and group, and within the group every other register, predicate, bit and lane. Of the cores, the
operand latch alone may differ. -/
def Unchanged (s t : State) (i : Iss) (w : Writes) : Prop :=
  { t with cur := s.cur, cores := s.cores, blocks := s.blocks } = s ∧
  (∀ c, { t.core c with latch := (s.core c).latch } = s.core c) ∧
  ∃ (b : Block) (g : Group), t.blocks = s.blocks.set i.r.blk b ∧
    { b with groups := i.b.groups } = i.b ∧ b.groups = i.b.groups.set i.r.grp g ∧
    { g with splits := i.g.splits, v := i.g.v, fe := i.g.fe, s := i.g.s, k := i.g.k,
             flags := i.g.flags, freshS := i.g.freshS, yielded := i.g.yielded } = i.g ∧
    (∀ n, n ∉ w.v → g.v[n]? = i.g.v[n]? ∧ g.fe[n]? = i.g.fe[n]?) ∧
    (∀ n L, w.lanes.getLsbD L = false → g.vGet n L = i.g.vGet n L) ∧
    (∀ n, n ∉ w.s → g.s[n]? = i.g.s[n]?) ∧
    (∀ n, n ∉ w.k → g.kGet n = i.g.kGet n) ∧
    (∀ n L, w.lanes.getLsbD L = false → (g.kGet n).getLsbD L = (i.g.kGet n).getLsbD L) ∧
    (w.flags = false → g.flags = i.g.flags)

/-- The frame of an instruction where `pre` holds: from every state in which it is ready, outside a single step and with
lanes that live on, a next state is unchanged outside what it writes. -/
def FramesWhere (ins : Instr) (u : Iss → Issue) (pre : State → Iss → Prop) (w : Iss → Writes) : Prop :=
  ∀ (s : State) (i : Iss) (t : State), Ready s u i → pre s i → s.away = none → i.g.step = none → i.g.ended = false →
    exec ins s = .next t → (∀ g, t.group? i.r.gref = some g → g.live ≠ 0) → Unchanged s t i (w i)

/-- The frame of an instruction that has its effect from every state in which it is ready. -/
def Frames (ins : Instr) (u : Iss → Issue) (w : Iss → Writes) : Prop := FramesWhere ins u always w

/-- What an instruction on registers writes besides predicates: the registers of its d. -/
def Writes.dest (sig : OpSig) (d : BitVec 6) (flags : Bool) (lanes : Mask) : Writes :=
  { v := sig.dR.vRegs d, s := sig.dR.sRegs d, k := [], flags := flags, lanes := lanes }

/-- The floating-point instructions and conversions with one destination and no third source, each with the fields of an
`XRND` word that it accepts. -/
def fpForms : List ((RF → Instr) × (BitVec 24 → Bool)) :=
  fpArith.map (fun e => (e.1, rnd2)) ++ fpMinMax.map (fun e => (e.1, rndC)) ++
  [(.fabs, fun _ => false), (.fneg, fun _ => false), (.fcpysF32, fun _ => false), (.fcpysF64, fun _ => false),
   (.fclass, fun _ => false), (.frnd, rndV), (.fsqrtF32, rndA), (.fsqrtF64, rndA), (.fldxF32, rndA), (.fldxF64, rndA),
   (.ffrxF32Frac, fun _ => false), (.ffrxF64Frac, fun _ => false), (.ffrxF32Exp, fun _ => false),
   (.ffrxF64Exp, fun _ => false)] ++ fpApprox.map (fun e => (e.1, rndV)) ++
  [(.cvtff, rndA), (.cvtfi, rndA), (.cvtif, rndOk true false false false false)]

/-- The packing instructions, each with the hint fields it accepts and the format bytes under which it does not trap. -/
def packForms : List ((RF → Instr) × Bool × Bool × Bool × (Nat → Bool)) :=
  [(.pk8, true, true, true, fun n => (b8Of n).isSome),
   (.unpk8, true, false, false, fun n => (b8Of n).isSome || n == 3 || n == 4),
   (.pkbs, false, true, true, fun n => (b8Of n).isSome)]

/-- The lanes of an access through x0 outside gate calls and stashes stay in the block's scratchpad. -/
def inScratch (i : Iss) (sig : OpSig) (x : MF) (size : Nat) : Prop :=
  i.g.x.getD x.x.toNat .unbound = .scratch ∧ i.g.gates = [] ∧ i.b.stashes = [] ∧
  ∀ p ∈ offsetsOf i sig x, 0 ≤ p.2 ∧ p.2 + size ≤ i.b.scrSize

/-- The state with a block's scratchpad replaced. -/
def withScr (s : State) (i : Iss) (m : List Host.Cell) : State :=
  { s with blocks := s.blocks.set i.r.blk { i.b with scr := m } }

/-- The value of a finite number; NaNs and infinities have none. -/
def valQ : FVal → ℚ
  | .fin n m e => (if n then -1 else 1) * m * (2 : ℚ) ^ e
  | _ => 0

def isFin : FVal → Bool
  | .fin _ _ _ => true
  | _ => false

/-- The sign of a value; a NaN has none. -/
def signOf : FVal → Bool
  | .fin n _ _ => n
  | .inf n => n
  | .nan _ => false

/-- The formats of R102. -/
def formats : List FFmt := [fp64, fp32, fp16, bf16]

/-- The finite patterns of a format. -/
def finite (f : FFmt) (b : Nat) : Prop := b < 2 ^ f.w ∧ isFin (f.decode b) = true

/-- The rounding rows of R104: `d` is what x rounds to, where the result is finite. -/
def roundsTo {K : Type} [Field K] [LinearOrder K] (f : FFmt) (m : RMode) (x : K) (d : Nat) : Prop :=
  let val := fun (b : Nat) => ((valQ (f.decode b) : ℚ) : K)
  match m with
  | .rne => ∀ b, finite f b → |val d - x| ≤ |val b - x| ∧ (|val d - x| = |val b - x| → val b ≠ val d → d % 2 = 0)
  | .rtz => |val d| ≤ |x| ∧ ∀ b, finite f b → |val b| ≤ |x| → |val d - x| ≤ |val b - x|
  | .rup => x ≤ val d ∧ ∀ b, finite f b → x ≤ val b → val d ≤ val b
  | .rdn => val d ≤ x ∧ ∀ b, finite f b → val b ≤ x → val b ≤ val d

/-- Whether x, rounded with the exponent range unbounded, exceeds the largest finite value of a format (R107): `past` is
the number that would follow it. -/
def overflows {K : Type} [Field K] [LinearOrder K] (f : FFmt) (m : RMode) (neg : Bool) (x : K) : Prop :=
  let top : K := ((valQ (f.decode (f.inf - 1)) : ℚ) : K)
  let past : K := 2 ^ (f.emax + 1)
  match m with
  | .rne => top + past ≤ 2 * |x|
  | _ => if toward m neg then past ≤ |x| else top < |x|

/-- Whether x, rounded to precision p with the exponent range unbounded, is smaller in magnitude than the least normal number
(R104): below that the numbers stand `gap` apart, and at precision 1 a tie goes to the even exponent field (R112). -/
def tiny {K : Type} [Field K] [LinearOrder K] (p : Nat) (low : K) (m : RMode) (neg : Bool) (x : K) : Prop :=
  let gap := low / 2 ^ p
  match m with
  | .rne => if p = 1 then 2 * |x| + gap ≤ 2 * low else 2 * |x| + gap < 2 * low
  | _ => if toward m neg then |x| < low else |x| + gap ≤ low

/-- A pattern with its flags is the one rounding of x, whose sign is `neg` (R104, R107): OF exactly where x, rounded with the
exponent range unbounded, leaves the finite range, UF exactly where it is tiny and inexact, NX exactly where the pattern
differs from x, and no other flag. -/
def rightly {K : Type} [Field K] [LinearOrder K] (f : FFmt) (m : RMode) (neg : Bool) (x : K) (r : Nat × Word) :
    Prop :=
  r.1 < 2 ^ f.w ∧ f.isNeg r.1 = neg ∧ (r.2 &&& fOF ≠ 0 ↔ overflows f m neg x) ∧
  (r.2 &&& fUF ≠ 0 ↔ tiny f.p (2 ^ (1 - (f.emax : Int))) m neg x ∧ r.2 &&& fNX ≠ 0) ∧
  r.2 ||| fOF ||| fUF ||| fNX = fOF ||| fUF ||| fNX ∧
  (r.2 &&& fOF = 0 → isFin (f.decode r.1) = true ∧ roundsTo f m x r.1 ∧
    (r.2 &&& fNX = 0 ↔ ((valQ (f.decode r.1) : ℚ) : K) = x)) ∧
  (r.2 &&& fOF ≠ 0 → r.2 &&& fNX ≠ 0 ∧ (∀ b, finite f b → |((valQ (f.decode b) : ℚ) : K)| < |x|) ∧
    r.1 = f.signed neg (if toward m neg then f.inf - 1 else f.inf))

/-- The whole number that a rounding takes x to (R104). -/
def toWhole (m : RMode) (x : ℚ) (z : ℤ) : Prop :=
  match m with
  | .rne => 2 * |x - z| ≤ 1 ∧ (2 * |x - z| = 1 → z % 2 = 0)
  | .rtz => |(z : ℚ)| ≤ |x| ∧ |x| < |(z : ℚ)| + 1 ∧ 0 ≤ x * z
  | .rup => x ≤ z ∧ (z : ℚ) < x + 1
  | .rdn => (z : ℚ) ≤ x ∧ x < z + 1

/-- The number of a binary8 code without its sign (R109), for codes that go on upward without bound (R112). -/
def mag8 (f : B8) (c : Nat) : ℚ :=
  let w := (if f.s then 8 else 9) - f.p
  let bias : Int := 2 ^ (w - 1)
  let e := c / 2 ^ (f.p - 1)
  let fr := c % 2 ^ (f.p - 1)
  if e = 0 then fr * (2 : ℚ) ^ (1 - bias - ((f.p : Int) - 1))
  else ((2 ^ (f.p - 1) + fr : Nat) : ℚ) * (2 : ℚ) ^ ((e : Int) - bias - ((f.p : Int) - 1))

/-- The code to which a binary8 rounding takes x, a tie of RNE to the one with bit 0 clear (R112). -/
def rounds8 (f : B8) (m : RMode) (neg : Bool) (x : ℚ) (c : Nat) : Prop :=
  match m with
  | .rne => ∀ b : Nat, |mag8 f c - (|x|)| ≤ |mag8 f b - (|x|)| ∧
      (|mag8 f c - (|x|)| = |mag8 f b - (|x|)| → b ≠ c → c % 2 = 0)
  | _ => if toward m neg then mag8 f c ≤ |x| ∧ |x| < mag8 f (c + 1)
      else |x| ≤ mag8 f c ∧ (c = 0 ∨ mag8 f (c - 1) < |x|)

/-- The code of a binary8 magnitude with its sign: zero has none (R109, R112). -/
def code8 (f : B8) (neg : Bool) (c : Nat) : Nat := if neg ∧ f.s ∧ c ≠ 0 then c + 0x80 else c

/-- The NaN of a binary8 format, the code of its infinity or else of its largest finite magnitude, and that of the largest
finite one (R109). -/
def nan8 (f : B8) : Nat := if f.s then 0x80 else 0xFF
def top8 (f : B8) : Nat := if f.s then 0x7F else 0xFE
def max8 (f : B8) : Nat := if f.i then top8 f - 1 else top8 f

/-- What a number below the range of an unsigned format gives (R113). -/
def below8 (f : B8) (o : OMode) : Nat × Word := if o = .sat then (0, fCL ||| fNX) else (nan8 f, fIV)

/-- An FP32 pattern lies within a bound of a number, both in units of 2^-256 (R166). -/
def within (r : Word) (y bound : Int) : Prop :=
  ∃ n m e, fp32.decode r.toNat = .fin n m e ∧ |toFx n m e - y| ≤ bound

/-- An exact FP32 result, which raises nothing. -/
def isExactly (r : Word × Word) (q : ℚ) : Prop :=
  isFin (fp32.decode r.1.toNat) = true ∧ valQ (fp32.decode r.1.toNat) = q ∧ r.2 = 0

/-- Words of the spec's encodings, each with the instruction that it stands for. -/
def samples : List (Word × Instr) :=
  [(0x00042D18, .iadd32 ⟨1, 2, 52, 3, 0, 0⟩), (0x4D1820C2, .ffmaF32 ⟨6, 2, 3, 0, 1, 0⟩),
   (0xA4144400, .ld32 ⟨5, 4, 2, 0, 0, 0, 0⟩), (0xA9144634, .st32 ⟨5, 4, 3, 0, 3, 0, 4⟩),
   (0x905FFFF8, .bra ⟨2, 1, 0xFFFF8⟩), (0x88D02600, .redux ⟨52, 2, 24, 0, 0, 0⟩),
   (0x890C2040, .matchLead ⟨3, 2, 1, 0, 0, 0⟩), (0xD1F30114, .cpq ⟨60, 48, 4, 0x14⟩),
   (0xDDE748C8, .rowop ⟨57, 52, 35, 8⟩), (0xD9E40000, .mfence ⟨57, 0, 0, 0⟩),
   (0xDE036001, .gang ⟨0, 54, 0, 1⟩), (0xE1034011, .srw ⟨0, 52, 0, 0x11⟩),
   (0xE2000001, .tretKill ⟨0, 0, 0, 1⟩), (0xE60340C0, .fork ⟨0, 52, 3, 0⟩),
   (0xE8034D80, .tlbiVa ⟨0, 52, 54, 0⟩), (0x9A000000, .nop ⟨0, 0, 0, 0, 0, 0⟩)]

/-- The hint words of a unit are empty. -/
def noHints (h : Hints) : Prop :=
  h.ximm = none ∧ h.xsrc = none ∧ h.xrnd = none ∧ h.xsch = none ∧ h.xrcv = none

end Sys2Proof.Claims

open Sys2Proof Sys2Proof.Machine Sys2Proof.Safety Sys2Proof.Claims

/-- R131, R133, R144: a two-source instruction writes its row's result in every lane of `Part`, or once on the
scalar pipe, and is complete. -/
def Obligations.TwoSourceResults : Prop :=
  ∀ e ∈ alu2, ∀ x : RF, Completes (e.1 x) (fun _ => issueR (sigOf (e.1 x)) x) always
    (onGroup (fun i => i.g.dst x.d (i.part x.g) (fun L => e.2 (i.g.src x.a L) (i.g.src x.b L))))

/-- R131, R133: the forms on register pairs, `IMAD.64` among them. -/
def Obligations.PairResults : Prop :=
  (∀ e ∈ alu2w, ∀ x : RF, Completes (e.1 x) (fun _ => issueR (sigOf (e.1 x)) x) always
    (onGroup (fun i => i.g.dst64 x.d (i.part x.g) (fun L => e.2 (i.g.src64 x.a L) (i.g.src64 x.b L))))) ∧
  (∀ e ∈ shift64, ∀ x : RF, Completes (e.1 x) (fun _ => issueR (sigOf (e.1 x)) x) always
    (onGroup (fun i => i.g.dst64 x.d (i.part x.g) (fun L => e.2 (i.g.src64 x.a L) (i.g.src x.b L))))) ∧
  (∀ x : RF, Completes (.imad64 x) (fun _ => issueR (sigOf (.imad64 x)) x) always
    (onGroup (fun i => i.g.dst64 x.d (i.part x.g) (fun L => BitVec.ofNat 64
      ((i.g.src64 x.a L).toNat * (i.g.src64 x.b L).toNat + (i.g.src64 x.d L).toNat)))))

/-- R131, R133, R142: the one-source instructions; `MOV` and `MOV.64` copy, an s source to every lane. -/
def Obligations.OneSourceResults : Prop :=
  (∀ e ∈ alu1, ∀ x : RF, Completes (e.1 x) (fun _ => issueR (sigOf (e.1 x)) x) always
    (onGroup (fun i => i.g.dst x.d (i.part x.g) (fun L => e.2 (i.g.src x.a L))))) ∧
  (∀ x : RF, Completes (.mov64 x) (fun _ => issueR (sigOf (.mov64 x)) x) always
    (onGroup (fun i => i.g.dst64 x.d (i.part x.g) (fun L => i.g.src64 x.a L))))

/-- R131, R134, R136: the instructions that read d as a source. -/
def Obligations.ThirdSourceResults : Prop :=
  ∀ e ∈ alu3, ∀ x : RF, Completes (e.1 x) (fun _ => issueR (sigOf (e.1 x)) x) always
    (onGroup (fun i => i.g.dst x.d (i.part x.g)
      (fun L => e.2 (i.g.src x.a L) (i.g.src x.b L) (i.g.src x.d L))))

/-- R130, R132: `IADDC.32` and `ISUBB.32` add or subtract through k7 and write the carry or borrow to it. -/
def Obligations.CarryResults : Prop :=
  (∀ x : RF, Completes (.iaddc32 x) (fun _ => issueR (sigOf (.iaddc32 x)) x) always (onGroup (fun i =>
    let t := fun L => (i.g.src x.a L).toNat + (i.g.src x.b L).toNat + carryIn i x L
    (i.g.dst x.d (i.part x.g) (fun L => BitVec.ofNat 32 (t L))).setPred 7 (carryLanes i x)
      (fun L => decide (2 ^ 32 ≤ t L))))) ∧
  (∀ x : RF, Completes (.isubb32 x) (fun _ => issueR (sigOf (.isubb32 x)) x) always (onGroup (fun i =>
    let t := fun L => ((i.g.src x.a L).toNat : Int) - (i.g.src x.b L).toNat - carryIn i x L
    (i.g.dst x.d (i.part x.g) (fun L => BitVec.ofInt 32 (t L))).setPred 7 (carryLanes i x)
      (fun L => decide (t L < 0)))))

/-- R135: the bit-field instructions, where no lane holds a length above 32; where one does, they trap. -/
def Obligations.BitFieldResults : Prop :=
  ∀ e ∈ fieldOps, ∀ x : RF, Completes (e.1 x) (fun _ => issueR (sigOf (e.1 x)) x)
    (lengthsOk (sigOf (e.1 x)) x)
    (onGroup (fun i => i.g.dst x.d (i.part x.g)
      (fun L => e.2 (i.g.src x.a L) (i.g.src x.b L) (i.g.src x.d L)))) ∧
    Traps (e.1 x) (fun _ => issueR (sigOf (e.1 x)) x) (fun s i => ¬ lengthsOk (sigOf (e.1 x)) x s i)
      (fun _ => { cause := cIllegalOperand, opnd := 2 })

/-- R137 to R141: `SEL`, the compares, `KOP` and the moves between predicates and registers. -/
def Obligations.PredicateResults : Prop :=
  (∀ x : RF, Completes (.sel x) (fun _ => issueR (sigOf (.sel x)) x) always (onGroup (fun i =>
    i.g.dst x.d i.cur.active (fun L =>
      if (i.g.kGet x.g.toNat).getLsbD L then i.g.src x.a L else i.g.src x.b L)))) ∧
  (∀ x : RF, Completes (.icmp32 x) (fun _ => issueR (sigOf (.icmp32 x)) x) always (onGroup (fun i =>
    i.g.setPred (x.d.toNat % 8) (i.part x.g)
      (fun L => condHolds (x.d.toNat / 8) (i.g.src x.a L) (i.g.src x.b L))))) ∧
  (∀ x : RF, Completes (.icmp64 x) (fun _ => issueR (sigOf (.icmp64 x)) x) always (onGroup (fun i =>
    i.g.setPred (x.d.toNat % 8) (i.part x.g)
      (fun L => condHolds (x.d.toNat / 8) (i.g.src64 x.a L) (i.g.src64 x.b L))))) ∧
  (∀ x : IF, Completes (.icmpi32 x) (fun _ => issueI (sigOf (.icmpi32 x))) always (onGroup (fun i =>
    i.g.setPred (x.d.toNat % 8) i.cur.active
      (fun L => condHolds (x.d.toNat / 8) (i.g.src x.a L)
        (BitVec.ofInt 32 (immSigned i.cur.hints x)))))) ∧
  (∀ x : RF, Completes (.kop x) (fun _ => issueR (sigOf (.kop x)) x) always (onGroup (fun i =>
    i.g.setPred (x.d.toNat % 8) (i.part x.g) (fun L => kopBit (x.d.toNat / 8)
      ((i.g.kGet (x.a.toNat % 8)).getLsbD L) ((i.g.kGet (x.b.toNat % 8)).getLsbD L))))) ∧
  (∀ x : RF, Completes (.kmovKv x) (fun _ => issueR (sigOf (.kmovKv x)) x) always (onGroup (fun i =>
    i.g.setPred (x.d.toNat % 8) (i.part x.g) (fun L =>
      if isS x.a then (i.g.sGet (x.a.toNat - 48)).getLsbD L else i.g.vGet x.a.toNat L != 0)))) ∧
  (∀ x : RF, Completes (.kmovVk x) (fun _ => issueR (sigOf (.kmovVk x)) x) always (onGroup (fun i =>
    if isS x.d then i.g.sSet (x.d.toNat - 48) (maskOf (fun L =>
      (i.g.kGet (x.a.toNat % 8)).getLsbD L && (i.part x.g).getLsbD L))
    else i.g.vSet x.d.toNat (i.part x.g)
      (fun L => if (i.g.kGet (x.a.toNat % 8)).getLsbD L then 1 else 0))))

/-- R143: the immediate instructions act for every lane of `Active`. -/
def Obligations.ImmediateResults : Prop :=
  (∀ e ∈ aluI32, ∀ x : IF, Completes (e.1 x) (fun _ => issueI (sigOf (e.1 x))) always
    (onGroup (fun i => i.g.dst x.d i.cur.active (fun L =>
      e.2 (i.g.src x.a L) (immSigned i.cur.hints x) (immUnsigned i.cur.hints x))))) ∧
  (∀ x : IF, Completes (.iaddi64 x) (fun _ => issueI (sigOf (.iaddi64 x))) always
    (onGroup (fun i => i.g.dst64 x.d i.cur.active (fun L =>
      BitVec.ofInt 64 ((i.g.src64 x.a L).toNat + immSigned i.cur.hints x))))) ∧
  (∀ e ∈ shiftImm, ∀ x : IF, Completes (e.1 x)
    (fun i => { issueI (sigOf (e.1 x)) with
      field := if 0 ≤ immSigned i.cur.hints x ∧ immSigned i.cur.hints x ≤ 31 then none else some .other })
    always
    (onGroup (fun i => i.g.dst x.d i.cur.active (fun L =>
      e.2 (i.g.src x.a L) (immSigned i.cur.hints x).toNat))))

/-- R145: `MOVI` and `MOVHI`, without `XIMM` and with it. -/
def Obligations.MoveImmediateResults : Prop :=
  (∀ (x : KF) (s : State) (i : Iss), let u := issueI (sigOf (.movi x))
    i.cur.hints.ximm = none → Ready s (fun _ => u) i →
    ∀ t, t = ended s i u (s.putGroup i.r.gref (i.g.dst x.d i.cur.active
      (fun _ => BitVec.ofInt 32 x.imm.toInt))) → Populated t → exec (.movi x) s = .next t) ∧
  (∀ (x : KF) (s : State) (i : Iss) (p : BitVec 24), let u := issueI (sigOf (.movi x))
    i.cur.hints.ximm = some p → p.toNat < 2 ^ 14 → Ready s (fun _ => u) i →
    ∀ t, t = ended s i u (s.putGroup i.r.gref (i.g.dst x.d i.cur.active
      (fun _ => BitVec.ofNat 32 (p.toNat * 2 ^ 18 + x.imm.toNat)))) → Populated t →
      exec (.movi x) s = .next t) ∧
  (∀ (x : KF) (s : State) (i : Iss), let u := { issueI (sgMov x true) with dOp := .third }
    i.cur.hints.ximm = none → Ready s (fun _ => u) i →
    ∀ t, t = ended s i u (s.putGroup i.r.gref (i.g.dst x.d i.cur.active
      (fun L => BitVec.ofNat 32 (x.imm.toNat * 2 ^ 14 + (i.g.src x.d L).toNat % 2 ^ 14)))) →
      Populated t → exec (.movhi x) s = .next t) ∧
  (∀ (x : KF) (s : State) (i : Iss) (p : BitVec 24),
    let u := issueI { sgMov x false with d := x.d + 1 }
    i.cur.hints.ximm = some p → p.toNat < 2 ^ 14 → x.d.toNat % 2 = 0 → Ready s (fun _ => u) i →
    ∀ t, t = ended s i u (s.putGroup i.r.gref (i.g.dst (x.d + 1) i.cur.active
      (fun _ => BitVec.ofNat 32 (p.toNat * 2 ^ 18 + x.imm.toNat)))) → Populated t →
      exec (.movhi x) s = .next t)

/-- R147: a shuffle copies from a lane of the reading lane's own segment, where every selector of `Part` has
a segment code of 0 to 5; where one has another, it traps. -/
def Obligations.ShuffleResults : Prop :=
  ∀ e ∈ shuffles, ∀ x : RF,
    let u := fun (i : Iss) => { issueR (sigOf (e.1 x)) x with aMask := some (i.shflReads x e.2.1) }
    let legal := fun (i : Iss) => ∀ L ∈ lanesOf (i.part x.g), (i.g.src x.b L).toNat / 32 % 8 ≤ 5
    Completes (e.1 x) u (fun _ i => legal i)
      (onGroup (fun i => i.g.vSet x.d.toNat (i.part x.g) (fun L =>
        i.g.vGet x.a.toNat (shuffleFrom e.2.2 (i.g.src x.b L) L)))) ∧
    Traps (e.1 x) u (fun _ i => ¬ legal i) (fun _ => { cause := cIllegalOperand, opnd := 2 })

/-- R148, R149: the votes and the reductions, over the lanes of `Part` in which the filter holds. -/
def Obligations.VoteAndReduceResults : Prop :=
  (∀ e ∈ votes, ∀ x : RF, Completes (e.1 x) (fun _ => issueR (sigOf (e.1 x)) x) always
    (onGroup (fun i => i.g.setPred (x.d.toNat % 8) (i.part x.g)
      (fun _ => e.2 (yesOf i x) (votersOf i x (x.b.toNat % 8)))))) ∧
  (∀ x : RF, Completes (.voteBallot x)
    (fun _ => { issueR (sigOf (.voteBallot x)) x with sd := [x.d.toNat - 48] }) always
    (onGroup (fun i => i.g.sSet (x.d.toNat - 48) (maskOf (fun L => (yesOf i x).contains L))))) ∧
  (∀ x : RF, Completes (.redux x) (fun i => { issueR (sigOf (.redux x)) x with
      aMask := some (maskOf (fun L => (votersOf i x (x.b.toNat / 8)).contains L)) }) always
    (onGroup (fun i => i.g.sSet (x.d.toNat - 48) (reduced (x.b.toNat % 8)
      ((votersOf i x (x.b.toNat / 8)).map (fun L => i.g.src x.a L))))))

/-- R150, R151: `MATCH`, `MATCH.lead` and `LANEB`. -/
def Obligations.MatchResults : Prop :=
  (∀ x : RF, Completes (.matchSet x) (fun i => { issueR (sigOf (.matchSet x)) x with
      aMask := some (i.part x.g) }) always
    (onGroup (fun i => i.g.vSet x.d.toNat (i.part x.g)
      (fun L => maskOf (fun M => (sameAs i x L).contains M))))) ∧
  (∀ x : RF, Completes (.matchLead x) (fun i => { issueR (sigOf (.matchLead x)) x with
      aMask := some (i.part x.g) }) always
    (onGroup (fun i => i.g.vSet x.d.toNat (i.part x.g)
      (fun L => BitVec.ofNat 32 ((sameAs i x L).headD 0 + 32 * (sameAs i x L).length))))) ∧
  (∀ x : RF, Completes (.laneb x)
    (fun i => { issueR (sigOf (.laneb x)) x with
      aMask := some (maskOf (fun L => L == (i.g.sGet (x.b.toNat - 48)).toNat % 32)) }) always
    (onGroup (fun i => i.g.sSet (x.d.toNat - 48)
      (i.g.vGet x.a.toNat ((i.g.sGet (x.b.toNat - 48)).toNat % 32)))))

/-- R157, R158, R165, R178: each element is the exact sum, difference, product or quotient rounded once; a
fused product stays exact until its addend is in it, and one rounding follows. -/
def Obligations.FpArithmeticResults : Prop :=
  (∀ e ∈ fpArith, ∀ x : RF, Completes (e.1 x) (fun _ => issueF (sigOf (e.1 x)) x rnd2) always
     (onGroup (fun i => let r := rndOf i.cur.hints
       elementwise i x e.2.1 (fun L n => rounded i e.2.1
         (e.2.2 r.rm (valAt i e.2.1 x.a r.na n L) (valAt i e.2.1 x.b r.nb n L)))))) ∧
  (∀ e ∈ fpFused, ∀ x : RF,
    Completes (e.1 x) (issueF3 (sigOf (e.1 x)) (if e.2 = .f64 then 2 else 1) x) always
    (onGroup (fun i => let r := rndOf i.cur.hints
      elementwise i x e.2 (fun L n =>
        let p := (valAt i e.2 x.a r.na n L).mul (valAt i e.2 x.b r.nb n L)
        let q := p.1.add r.rm (valAt i e.2 ((hintSrc3 i.cur.hints).getD x.d) r.nc n L)
        rounded i e.2 (q.1, p.2 ||| q.2))))) ∧
  (∀ e ∈ [((Instr.fdot2H2 : RF → Instr), FTy.h2), (.fdot2Bh2, .bh2)], ∀ x : RF,
    Completes (e.1 x) (issueF3 (sigOf (e.1 x)) 1 x) always
    (onGroup (fun i => let r := rndOf i.cur.hints
      elementwise i x .f32 (fun L _ => rounded i .f32 (dot2 r.rm
        (valAt i e.2 x.a r.na 0 L) (valAt i e.2 x.b r.nb 0 L)
        (valAt i e.2 x.a r.na 1 L) (valAt i e.2 x.b r.nb 1 L)
        (valAt i .f32 ((hintSrc3 i.cur.hints).getD x.d) r.nc 0 L)))))) ∧
  (∀ (m : RMode) (a b c d e : FVal) (n : Bool), (a.mul b).1 = .inf n →
    (c.mul d).1 = .inf (!n) ∨ e = .inf (!n) → (dot2 m a b c d e).2 &&& fIV = fIV)

/-- R70, R159, R160: the minima and maxima, where a signalling NaN raises IV, and the compares, which write k p
(and k p + 1 for element 1 of the 16-bit types). -/
def Obligations.FpOrderResults : Prop :=
  (∀ e ∈ fpMinMax, ∀ x : RF, Completes (e.1 x) (fun _ => issueF (sigOf (e.1 x)) x rndC) always
     (onGroup (fun i => let r := rndOf i.cur.hints
       elementwise i x e.2.1 (fun L n =>
         let a := elemAt i e.2.1 x.a r.na n L
         let b := elemAt i e.2.1 x.b r.nb n L
         (extremum e.2.1.fmt e.2.2.1 e.2.2.2 a b,
           if e.2.1.fmt.decode a == .nan true || e.2.1.fmt.decode b == .nan true then fIV else 0))))) ∧
  (∀ e ∈ fpCompare, ∀ x : RF, Completes (e.1 x) (fun _ => issueF (sigOf (e.1 x)) x rndC) always
     (onGroup (fun i =>
       let r := rndOf i.cur.hints
       let va := fun n L => valAt i e.2 x.a r.na n L
       let vb := fun n L => valAt i e.2 x.b r.nb n L
       let c := x.d.toNat / 8
       let one := i.g.setPred (x.d.toNat % 8) (i.part x.g) (fun L => condFp c (va 0 L) (vb 0 L))
       let all := if elemsOf e.2 = 2 then
           one.setPred (x.d.toNat % 8 + 1) (i.part x.g) (fun L => condFp c (va 1 L) (vb 1 L)) else one
       all.orFlags r (i.part x.g) (fun L =>
         if (List.range (elemsOf e.2)).any (fun n => condInvalid c (va n L) (vb n L)) then fIV else 0))))

/-- R161 to R163: the operations on signs and classes raise no flag and read a NaN as a NaN; a class is that of the number,
by the table of R163. -/
def Obligations.FpSignResults : Prop :=
  (∀ e ∈ [((Instr.fabs : RF → Instr), false), (.fneg, true)], ∀ x : RF,
    Completes (e.1 x) (fun _ => issueF (sigOf (e.1 x)) x (fun _ => false)) always
    (onGroup (fun i => elementwise i x (typeOf x.b) (fun L n =>
      let t := (typeOf x.b).fmt
      let a := elemAt i (typeOf x.b) x.a false n L
      let top := 2 ^ (t.w - 1)
      (if (t.decode a).isNan then t.nan
       else a % top + (if e.2 && a < top then top else 0), 0))))) ∧
  (∀ e ∈ [((Instr.fcpysF32 : RF → Instr), FTy.f32), (.fcpysF64, .f64)], ∀ x : RF,
    Completes (e.1 x) (fun _ => issueF (sigOf (e.1 x)) x (fun _ => false)) always
    (onGroup (fun i => elementwise i x e.2 (fun L n =>
      let a := elemAt i e.2 x.a false n L
      let b := elemAt i e.2 x.b false n L
      let top := 2 ^ (e.2.fmt.w - 1)
      (if (e.2.fmt.decode a).isNan then e.2.fmt.nan
       else a % top + (if top ≤ b then top else 0), 0))))) ∧
  (∀ x : RF, Completes (.fclass x) (fun _ => issueF (sigOf (.fclass x)) x (fun _ => false)) always
    (onGroup (fun i => i.g.dst x.d (i.part x.g) (fun L => BitVec.ofNat 32
      (((List.range (elemsOf (typeOf x.b))).map (fun n =>
        (typeOf x.b).fmt.cls (elemAt i (typeOf x.b) x.a false n L) * 2 ^ (16 * n))).sum))))) ∧
  (∀ f ∈ formats, ∀ b < 2 ^ f.w,
    (f.decode b = .inf true → f.cls b = 2 ^ 0) ∧ (f.decode b = .inf false → f.cls b = 2 ^ 7) ∧
    (f.decode b = .nan true → f.cls b = 2 ^ 8) ∧ (f.decode b = .nan false → f.cls b = 2 ^ 9) ∧
    (isFin (f.decode b) = true → let q := valQ (f.decode b)
      let low := (2 : ℚ) ^ (1 - (f.emax : Int))
      (q ≤ -low → f.cls b = 2 ^ 1) ∧ (-low < q → q < 0 → f.cls b = 2 ^ 2) ∧
      (q = 0 → f.cls b = if f.isNeg b then 2 ^ 3 else 2 ^ 4) ∧
      (0 < q → q < low → f.cls b = 2 ^ 5) ∧ (low ≤ q → f.cls b = 2 ^ 6)))

/-- R164 to R169: the one-source instructions with a rounded result. `FRND` gives the whole number that its mode names, with
the sign of A, `FFRX` the fraction from 1/2 to 1 and the exponent that make up A. An approximation's result lies within its bound of y,
exactly at y in the exact cases, and the special inputs give what R167 says. For 2^A, log2 A, sin A and cos A, y is the
number that the model computes to some 240 bits (log entry 12, the model's choice). -/
def Obligations.FpUnaryResults : Prop :=
  (∀ x : RF, Completes (.frnd x) (fun _ => issueF (sigOf (.frnd x)) x rndV) always
    (onGroup (fun i => elementwise i x (typeOf x.b) (fun L n =>
      let a := valAt i (typeOf x.b) x.a (rndOf i.cur.hints).na n L
      let v := a.integral (frndMode x.b)
      (((typeOf x.b).fmt.round .rne v.1).1,
        (if a == .nan true then fIV else 0) ||| (if v.2 && x.b.getLsbD 4 then fNX else 0)))))) ∧
  (∀ e ∈ [((Instr.fsqrtF32 : RF → Instr), FTy.f32), (.fsqrtF64, .f64)], ∀ x : RF,
    Completes (e.1 x) (fun _ => issueF (sigOf (e.1 x)) x rndA) always
    (onGroup (fun i => elementwise i x e.2 (fun L n =>
      rounded i e.2 (valAt i e.2 x.a (rndOf i.cur.hints).na n L).sqrt)))) ∧
  (∀ e ∈ [((Instr.fldxF32 : RF → Instr), FTy.f32), (.fldxF64, .f64)], ∀ x : RF,
    Completes (e.1 x) (fun _ => issueF (sigOf (e.1 x)) x rndA) always
    (onGroup (fun i => elementwise i x e.2 (fun L n =>
      let a := valAt i e.2 x.a (rndOf i.cur.hints).na n L
      rounded i e.2 (a.scale (i.g.src x.b L).toInt, if a == .nan true then fIV else 0))))) ∧
  (∀ e ∈ [((Instr.ffrxF32Frac : RF → Instr), FTy.f32), (.ffrxF64Frac, .f64)], ∀ x : RF,
    Completes (e.1 x) (fun _ => issueF (sigOf (e.1 x)) x (fun _ => false)) always
    (onGroup (fun i => elementwise i x e.2 (fun L n => fracOf e.2.fmt (elemAt i e.2 x.a false n L))))) ∧
  (∀ e ∈ [((Instr.ffrxF32Exp : RF → Instr), FTy.f32), (.ffrxF64Exp, .f64)], ∀ x : RF,
    Completes (e.1 x) (fun _ => issueF (sigOf (e.1 x)) x (fun _ => false)) always
    (onGroup (fun i => elementwise i x .f32 (fun L n =>
      let q := expOf e.2.fmt (elemAt i e.2 x.a false n L)
      (q.1.toNat % 2 ^ 32, q.2))))) ∧
  (∀ e ∈ fpApprox, ∀ x : RF, Completes (e.1 x) (fun _ => issueF (sigOf (e.1 x)) x rndV) always
    (onGroup (fun i => elementwise i x .f32 (fun L n =>
      let q := e.2 (BitVec.ofNat 32 (elemAt i .f32 x.a (rndOf i.cur.hints).na n L))
      (q.1.toNat, q.2))))) ∧
  (∀ (m : RMode) (n : Bool) (k : Nat) (e : Int), ∃ j : Nat,
    (FVal.fin n k e).integral m = (.fin n j 0, decide (valQ (.fin n j 0) ≠ valQ (.fin n k e))) ∧
    toWhole m (valQ (.fin n k e)) (if n then -(j : Int) else j)) ∧
  (∀ (m : RMode) (v : FVal), isFin v = false → v.integral m = (v, false)) ∧
  (∀ f ∈ [fp64, fp32], ∀ b < 2 ^ f.w, let v := f.decode b
    let fr := fracOf f b
    let ex := expOf f b
    (isFin v = true → valQ v ≠ 0 → isFin (f.decode fr.1) = true ∧ 1 / 2 ≤ |valQ (f.decode fr.1)| ∧
      |valQ (f.decode fr.1)| < 1 ∧ valQ v = valQ (f.decode fr.1) * (2 : ℚ) ^ ex.1.toInt ∧ fr.2 = 0 ∧ ex.2 = 0) ∧
    (isFin v = true → valQ v = 0 → fr = (b, 0) ∧ ex = (0, 0)) ∧
    (∀ n, v = .inf n → fr = (b, 0) ∧ ex = (0x80000000, 0)) ∧
    (∀ q, v = .nan q → let fl := if q then fIV else 0
      fr = (f.nan, fl) ∧ ex = (0x80000000, fl))) ∧
  (∀ (a : Word) (n : Bool) (m : Nat) (e : Int), fp32.decode a.toNat = .fin n m e → m ≠ 0 →
    let A := valQ (.fin n m e)
    let v := toFx n m e
    let near := fun (r : Word × Word) (y bound : Int) => within r.1 y bound ∧ r.2 &&& fNX ≠ 0
    (|A| ≤ 2 ^ (-128 : Int) → rcp a = (if n then 0xFF800000 else 0x7F800000, fOF ||| fNX)) ∧
    (∀ k : Int, |A| = 2 ^ k → -128 < k → k ≤ 126 → isExactly (rcp a) (1 / A)) ∧
    (2 ^ (-128 : Int) < |A| → (∀ k : Int, k ≤ 126 → |A| ≠ 2 ^ k) →
      within (rcp a).1 (fxRcp n m e) (fxUlp (fxRcp n m e)) ∧
      ((rcp a).2 &&& fNX = 0 ↔ ∃ k : Int, |A| = 2 ^ k)) ∧
    (n = true → rsq a = (0x7FC00000, fIV) ∧ lg2 a = (0x7FC00000, fIV)) ∧
    (n = false → (∀ k : Int, A = 4 ^ k → isExactly (rsq a) (2 ^ (-k))) ∧
      ((∀ k : Int, A ≠ 4 ^ k) → near (rsq a) (fxRsq m e) (fxUlp (fxRsq m e)))) ∧
    (128 ≤ A → ex2 a = (0x7F800000, fOF ||| fNX)) ∧ (A ≤ -150 → ex2 a = (0, fUF ||| fNX)) ∧
    (-150 < A → A < 128 → (∀ k : Int, A = k → isExactly (ex2 a) (2 ^ k)) ∧
      ((∀ k : Int, A ≠ k) → near (ex2 a) (fxExp2 v)
        (if A < -126 then 2 ^ (fxBits - 148) else 2 * fxUlp (fxExp2 v)))) ∧
    (n = false → (∀ k : Int, A = 2 ^ k → isExactly (lg2 a) k) ∧
      ((∀ k : Int, A ≠ 2 ^ k) → near (lg2 a) (fxLog2 m e)
        (if 1 / 2 ≤ A ∧ A < 2 then 2 ^ (fxBits - 22) else 2 * fxUlp (fxLog2 m e)))) ∧
    ∀ p ∈ [(0x72, 0), (0x73, 1)], let y := fxInside (if p.2 = 0 then v else 2 ^ fxBits) (fxSin p.2 v)
      (|A| ≤ 32768 → near (trig p.1 p.2 a) y (if 4 * |v| ≤ fxPi then 2 * fxUlp y else 2 ^ (fxBits - 22))) ∧
      (32768 < |A| → isFin (fp32.decode (trig p.1 p.2 a).1.toNat) = true ∧
        |valQ (fp32.decode (trig p.1 p.2 a).1.toNat)| ≤ 1)) ∧
  (∀ (n : Bool) (m : Nat) (e : Int), 0 < m → -149 ≤ e → e ≤ 256 →
    (fxRcp n m e).natAbs * m ≤ 2 ^ (256 - e).toNat ∧ 2 ^ (256 - e).toNat < ((fxRcp n m e).natAbs + 1) * m ∧
    (fxRcp n m e < 0 → n = true) ∧ 0 ≤ fxRsq m e ∧
    (fxRsq m e).toNat ^ 2 * m ≤ 2 ^ (512 - e).toNat ∧ 2 ^ (512 - e).toNat < ((fxRsq m e).toNat + 1) ^ 2 * m) ∧
  (∀ (y : Int) (k : Nat), 2 ^ k ≤ y.natAbs → y.natAbs < 2 ^ (k + 1) → fxUlp y = 2 ^ (max (k - 23) 107)) ∧
  (∀ (a : Word) (q : Bool), fp32.decode a.toNat = .nan q →
    ∀ e ∈ fpApprox, e.2 a = (0x7FC00000, if q then fIV else 0)) ∧
  (∀ (a : Word) (n : Bool), fp32.decode a.toNat = .inf n →
    rcp a = (if n then 0x80000000 else 0, 0) ∧ rsq a = (if n then (0x7FC00000, fIV) else (0, 0)) ∧
    ex2 a = (if n then 0 else 0x7F800000, 0) ∧ lg2 a = (if n then (0x7FC00000, fIV) else (0x7F800000, 0)) ∧
    trig 0x72 0 a = (0x7FC00000, fIV) ∧ trig 0x73 1 a = (0x7FC00000, fIV)) ∧
  (∀ (a : Word) (n : Bool) (e : Int), fp32.decode a.toNat = .fin n 0 e →
    rcp a = (if n then 0xFF800000 else 0x7F800000, fDZ) ∧ rsq a = (if n then 0xFF800000 else 0x7F800000, fDZ) ∧
    ex2 a = (0x3F800000, 0) ∧ lg2 a = (0xFF800000, fDZ) ∧ trig 0x72 0 a = (if n then 0x80000000 else 0, 0) ∧
    trig 0x73 1 a = (0x3F800000, 0))

/-- R170 to R174: the conversions between floats and integers; to an integer as the table of R173 has it. -/
def Obligations.ConversionResults : Prop :=
  (∀ x : RF, Completes (.cvtff x) (fun _ => issueF (sigOf (.cvtff x)) x rndA) always
    (onGroup (fun i => converted i x (x.b.toNat % 4) (x.b.getLsbD 5) (fun L =>
      let v := halfVal i x (x.b.toNat / 4 % 4) (x.b.getLsbD 4) L
      rounded i (typeOf x.b) (v, if v == .nan true then fIV else 0))))) ∧
  (∀ x : RF, Completes (.cvtfi x) (fun _ => issueF (sigOf (.cvtfi x)) x rndA) always
    (onGroup (fun i =>
      let q := fun L => (halfVal i x (x.b.toNat % 4) (x.b.getLsbD 4) L).toInt
        (iTyOf (x.b.toNat / 4 % 4)) (rndOf i.cur.hints).rm
      (if 8 ≤ x.b.toNat % 16 then i.g.dst64 x.d (i.part x.g) (fun L => BitVec.ofInt 64 (q L).1)
       else i.g.dst x.d (i.part x.g) (fun L => BitVec.ofInt 32 (q L).1)).orFlags
        (rndOf i.cur.hints) (i.part x.g) (fun L => (q L).2)))) ∧
  (∀ x : RF, Completes (.cvtif x)
    (fun _ => issueF (sigOf (.cvtif x)) x (rndOk true false false false false)) always
    (onGroup (fun i => converted i x (x.b.toNat % 4) (x.b.getLsbD 4) (fun L =>
      let n := intVal i x (x.b.toNat / 4 % 4) L
      rounded i (typeOf x.b) (.fin (n < 0) n.natAbs 0, 0))))) ∧
  (∀ (t : Nat) (m : RMode), t < 4 →
    let lo : Int := [-(2 ^ 31), 0, -(2 ^ 63), 0].getD t 0
    let hi : Int := [2 ^ 31 - 1, 2 ^ 32 - 1, 2 ^ 63 - 1, 2 ^ 64 - 1].getD t 0
    (∀ (n : Bool) (k : Nat) (e : Int), ∃ z : Int, toWhole m (valQ (.fin n k e)) z ∧
      (FVal.fin n k e).toInt (iTyOf t) m = if hi < z then (hi, fIV) else if z < lo then (lo, fIV)
        else (z, if (z : ℚ) = valQ (.fin n k e) then 0 else fNX)) ∧
    (∀ n : Bool, (FVal.inf n).toInt (iTyOf t) m = (if n then lo else hi, fIV)) ∧
    ∀ q : Bool, (FVal.nan q).toInt (iTyOf t) m = (0, fIV))

/-- R108 to R113, R175 to R177: packing into and unpacking from 8-bit formats, where every lane's format byte names one; the
format bytes, the numbers of the codes, and the conversion into a format with its flags. -/
def Obligations.PackResults : Prop :=
  (∀ x : RF, Completes (.pk8 x) (issueP (sigOf (.pk8 x)) x true true true)
    (formatsOk x (fun n => (b8Of n).isSome))
    (onGroup (fun i =>
      let r := rndOf i.cur.hints
      let fmt := clsFmt i.cur.hints
      let q := fun L =>
        let a := (i.g.src x.a L).toNat % 2 ^ fmt.w
        (formatAt i x L).convert r.rm r.om (fmt.decode (if r.na then fmt.flip a else a))
      (i.g.dst x.d (i.part x.g) (fun L =>
        withByte (i.g.src x.d L) ((i.g.src x.b L).toNat / 2 ^ 8 % 4) (q L).1)).orFlags
        r (i.part x.g) (fun L => (q L).2)))) ∧
  (∀ x : RF, Completes (.unpk8 x) (issueP (sigOf (.unpk8 x)) x true false false)
    (formatsOk x (fun n => (b8Of n).isSome || n == 3 || n == 4))
    (onGroup (fun i =>
      let q := fun L =>
        let b := (i.g.src x.b L).toNat
        let c := (i.g.src x.a L).toNat / 2 ^ (8 * (b / 2 ^ 8 % 4)) % 256
        let n := byteInt (b % 256) c
        (clsFmt i.cur.hints).round (rndOf i.cur.hints).rm
          (if (b8Of (b % 256)).isSome then (formatAt i x L).decode c else .fin (n < 0) n.natAbs 0)
      (i.g.dst x.d (i.part x.g) (fun L => BitVec.ofNat 32 (q L).1)).orFlags
        (rndOf i.cur.hints) (i.part x.g) (fun L => (q L).2)))) ∧
  (∀ x : RF, Completes (.pkbs x) (issueP (sigOf (.pkbs x)) x false true true)
    (formatsOk x (fun n => (b8Of n).isSome))
    (onGroup (fun i =>
      let r := rndOf i.cur.hints
      let q := fun L =>
        let b := (i.g.src x.b L).toNat
        let a := valAt i .f32 x.a r.na 0 L
        if b / 2 ^ 8 % 256 = 255 then ((formatAt i x L).nan, 0)
        else (formatAt i x L).convert r.rm r.om (a.scale (127 - ((b / 2 ^ 8 % 256 : Nat) : Int)))
      (i.g.dst x.d (i.part x.g) (fun L =>
        withByte (i.g.src x.d L) ((i.g.src x.b L).toNat / 2 ^ 16 % 4) (q L).1)).orFlags
        r (i.part x.g) (fun L => (q L).2)))) ∧
  (∀ n < 256, ∀ f : B8, b8Of n = some f ↔ 1 ≤ f.p ∧ f.p ≤ 7 ∧
    n = 0x80 + (if f.s then 0x10 else 0) + (if f.i then 8 else 0) + f.p) ∧
  (∀ (n : Nat) (f : B8), b8Of n = some f → (∀ c < 256,
    (c = nan8 f → f.decode c = .nan false) ∧ (f.i = true → c = top8 f → f.decode c = .inf false) ∧
    (f.i = true → f.s = true → c = 0xFF → f.decode c = .inf true) ∧
    (c ≠ nan8 f → (f.i = true → c ≠ top8 f ∧ (f.s = true → c ≠ 0xFF)) → isFin (f.decode c) = true ∧
      valQ (f.decode c) = if f.s ∧ 128 ≤ c then - mag8 f (c - 128) else mag8 f c)) ∧
    ∀ (m : RMode) (o : OMode),
    (∀ (neg : Bool) (k : Nat) (e : Int), k ≠ 0 → let x := valQ (.fin neg k e)
      ∃ (c : Nat) (t : Bool), rounds8 f m neg x c ∧ (t = true ↔ tiny f.p (mag8 f (2 ^ (f.p - 1))) m neg x) ∧
      f.convert m o (.fin neg k e) =
        if neg = true ∧ f.s = false ∧ c ≠ 0 then below8 f o
        else if max8 f < c then
          (if o = .sat then (code8 f neg (max8 f), fCL ||| fNX)
           else if o = .nan then (nan8 f, fOF ||| fNX)
           else if toward m neg then (code8 f neg (max8 f), fOF ||| fNX)
           else (if f.i then code8 f neg (top8 f) else nan8 f, fOF ||| fNX))
        else (code8 f neg c, if mag8 f c = |x| then 0 else if t then fNX ||| fUF else fNX)) ∧
    (∀ (neg : Bool) (e : Int), f.convert m o (.fin neg 0 e) = (0, 0)) ∧
    (∀ neg : Bool, f.convert m o (.inf neg) =
      if neg = true ∧ f.s = false then below8 f o
      else if o = .sat then (code8 f neg (max8 f), fCL ||| fNX)
      else if f.i then (code8 f neg (top8 f), 0) else (nan8 f, fIV)) ∧
    ∀ q : Bool, f.convert m o (.nan q) = (nan8 f, if q then fIV else 0))

/-- R35 to R37, R182 to R185: a direct branch whose condition holds in no lane goes on, in every lane jumps, and in some
lanes divides its split or is serialized, which `BRAU` never does; where neither can be done it traps `SPLIT_LIMIT`. A
division keeps the first set in its entry, gives the others the free entries, lowest first, and pushes RA with the split's
mask; a serialization pushes the pending sets on a rejoin entry. `BDEC` decrements its s register and jumps with the whole
split unless it reached 0. -/
def Obligations.DirectBranchResults : Prop :=
  (∀ e ∈ branches, ∀ x : BF, let u := issueB (sigOf (e.1 x)) e.2.1 (e.2.2.1 x) []
    Completes (e.1 x) (fun _ => u) (fun _ i => takenB i x = 0) (onGroup (fun i => e.2.2.2 i x)) ∧
    Moves (e.1 x) (fun _ => u) (fun _ i => takenB i x ≠ 0 ∧ takenB i x = i.p.mask)
      (fun s i => jump s i (e.2.2.2 i x) (branchTo i x) (yieldsB i x))) ∧
  (∀ e ∈ branches, ∀ (x : BF) (g : Group), let u := issueB (sigOf (e.1 x)) e.2.1 (e.2.2.1 x) []
    e.1 x ≠ .brau x → Moves (e.1 x) (fun _ => u)
      (fun _ i => takenB i x ≠ 0 ∧ takenB i x ≠ i.p.mask ∧
        (e.2.2.2 i x).divide i.r.sp (i.cur.next, i.p.mask &&& ~~~takenB i x)
          [(branchTo i x, takenB i x)] i.ra = some g)
      (fun s i => split s i g (branchTo i x) (yieldsB i x))) ∧
  (∀ e ∈ branches, ∀ x : BF, e.1 x ≠ .brau x →
    Traps (e.1 x) (fun _ => issueB (sigOf (e.1 x)) e.2.1 (e.2.2.1 x) [])
      (fun _ i => takenB i x ≠ 0 ∧ takenB i x ≠ i.p.mask ∧
        (e.2.2.2 i x).divide i.r.sp (i.cur.next, i.p.mask &&& ~~~takenB i x)
          [(branchTo i x, takenB i x)] i.ra = none)
      (fun _ => { cause := cSplitLimit })) ∧
  (∀ (g : Group) (sp : Nat) (p : Split) (kept : Pc × Mask) (others : List (Pc × Mask)) (ra : Option Pc),
    g.splits.getD sp none = some p →
    let free := (List.range g.splits.length).filter (fun n => (g.splits.getD n none).isNone)
    let fits := others.length ≤ free.length ∧ p.mstk = [] ∧ (p.rlist.length < 4 ∨ ra = none)
    let part := fun (d : Pc × Mask) => some { p with
      pc := d.1, mask := d.2, st := .ready, replay := none,
      rlist := p.rlist ++ ra.toList.map (fun a => { ra := a, exp := p.mask }) }
    (fits → ∃ h : Group, g.divide sp kept others ra = some h ∧ { h with splits := g.splits } = g ∧
      h.splits.length = g.splits.length ∧ h.splits.getD sp none = part kept ∧
      (∀ n < others.length, h.splits.getD (free.getD n 0) none = part (others.getD n (0, 0))) ∧
      (∀ n, n ≠ sp → n ∉ free.take others.length → h.splits.getD n none = g.splits.getD n none)) ∧
    (¬ fits → ∀ a, ra = some a → p.mstk.length + others.length + 1 ≤ 8 → g.divide sp kept others ra =
      some { g with splits := g.splits.set sp (some { p with
        pc := kept.1, mask := kept.2, st := .ready, replay := none,
        mstk := others.map (fun d => { kind := .pending, pc := d.1, mask := d.2 }) ++
          { kind := .rejoin, pc := a, mask := p.mask } :: p.mstk }) }) ∧
    (¬ fits → ra = none ∨ 8 < p.mstk.length + others.length + 1 → g.divide sp kept others ra = none)) ∧
  (∀ x : BF, Traps (.brau x) (fun _ => issueB (sigOf (.brau x)) [] false [])
    (fun _ i => takenB i x ≠ 0 ∧ takenB i x ≠ i.p.mask) (fun _ => { cause := cSplitLimit, detail := 1 })) ∧
  (∀ x : BF, let u := issueB (sigOf (.bdec x)) [] false [x.g.toNat]
     let count := fun (i : Iss) => BitVec.ofInt 32 ((i.g.sGet x.g.toNat).toNat - 1 : Int)
     Completes (.bdec x) (fun _ => u) (fun _ i => count i = 0)
       (onGroup (fun i => i.g.sSet x.g.toNat (count i))) ∧
     Moves (.bdec x) (fun _ => u) (fun _ i => count i ≠ 0 ∧ i.p.mask ≠ 0)
       (fun s i => jump s i (i.g.sSet x.g.toNat (count i)) (branchTo i x) (yieldsB i x)))

/-- R36 to R38, R186 to R189: `BRX`, `CALLX` and `RET` with one destination and with several, `MISALIGNED` and
`SPLIT_LIMIT`. The destinations are the targets of the lanes by rising address, that of Next before them, each with its
lanes; a traced group records one event for each with taken lanes (log entry 32, the model's choice). A split at the address
of its last RA parks there; the parked splits of one RLIST that make up its EXP fuse in the lowest of their entries and the
RA is popped, while other splits run and where others with other RLISTs are parked (log entry 63, the model's choice), and
nothing else fuses; a serialized split takes its next pending set where it has no lanes or stands at the rejoin address;
equal splits join at issue selection. -/
def Obligations.RegisterBranchResults : Prop :=
  (∀ p : Split, p.st = .ready → p.mstk = [] → p.arrive =
    if (p.rlist.getLast?).any (fun e => e.ra == p.pc) then { p with st := .parkedRa } else p) ∧
  (∀ (p : Split) (e : MEntry) (es : List MEntry) (n : Nat), p.mstk = e :: es →
    p.pop (n + 1) =
      if p.mask = 0 ∨ ((e :: es).find? (fun e => e.kind == .rejoin)).map (fun e => e.pc) = some p.pc then
        ({ p with pc := e.pc, mask := e.mask, mstk := es } : Split).pop n
      else p) ∧
  (∀ (g : Group) (n : Nat), let h := { g with splits := g.splits.map (fun o => (o.map Split.arrive).filter (fun p =>
        p.mask != 0 || p.mstk != [])) }
    let mates := fun (x : Nat × Split) =>
      h.valid.filter (fun y => decide (y.2.st = .parkedRa ∧ y.2.rlist = x.2.rlist))
    let whole := fun (x : Nat × Split) => x.2.st = .parkedRa ∧ ∃ e, x.2.rlist.getLast? = some e ∧
      e.exp = (mates x).foldl (fun m y => m ||| y.2.mask) 0
    (g.preempting = true ∨ (∀ x ∈ h.valid, ¬ whole x) → g.settle (n + 1) = h) ∧
    (∀ (before after : List (Nat × Split)) (x : Nat × Split), g.preempting = false → h.valid = before ++ x :: after →
      (∀ y ∈ before, ¬ whole y) → whole x →
      g.settle (n + 1) = ({ h with splits := (List.range h.splits.length).map (fun k =>
        if k = x.1 then some { x.2 with
          mask := (mates x).foldl (fun m y => m ||| y.2.mask) 0, st := .ready, rlist := x.2.rlist.dropLast }
        else if (mates x).any (fun y => y.1 == k) then none else h.splits.getD k none) } : Group).settle n)) ∧
  (∀ (g : Group) (sp : Nat) (p : Split), g.splits.getD sp none = some p →
    let equal := fun (q : Split) => p.st.atIssue = true ∧ q.st.atIssue = true ∧ p.pc = q.pc ∧ p.rlist = q.rlist ∧
      p.mstk = [] ∧ q.mstk = [] ∧ p.replay = none ∧ q.replay = none
    ∀ es : List Nat, es = (g.valid.filter (fun y => decide (y.1 = sp ∨ equal y.2))).map (fun y => y.1) →
      2 ≤ es.length →
      (g.fuseEqual sp).splits = (List.range g.splits.length).map (fun k =>
        if k = es.headD sp then some { p with
          mask := g.valid.foldl (fun m y => if y.1 ∈ es then m ||| y.2.mask else m) 0, st := .ready }
        else if k ∈ es then none else g.splits.getD k none)) ∧
  (∀ (i : Iss) (x : RF) (v : Nat → Word), let ds := i.dests (i.part x.g &&& i.p.mask) v
    (∀ d ∈ ds, d.2 = maskOf (fun L => i.p.mask.getLsbD L && laneTo i x v L == d.1)) ∧
    (∀ a, a ∈ ds.map (fun d => d.1) ↔ ∃ L ∈ lanesOf i.p.mask, laneTo i x v L = a) ∧
    ds.Pairwise (fun c d => d.1 ≠ i.cur.next ∧ (c.1 = i.cur.next ∨ c.1.toNat < d.1.toNat))) ∧
  ∀ e ∈ regBranches, ∀ x : RF, let v := fun i => e.2.2.1 i x
    let aligned := fun (i : Iss) => ∀ L ∈ lanesOf (i.part x.g &&& i.p.mask), (v i L).toNat % 4 = 0
    (∀ a : Iss → Pc, Moves (e.1 x) (fun _ => e.2.1 x)
      (fun _ i => aligned i ∧ i.p.mask ≠ 0 ∧ ∀ L ∈ lanesOf i.p.mask, laneTo i x (v i) L = a i)
      (fun s i => traceTaken ((s.putGroup i.r.gref (e.2.2.2 i x)).goto i (a i)) i x
        [(a i, i.p.mask)])) ∧
    (∀ (d f : Pc × Mask) (ds : List (Pc × Mask)) (g : Group), Moves (e.1 x) (fun _ => e.2.1 x)
      (fun _ i => aligned i ∧ i.dests (i.part x.g &&& i.p.mask) (v i) = d :: f :: ds ∧
        (e.2.2.2 i x).divide i.r.sp d (f :: ds) i.ra = some g)
      (fun s i => traceTaken (divided s i g) i x (d :: f :: ds))) ∧
    (∀ (d f : Pc × Mask) (ds : List (Pc × Mask)), Traps (e.1 x) (fun _ => e.2.1 x)
      (fun _ i => aligned i ∧ i.dests (i.part x.g &&& i.p.mask) (v i) = d :: f :: ds ∧
        (e.2.2.2 i x).divide i.r.sp d (f :: ds) i.ra = none)
      (fun _ => { cause := cSplitLimit })) ∧
    Traps (e.1 x) (fun _ => e.2.1 x) (fun _ i => ¬ aligned i) (fun _ => { cause := cMisaligned })

/-- R190 to R194: `YIELD` is a blocking point, `EXIT` takes the lanes of `Part` out of their group but not in a
gate call or a handler, `NOP` does nothing, and `TRAP` and `BRK` take their trap after the instruction, with m as
its detail. That a trace record of that trap names the instruction itself is the model's choice (log entry 89). -/
def Obligations.ThreadControlResults : Prop :=
  (∀ x : RF, Blocks (.yield x) (fun _ => issueC (sigOf (.yield x))) always (fun _ => .yielded)
    (fun s _ => s)) ∧
  (∀ x : RF, Completes (.exit x) (fun _ => issueC (sigOf (.exit x)))
    (fun _ i => i.g.gates = [] ∧ i.g.level = 0)
    (fun s i => s.modGroup i.r.gref (fun g => g.exitLanes (i.part x.g)))) ∧
  (∀ x : RF, Traps (.exit x) (fun _ => issueC (sigOf (.exit x)))
    (fun _ i => i.g.gates ≠ [] ∨ i.g.level ≠ 0) (fun _ => { cause := cProtection, detail := 6 })) ∧
  (∀ x : RF, Completes (.nop x) (fun _ => issueC (sigOf (.nop x))) always (fun s _ => s)) ∧
  (∀ e ∈ [((Instr.trap : EF → Instr), cSoft), (.brk, cBreak)], ∀ x : EF,
     Moves (e.1 x) (fun _ => issueC (sigOf (e.1 x))) always
       (fun s i => (s.goto i i.cur.next).trapAt i.r { cause := e.2, detail := x.m.toNat } i.cur.next
         (some i.cur.unit)))

/-- R228, R231, R234, R235: a load whose lanes are aligned and whose places are accessible reads them in
order, extends what it read, and leaves its destination pending. Where some lane faults, the others do so, and the split
parks with the faulting lanes unfinished, on the fault of the lowest of them. -/
def Obligations.LoadResults : Prop :=
  ∀ e ∈ loadForms, ∀ x : MF, let sig := sigOf (e.1 x)
    let effect := fun (part : Bool) (s : State) (i : Iss) =>
      let o := orderOf s i x .load false
      let q := placesOf s i sig x e.2.2.1 .load false
      let v := readLanes i e.2.2.1 o e.2.2.2 q.2 (okAll q.1)
      (v.2.2.pendLoad i x.d e.2.1 (q.1.map (fun p => p.1)) v.1 o.acquires
        ((okAll q.1).any (fun l => v.2.2.isRemote i.b.core.die l.2)) 0 (i.g.stashOf x.x.toNat)).takeEntry i o v.2.1 part
    Completes (e.1 x) (fun _ => issueMem sig false)
      (fun s i => alignedAt i sig x e.2.2.1 ∧ accessible s i sig x e.2.2.1 .load false) (effect false) ∧
    ∀ (L : Nat) (f : MFault), Parks (e.1 x) (fun _ => issueMem sig false)
      (fun s i => alignedAt i sig x e.2.2.1 ∧ faulting s i sig x e.2.2.1 .load false L f) (effect true) f
      (fun s i => outside (placesOf s i sig x e.2.2.1 .load false).1) (destV x.d e.2.1) (destS x.d e.2.1)
      (fun _ => false)

/-- R231, R234, R235: a store releases first where it is a release, and writes its lanes in order. Where some lane faults,
those below the lowest of them do so, and the split parks with the others unfinished. -/
def Obligations.StoreResults : Prop :=
  ∀ e ∈ storeForms, ∀ x : MF, let sig := sigOf (e.1 x)
    let ready := fun (s : State) (i : Iss) => alignedAt i sig x e.2.2 ∧
      ((orderOf s i x .store false).releases = true → (boundAt s i x .store).releaseReady i.r = true)
    let effect := fun (s : State) (i : Iss) =>
      let o := orderOf s i x .store false
      let q := placesOf s i sig x e.2.2 .store false
      let r := q.2.preRelease i o
      writeLanes i x e.2.1 e.2.2 o r.1 r.2 (okPrefix q.1)
    Completes (e.1 x) (fun _ => issueMem sig false)
      (fun s i => ready s i ∧ accessible s i sig x e.2.2 .store false) effect ∧
    ∀ (L : Nat) (f : MFault), Parks (e.1 x) (fun _ => issueMem sig false)
      (fun s i => ready s i ∧ faulting s i sig x e.2.2 .store false L f) effect f
      (fun s i => fromLane (placesOf s i sig x e.2.2 .store false).1 L) [] [] (fun _ => false)

/-- R231, R243 to R245: an atomic updates its lanes' locations in order, each with its row's operation, and
returns the old values. Where some lane faults, those below the lowest of them do so, and the split parks with the others
unfinished and the exceptions of an `AMO.fadd` still due. -/
def Obligations.AtomicResults : Prop :=
  ∀ e ∈ amoForms, ∀ x : MF, let sig := sigOf (e.1 x)
    let size := e.2.1
    let ready := fun (s : State) (i : Iss) => alignedAt i sig x size ∧
      (placesOf s i sig x size .atomic true).2.anyHeld i (placesOf s i sig x size .atomic true).1 = false ∧
      ((orderOf s i x .atomic true).releases = true → (boundAt s i x .atomic).releaseReady i.r = true)
    let effect := fun (part : Bool) (s : State) (i : Iss) =>
      let o := orderOf s i x .atomic true
      let q := placesOf s i sig x size .atomic true
      let r := q.2.preRelease i o
      let v := updateLanes i x size e.2.2.2.1 e.2.2.2.2.2 o r.1 r.2 (okPrefix q.1)
      (v.2.2.2.pendLoad i x.d e.2.2.2.1 (q.1.map (fun p => p.1)) v.1 o.acquires
        ((okPrefix q.1).any (fun l => v.2.2.2.isRemote i.b.core.die l.2))
        (if (rndOf i.cur.hints).nf then 0 else v.2.2.1 &&& flagsMask) (i.g.stashOf x.x.toNat)).takeEntry i o v.2.1 part
    Completes (e.1 x) (fun _ => issueMem sig e.2.2.2.2.1)
      (fun s i => ready s i ∧ accessible s i sig x size .atomic true) (effect false) ∧
    ∀ (L : Nat) (f : MFault), Parks (e.1 x) (fun _ => issueMem sig e.2.2.2.2.1)
      (fun s i => ready s i ∧ faulting s i sig x size .atomic true L f) (effect true) f
      (fun s i => fromLane (placesOf s i sig x size .atomic true).1 L) (destV x.d e.2.2.2.1) (destS x.d e.2.2.2.1)
      (fun i => decide (e.1 x = .amoFaddF32 x ∨ e.1 x = .amoFaddBh2 x) && !(rndOf i.cur.hints).nf)

/-- R229, R243: a load, store or atomic with a lane whose offset is no multiple of its size traps
`MISALIGNED` before any lane acts. -/
def Obligations.MisalignedAccess : Prop :=
  (∀ e ∈ loadForms, ∀ x : MF, Traps (e.1 x) (fun _ => issueMem (sigOf (e.1 x)) false)
    (fun _ i => ¬ alignedAt i (sigOf (e.1 x)) x e.2.2.1) (fun _ => { cause := cMisaligned })) ∧
  (∀ e ∈ storeForms, ∀ x : MF, Traps (e.1 x) (fun _ => issueMem (sigOf (e.1 x)) false)
    (fun _ i => ¬ alignedAt i (sigOf (e.1 x)) x e.2.2) (fun _ => { cause := cMisaligned })) ∧
  (∀ e ∈ amoForms, ∀ x : MF, Traps (e.1 x) (fun _ => issueMem (sigOf (e.1 x)) e.2.2.2.2.1)
    (fun _ i => ¬ alignedAt i (sigOf (e.1 x)) x e.2.1) (fun _ => { cause := cMisaligned }))

/-- R239 to R241: `PF` brings near what it may reach and never faults; `RWB` and `RINV` act on the lines of each
lane's range where no lane faults. That `PF` through a stash does nothing is the model's choice (log entry 85), and so is
that the forms with s operands alone act once (log entry 11). -/
def Obligations.CacheHintResults : Prop :=
  (∀ x : MF, let sig := sigOf (.pf x)
    Completes (.pf x) (fun _ => issueMem sig false) always (fun s i =>
      (offsetsOf i sig x).foldl (fun s p =>
        match s.resolve i.r.gref x.x.toNat p.2 1 .pf with
        | (.ok l, t) =>
          let near := t.prefetch i.b.core l (x.sc == 3)
          if near.away = s.away then near else s
        | (.error _, _) => s) s)) ∧
  (∀ e ∈ [((Instr.rwb : MF → Instr), false), (.rinv, true)], ∀ x : MF, let sig := sigOf (e.1 x)
    let run := fun (s : State) (i : Iss) (l : List (Nat × Int)) => l.foldl
      (fun (p : Option MFault × State) q => match p.1 with
        | some _ => p
        | none => p.2.rangeLane i x q.2 (i.g.src x.d q.1).toNat e.2) (none, s)
    Completes (e.1 x) (fun _ => issueMem sig false)
      (fun s i => (run s i (offsetsOf i sig x)).1 = none)
      (fun s i => (run s i (offsetsOf i sig x)).2))

/-- R199 to R206, R228 to R230, R288: a block's own scratchpad through x0, outside gate calls and stashes, and a group's
own window through x1 are read and written byte by byte, and nothing else changes. A handle gives an address through its
frame where that holds the access, else through translation, within its bound; its permission is checked on both paths. -/
def Obligations.LocalStoreAccess : Prop :=
  (∀ (s : State) (r : GRef) (b : Block) (g : Group) (o n : Nat) (k : AccKind) (home : Bool),
    g.gates = [] → b.stashes = [] → o + n ≤ b.scrSize →
      s.resolveX r b g .scratch o n k home = (.ok (.scr r.blk o), s)) ∧
  (∀ (s : State) (r : GRef) (b : Block) (o n : Nat) (q : AOrd), s.blocks[r.blk]? = some b →
    s.readLoc r (.scr r.blk o) n q =
      ((List.range n).map (fun j => Memory.get b.scr (o + j)), 0, s)) ∧
  (∀ (s : State) (r : GRef) (b : Block) (o : Nat) (bs : List Byte) (q : AOrd) (e : Option Sig),
    s.blocks[r.blk]? = some b → Memory.wf b.scr = true →
      ∃ m, Memory.wf m = true ∧ s.writeLoc r (.scr r.blk o) bs q e =
        { s with blocks := s.blocks.set r.blk { b with scr := m } } ∧
      ∀ a, Memory.get m a = if o ≤ a ∧ a < o + bs.length then bs.getD (a - o) 0 else Memory.get b.scr a) ∧
  (∀ (s : State) (r : GRef) (b : Block) (g : Group) (o : Nat) (bs : List Byte) (q : AOrd) (e : Option Sig),
    s.blocks[r.blk]? = some b → b.groups[r.grp]? = some g → (∀ w ∈ g.v, w.length = 32) →
    o + bs.length ≤ 128 * g.v.length → ∃ v, s.writeLoc r (.win o) bs q e = s.putGroup r { g with v := v } ∧
      ∀ a, winByte { g with v := v } a =
        if o ≤ a ∧ a < o + bs.length then bs.getD (a - o) 0 else winByte g a) ∧
  (∀ a : Attr, a.allows .load = a.r ∧ a.allows .store = a.w ∧ a.allows .atomic = a.a ∧ a.allows .range = a.w ∧
    a.allows .pf = true) ∧
  (∀ (s : State) (r : GRef) (b : Block) (g : Group) (o : Int) (n : Nat) (k : AccKind) (home : Bool),
    s.resolveX r b g .unbound o n k home = (.error ({ cause := cProtection, acc := k.code }, none), s)) ∧
  (∀ (s : State) (r : GRef) (b : Block) (g : Group) (h : HandleX) (o : Int) (n : Nat) (k : AccKind) (home : Bool),
    let place := s.resolveX r b g (.handle h) o n k home
    let off : Int := h.boff + o
    let va : Int := h.vbase + off
    let inFrame := fun (f : Frame) => 0 ≤ o ∧ o + n ≤ h.limit ∧ f.leaf.denies k g.handler = none ∧
      (f.leaf.d = true ∨ k.writes = false)
    (∀ f, h.frame = some f → inFrame f → place = (reached s h.attr k va n (f.pa + o.toNat) f.leaf.cc, s)) ∧
    ((∀ f, h.frame = some f → ¬ inFrame f) → off < 0 ∨ (h.bound : Int) < off + n →
      place = (.error ({ cause := cBounds, acc := k.code }, some va), s)) ∧
    ((∀ f, h.frame = some f → ¬ inFrame f) → 0 ≤ off → off + n ≤ h.bound →
      (∀ (pa : Nat) (l : Leaf) (t : State),
        s.translate b.core g.ctx.asid va.toNat k g.handler = (.ok (pa, l), t) →
          place = (reached t h.attr k va n pa l.cc, t)) ∧
      ∀ (e : TrapInfo) (t : State), s.translate b.core g.ctx.asid va.toNat k g.handler = (.error e, t) →
        place = (.error (e, some va), t)))

/-- R247, R300: an acquire fence is complete from every state in which it is ready: it holds later accesses and takes
in what is pending; a release fence is complete, with its release done, once what it orders has completed; `FENCE.sc`
at device or system scope performs its atomic on the fence word between its release and its acquire, which takes the
die's signature there and brings back the entry. A fence of die scope or narrower, in a block without stashes, is complete
from every state in which it is ready and what it orders has completed: a release leaves everything, an acquire holds
the later accesses. -/
def Obligations.FenceResults : Prop :=
  (∀ x : EF, Completes (.fenceAcq x) (fun _ => issueEng (sigOf (.fenceAcq x)) false) always
    (fun s i => s.acquireAt i.r (x.m.toNat % 8))) ∧
  (∀ e ∈ releaseFences, ∀ x : EF, Completes (e.1 x) (fun _ => issueEng (sigOf (e.1 x)) false)
    (fun s i => s.releaseReady i.r = true)
    (fun s i => let t := s.fenceRel i.r.gref (x.m.toNat % 8)
      if e.2 then t.acquireAt i.r (x.m.toNat % 8) else t)) ∧
  (∀ x : EF, Completes (.fenceSc x) (fun _ => issueEng (sigOf (.fenceSc x)) false)
    (fun s i => s.releaseReady i.r = true ∧ s.fenceHeld i (x.m.toNat % 8) = false)
    (fun s i => fencedSc s i (x.m.toNat % 8))) ∧
  (∀ (s : State) (r : GRef), let d := (s.coreOf r.blk).die
    let a := s.amoHome d r s.fencePa 1 4 ⟨.ar, 4⟩ (some (s.die d).csig)
      (fun old => some (bytesOfNat 4 ((natOfBytes old + 1) % 2 ^ 32)))
    s.fenceWord r 4 = a.2.2.modGroup r (fun g => { g with acqSig := g.acqSig ||| a.2.1 })) ∧
  (∀ e ∈ fences, ∀ (x : EF) (s : State) (i : Iss), Ready s (fun _ => issueEng (sigOf (e.1 x)) false) i →
    x.m.toNat % 8 < 4 → s.releaseReady i.r = true → Populated s → i.b.stashes = [] → i.g.step = none →
    exec (e.1 x) s = .next (ended s i (issueEng (sigOf (e.1 x)) false)
      (if e.2 then s.modGroup i.r.gref (fun g => g.holdLoads i.r.sp) else s)))

/-- R210 to R212, R248: an arrival counts in its name's phase; `BARA` goes on, `BAR` and `BARW` wait for the phase and
acquire at core scope. A breach of the limits traps `ILLEGAL_OPERAND`, the membership pair before the count (which OPND it
then is: log entry 25, the model's choice), and all three trap `PROTECTION` in a gate call. -/
def Obligations.BarrierResults : Prop :=
  (∀ x : EF, Completes (.bara x) (fun _ => issueEng (sigOf (.bara x)) true)
    (fun s i => i.g.gates = [] ∧ barLegal i x ∧ barMatches i x ∧ s.releaseReady i.r = true)
    (fun s i => (arrival s i x).2.2)) ∧
  (∀ x : EF, Completes (.bar x) (fun _ => issueEng (sigOf (.bar x)) true)
    (fun s i => i.g.gates = [] ∧ barLegal i x ∧ barMatches i x ∧ s.releaseReady i.r = true ∧
      (arrival s i x).2.1 = true)
    (fun s i => (arrival s i x).2.2.acquireAt i.r 1)) ∧
  (∀ x : EF, Blocks (.bar x) (fun _ => issueEng (sigOf (.bar x)) true)
    (fun s i => i.g.gates = [] ∧ barLegal i x ∧ barMatches i x ∧ s.releaseReady i.r = true ∧
      (arrival s i x).2.1 = false)
    (fun i => .bar (x.m.toNat % 16) (barOf i (x.m.toNat % 16)).phase)
    (fun s i => (arrival s i x).2.2)) ∧
  (∀ e ∈ [(Instr.bar : EF → Instr), .bara], ∀ x : EF, let u := fun (_ : Iss) => issueEng (sigOf (e x)) true
    Traps (e x) u (fun _ i => i.g.gates = [] ∧ barLegal i x ∧ ¬ barMatches i x)
      (fun _ => { cause := cBarMismatch }) ∧
    Traps (e x) u (fun _ i => i.g.gates = [] ∧ ¬ barMembers i x)
      (fun _ => { cause := cIllegalOperand, opnd := 1 }) ∧
    Traps (e x) u (fun _ i => i.g.gates = [] ∧ barMembers i x ∧ ¬ barLegal i x)
      (fun _ => { cause := cIllegalOperand, opnd := 2 })) ∧
  (∀ e ∈ [(Instr.bar : EF → Instr), .bara, .barw], ∀ x : EF,
    Traps (e x) (fun _ => issueEng (sigOf (e x)) true) (fun _ i => i.g.gates ≠ [])
      (fun _ => { cause := cProtection, detail := 6 })) ∧
  (∀ x : EF, Completes (.barw x) (fun _ => issueEng (sigOf (.barw x)) true)
    (fun _ i => i.g.gates = [] ∧ ∀ ph, i.g.lastBar.getD (x.m.toNat % 16) none = some ph →
      i.b.phaseDone (x.m.toNat % 16) ph = true)
    (fun s i => s.acquireAt i.r 1)) ∧
  (∀ (x : EF) (ph : Nat), Blocks (.barw x) (fun _ => issueEng (sigOf (.barw x)) true)
    (fun _ i => i.g.gates = [] ∧ i.g.lastBar.getD (x.m.toNat % 16) none = some ph ∧
      i.b.phaseDone (x.m.toNat % 16) ph = false)
    (fun _ => .bar (x.m.toNat % 16) ph) (fun s _ => s))

/-- R211, R214: an arrival of a group whose events are not traced adds its lanes to the open phase of its name,
or completes the phase with the count; `Dec(n)` acts on the 16 bytes of an object, by its fields CNT, INIT, PHASE
and FLG. -/
def Obligations.BarrierRecords : Prop :=
  (∀ (s : State) (i : Iss) (n : Nat) (low high count : Word), s.blocks[i.r.blk]? = some i.b →
     i.b.groups[i.r.grp]? = some i.g → i.g.ctx.trace = 0 → n < i.b.bars.length →
     let k := barOf i n
     let m := (if k.isOpen then k.arrivals else 0) + (List.range 32).countP (fun j => i.cur.active.getLsbD j)
     let full := decide (count.toNat ≤ m)
     (s.arrive i n low high count).1 = k.phase ∧ (s.arrive i n low high count).2.1 = full ∧
     ((s.arrive i n low high count).2.2.blocks[i.r.blk]?).map (fun b => b.bars) = some (i.b.bars.set n
       (if full then { k with isOpen := false, arrivals := 0, phase := k.phase + 1 }
        else { isOpen := true, low := low, high := high, count := count, arrivals := m, phase := k.phase }))) ∧
  (∀ (cnt init : Word) (phase flg n : Nat) (rest : List Byte), phase < 2 ^ 16 → flg < 2 ^ 8 →
     rest.length = 5 →
     let left : Word := cnt - BitVec.ofNat 32 n
     objDec (bytesOfNat 4 cnt.toNat ++ bytesOfNat 4 init.toNat ++ bytesOfNat 2 phase ++ bytesOfNat 1 flg ++
         rest) n =
       if left.toInt ≤ 0 then
         bytesOfNat 4 init.toNat ++ bytesOfNat 4 init.toNat ++ bytesOfNat 2 ((phase + 1) % 2 ^ 16) ++
           bytesOfNat 1 (if left.toInt < 0 then flg ||| 2 else flg) ++ rest
       else bytesOfNat 4 left.toNat ++ bytesOfNat 4 init.toNat ++ bytesOfNat 2 phase ++ bytesOfNat 1 flg ++ rest)

/-- R214, R215, R249: the instructions on barrier objects, on an aligned, valid object in the
scratchpad with no engine fault to deliver. -/
def Obligations.BarrierObjectResults : Prop :=
  (∀ x : EF, Completes (.mbini x) (fun _ => issueEng (sigOf (.mbini x)) true)
    (fun _ i => 0 < (i.g.src x.b 0).toInt ∧ objectAt i (i.g.src x.a 0) .store)
    (fun s i => let n := (i.g.src x.b 0).toNat
      s.ownWrite i.r.gref (i.g.src x.a 0).toNat
        (bytesOfNat 4 n ++ bytesOfNat 4 n ++ [0, 0, 1, 0, 0, 0, 0, 0]))) ∧
  (∀ x : EF, Completes (.mbarv x) (fun _ => issueEng (sigOf (.mbarv x)) true)
    (fun s i => 0 < (i.g.src x.b 0).toInt ∧ objectAt i (i.g.src x.a 0) .atomic ∧
      validAt s i (i.g.src x.a 0) ∧ s.releaseReady i.r = true)
    (fun s i => (s.ownWrite i.r.gref (i.g.src x.a 0).toNat
        (objDec (objBytes s i (i.g.src x.a 0)) (i.g.src x.b 0).toNat)).modGroup i.r.gref
      (fun g => g.sSet (x.d.toNat - 48) (BitVec.ofNat 32 (phaseAt s i (i.g.src x.a 0) % 2 ^ 16))))) ∧
  (∀ x : EF, Completes (.mbtst x) (fun _ => issueEng (sigOf (.mbtst x)) true)
    (fun s i => objectAt i (i.g.src x.a 0) .load ∧ validAt s i (i.g.src x.a 0) ∧
      pickFault i.g.efaults (objFault i.g (i.g.src x.a 0).toNat) = none)
    (fun s i =>
      let differs := decide (phaseAt s i (i.g.src x.a 0) % 2 ^ 16 ≠ (i.g.src x.b 0).toNat % 2 ^ 16)
      let t := s.modGroup i.r.gref (fun g => g.setPred (x.d.toNat % 8) i.cur.active (fun _ => differs))
      if differs then t.acquireAt i.r 1 else t)) ∧
  (∀ x : EF, Completes (.mbwait x) (fun _ => issueEng (sigOf (.mbwait x)) true)
    (fun s i => objectAt i (i.g.src x.a 0) .load ∧ validAt s i (i.g.src x.a 0) ∧
      pickFault i.g.efaults (objFault i.g (i.g.src x.a 0).toNat) = none ∧
      phaseAt s i (i.g.src x.a 0) % 2 ^ 16 ≠ (i.g.src x.b 0).toNat % 2 ^ 16)
    (fun s i => s.acquireAt i.r 1)) ∧
  (∀ x : EF, Blocks (.mbwait x) (fun _ => issueEng (sigOf (.mbwait x)) true)
    (fun s i => objectAt i (i.g.src x.a 0) .load ∧ validAt s i (i.g.src x.a 0) ∧
      pickFault i.g.efaults (objFault i.g (i.g.src x.a 0).toNat) = none ∧
      phaseAt s i (i.g.src x.a 0) % 2 ^ 16 = (i.g.src x.b 0).toNat % 2 ^ 16)
    (fun i => .mbwait (i.g.src x.a 0).toNat ((i.g.src x.b 0).setWidth 16)) (fun s _ => s))

/-- R217 to R221, R250 to R252: `DYIELD` on an aligned word that it may watch, the register requests and
releases, and `FEQ`. Where a grown or shrunk window lies in the store is the model's choice (log entries 10
and 70): `REGREL` keeps its base and a grant takes the place of `grantRegs`. -/
def Obligations.WaitAndRegisterResults : Prop :=
  (∀ (x : EF) (l : Loc) (w : Word), let u := fun (_ : Iss) => issueEng (sigOf (.dyield x)) true
    let watching := fun (s : State) (i : Iss) => (i.g.src x.a 0).toInt % 4 = 0 ∧
      s.watched i.r.gref (x.m == 1) (i.g.src x.a 0).toInt = .ok (l, w) ∧ s.locWaits i.g l 4 = false
    let status := fun (v : Word) (t : State) (i : Iss) =>
      t.modGroup i.r.gref (fun g => g.sSet (x.d.toNat - 48) v)
    Completes (.dyield x) u (fun s i => watching s i ∧ w ≠ i.g.src x.d 0) (status 0) ∧
    Completes (.dyield x) u (fun s i => watching s i ∧ w = i.g.src x.d 0 ∧ i.g.src x.b 0 = 0) (status 1) ∧
    (∀ now : Nat, Blocks (.dyield x) u
      (fun s i => watching s i ∧ w = i.g.src x.d 0 ∧ i.g.src x.b 0 ≠ 0 ∧ s.cyclesOf i.b.core = now)
      (fun i => .dyield (x.m == 1) (i.g.src x.a 0).toInt (i.g.src x.d 0) (x.d.toNat - 48) now
        (i.g.src x.b 0).toNat) (fun s _ => s))) ∧
  (∀ x : EF, let u := fun (i : Iss) => { issueEng (sigOf (.regreq x)) false with
        field := if 8 * x.m.toNat ≤ i.g.regcnt then some .other else none }
    Completes (.regreq x) u
      (fun s i => i.g.gates = [] ∧ s.regDenied i (8 * x.m.toNat) = false ∧ s.regWaits i.b.core = [] ∧
        s.canGrow i.b.core i.g (8 * x.m.toNat) = true)
      (fun s i => s.grantRegs i.r.gref (8 * x.m.toNat)) ∧
    Blocks (.regreq x) u
      (fun s i => i.g.gates = [] ∧ s.regDenied i (8 * x.m.toNat) = false ∧
        (s.regWaits i.b.core ≠ [] ∨ s.canGrow i.b.core i.g (8 * x.m.toNat) = false))
      (fun _ => .regreq (8 * x.m.toNat)) (fun s _ => s) ∧
    Traps (.regreq x) u (fun s i => i.g.gates = [] ∧ s.regDenied i (8 * x.m.toNat) = true)
      (fun _ => { cause := cRegreqDenied })) ∧
  (∀ x : EF, Completes (.regrel x)
    (fun i => { issueEng (sigOf (.regrel x)) false with
      field := if i.g.regcnt ≤ 8 * x.m.toNat then some .other else none })
    (fun _ i => i.g.gates = [] ∧ i.g.writesAbove (8 * x.m.toNat) = false)
    (fun s i => s.modGroup i.r.gref (fun g => { g with
      regcnt := 8 * x.m.toNat, v := g.v.take (8 * x.m.toNat), fe := g.fe.take (8 * x.m.toNat) }))) ∧
  (∀ x : EF, Completes (.feq x) (fun _ => { issueEng (sigOf (.feq x)) false with free := true }) always
    (onGroup (fun i => i.g.kSet (x.d.toNat % 8) i.cur.active (i.g.fe.getD x.a.toNat 0))))

/-- R207, R227, R253 to R256: binding a handle, reading a handle entry, mapping and unmapping a stash. That
`SMAP` inside a gate call takes the callee's scratchpad is the model's choice (log entry 31). -/
def Obligations.BindingResults : Prop :=
  (∀ (x : EF) (h : HandleX) (t : State), Completes (.hbind x)
    (fun i => { issueEng (sigOf (.hbind x)) true with
      field := if i.g.isStash (x.d.toNat % 8) then some .d else none })
    (fun s i => s.bindHandle i.b.core i.r.gref i.g.ctx (decide (i.g.level ≠ 0)) (i.g.src x.a 0).toNat
      (i.g.src x.b 0).toNat = (.ok h, t))
    (fun _ i => t.modGroup i.r.gref (fun g => { g with x := g.x.set (x.d.toNat % 8) (.handle h) }))) ∧
  (∀ x : EF, Completes (.hqry x) (fun _ => issueEng (sigOf (.hqry x)) true)
    (fun s i => entryReached s i x)
    (fun s i => (afterQuery s i x).modGroup i.r.gref (fun g => setPair g x.d (queried s i x)))) ∧
  (∀ (x : EF) (e : HandleEntry) (t : State), Completes (.smap x) (fun _ => issueEng (sigOf (.smap x)) true)
    (fun s i =>
      let w := fun j => (i.g.srcAt x.a j 0).toNat
      let depth := i.g.gates.length
      w 1 % 128 = 0 ∧ w 2 % 1024 = 0 ∧ w 3 ≠ 0 ∧ w 3 % 1024 = 0 ∧
      w 2 + w 3 ≤ (if depth = 0 then i.b.scrSize else i.g.calleeSize) ∧
      i.g.isStash (x.d.toNat % 8) = false ∧ i.b.inStash i.r.grp depth (w 2) (w 3) = false ∧
      s.handleEntry i.b.core.die i.r.gref i.g.ctx (w 0) = (.ok e, t) ∧ e.attr.r = true ∧ w 1 + w 3 ≤ e.bound ∧
      (e.vbase + w 1) % 128 = 0)
    (fun _ i =>
      let w := fun j => (i.g.srcAt x.a j 0).toNat
      let depth := i.g.gates.length
      let new : Stash := { id := t.nextId, grp := i.r.grp, depth := depth, scr := w 2, size := w 3,
                           va := e.vbase + w 1, asid := i.g.ctx.asid, attr := e.attr, lines := [] }
      ((({ t with nextId := t.nextId + 1 } : State).clearScr i.r.gref depth (w 2) (w 3)).modBlock i.r.blk
        (fun b => { b with stashes := b.stashes ++ [new] })).modGroup i.r.gref
          (fun g => { g with x := g.x.set (x.d.toNat % 8) (.stash t.nextId) }))) ∧
  (∀ (x : EF) (id : Nat), Completes (.sunmap x)
    (fun i => { issueEng (sigOf (.sunmap x)) true with
      field := if i.g.isStash (x.d.toNat % 8) then none else some .d })
    (fun s i => i.g.x.getD (x.d.toNat % 8) .unbound = .stash id ∧ s.stashBusy i.r.gref id = false)
    (fun s i =>
      let ends := fun (q : Stash) => (((s.stashBack i.r.blk (some id)).stashDrop i.r.blk (some id)).modBlock i.r.blk
        (fun b => { b with stashes := b.stashes.filter (fun t => t.id != id) })).scrWrite i.r.gref q.depth q.scr
          (List.replicate q.size 0)
      (match s.stash? i.r.blk id with | some q => ends q | none => s).modGroup i.r.gref
        (fun g => { g with x := g.x.set (x.d.toNat % 8) .unbound })))

/-- R400 to R404: a copy that passes its checks starts in the background, and `CPQ` enters its queue, or
waits where that holds 64 entries (R406). -/
def Obligations.CopyResults : Prop :=
  (∀ (x : EF) (off : Nat) (d q : XReg) (s1 s2 : State),
    Completes (.cpy x) (fun _ => issueEng (sigOf (.cpy x)) true)
    (fun s i => let len := (packAt i x 2).toNat
      1 ≤ len ∧ len ≤ 2 ^ 24 ∧ s.engObj i (packAt i x 3) = .ok off ∧
      s.endCheck i (x.b.toNat % 8) (packAt i x 0).toInt len .engW = (.ok d, s1) ∧
      s1.endCheck i (x.b.toNat / 8) (packAt i x 1).toInt len .engR = (.ok q, s2) ∧
      s2.engFull i.r.gref = false)
    (fun _ i => starts s2 i x (.copy ⟨d, (packAt i x 0).toInt⟩ ⟨q, (packAt i x 1).toInt⟩
      (packAt i x 2).toNat 0) off (x.m.getLsbD 4))) ∧
  (∀ (x : EF) (obj : Option Nat) (q : XReg) (d : HandleX) (flag : Option (HandleX × Word))
      (s1 s2 s3 : State), let u := fun (_ : Iss) => issueEng (sigOf (.cpq x)) true
    let passes := fun (s : State) (i : Iss) => let len := (packAt i x 4).toNat
      routeOk (packAt i x 0) = true ∧ 1 ≤ len ∧ len ≤ 2 ^ 24 ∧ s.cpqObj i (i.g.src x.d 0) = .ok obj ∧
      s.endCheck i (x.b.toNat % 8) (packAt i x 3).toInt len .engR = (.ok q, s1) ∧
      s1.cpqHandle i (packAt i x 0) (packAt i x 1).toNat (packAt i x 2).toNat len false = (.ok d, s2) ∧
      s2.cpqFlag i (packAt i x) = (.ok flag, s3)
    let after := fun (i : Iss) => let a := s3.engAcquire i x
      ({ a with nextId := a.nextId + 1 } : State)
    let entry := fun (i : Iss) =>
      let far := routeRemote (packAt i x 0)
      ({ id := (s3.engAcquire i x).nextId, grp := i.r.gref, level := i.g.level, fdom := i.g.ctx.fdom,
         depth := i.g.gates.length, src := ⟨q, (packAt i x 3).toInt⟩,
         len := (packAt i x 4).toNat, read := 0, landed := 0, remote := far,
         recvDie := routeDie (packAt i x 0), dst := d, flag := flag, obj := obj, rel := x.m.getLsbD 4,
         scope := if far then 5 else x.m.toNat % 8, asid := i.g.ctx.asid, data := [], started := false,
         wait := none } : CpqEntry)
    let full := fun (i : Iss) =>
      64 ≤ (((after i).die i.b.core.die).queue (routeQueue (packAt i x 0))).length
    Completes (.cpq x) u (fun s i => passes s i ∧ ¬ full i)
      (fun _ i => (after i).enterCpq i.b.core.die (routeQueue (packAt i x 0)) (entry i)) ∧
    Blocks (.cpq x) u (fun s i => passes s i ∧ full i)
      (fun i => .cpq (routeQueue (packAt i x 0)) (entry i)) (fun _ i => after i))

/-- R409 to R415: a row instruction that passes its checks writes its status and starts, or under the
strict control reports `ROW_STRICT` where a row falls back. -/
def Obligations.RowResults : Prop :=
  ∀ e ∈ rowForms, ∀ (x : EF) (dx sx : XReg) (dst : List (Nat × Nat)) (srcs : List (List (Nat × Nat)))
      (off : Nat) (s1 s2 s3 s4 : State),
    let a := fun (i : Iss) => e.2 (packAt i x)
    let passes := fun (s : State) (i : Iss) => (a i).ok = true ∧
      s.rebind i.r.gref (x.b.toNat % 8) .engW = (.ok dx, s1) ∧
      (if (a i).srcs = [] then sx = dx ∧ s2 = s1
        else s1.rebind i.r.gref (x.b.toNat / 8) .engR = (.ok sx, s2)) ∧
      rowsLegal (a i) dx sx ∧ s2.rowPlaces i dx (a i).dst .engW 0 (a i).rows = (.ok dst, s3) ∧
      s3.rowSources i sx (a i).rows (a i).srcs = (.ok srcs, s4) ∧ rowsClear (a i) dst srcs ∧
      s4.engObj i (a i).obj = .ok off
    let status := fun (i : Iss) => s4.modGroup i.r.gref (fun g => g.sSet (x.d.toNat - 48)
      (if fallsBack dst srcs then 1 else 0))
    let kind := fun (i : Iss) =>
      let d := dst.map (fun p => p.1)
      let q := fun j => (srcs.getD j []).map (fun p => p.1)
      match (a i).op, (a i).pat with
      | some op, _ => EngKind.rowop op d (q 0) (q 1) (q 2) 0
      | none, some p => .rowfill d p 0
      | none, none => .rowcpy d (q 0) 0
    Completes (e.1 x) (fun _ => issueEng (sigOf (e.1 x)) true)
      (fun s i => passes s i ∧ ¬ ((a i).strict = true ∧ fallsBack dst srcs = true) ∧
        s4.engFull i.r.gref = false)
      (fun _ i =>
        let t := (status i).engAcquire i x
        let t := if x.m.getLsbD 3 then t.rowWbinv i.b.core.die dst srcs else t
        { t with
          nextId := t.nextId + 1,
          engines := t.engines ++ [{
            id := t.nextId, grp := i.r.gref, sp := i.r.sp,
            depth := i.g.gates.length, level := i.g.level, kind := kind i, obj := off,
            rel := x.m.getLsbD 4, scope := x.m.toNat % 8, asid := i.g.ctx.asid, fdom := i.g.ctx.fdom,
            die := i.b.core.die, wait := none, began := false }] }) ∧
    Completes (e.1 x) (fun _ => issueEng (sigOf (e.1 x)) true)
      (fun s i => passes s i ∧ (a i).strict = true ∧ fallsBack dst srcs = true)
      (fun _ i => (status i).pushFault i.r.gref { cause := cRowStrict } (some off) false i.g.gates.length)

/-- R319 to R323, R331, R335 to R340: the matrix instructions outside gate calls: what joins the
queue, what closes a batch and waits for one, gangs and regions. -/
def Obligations.MatrixResults : Prop :=
  (∀ x : EF, Completes (.tzero x) (fun _ => issueEng (sigOf (.tzero x)) true)
    (fun s i => i.g.gates = [] ∧ i.g.mq.length < 16 ∧ s.tileOthers i.r.gref x.d.toNat s.nextId = false)
    (fun s i => queued s i.r.gref (.tzero x.d.toNat))) ∧
  (∀ x : EF, let u := { issueEng (sigOf (.mgath x)) true with bMask := some (BitVec.allOnes 32), free := true }
    Completes (.mgath x) (fun _ => u)
    (fun _ i => i.g.gates = [] ∧ i.g.mq.length < 16 ∧ (packAt i x 2).toNat < 16 ∧ (u.empties i).isNone = true ∧
      ∀ L < 32, gatherAt i x L % 16 = 0 ∧
        ∃ l, resolveScr i.b i.g i.r.gref (gatherAt i x L : Nat) 128 .engR = .ok l)
    (fun s i =>
      let c := (packAt i x 2).toNat % 2
      queued ((s.engAcquire i x).modGroup i.r.gref (fun g => { g with
        latches := modAt g.latches c (fun l => { l with valid := true }) })) i.r.gref
        (.mgath c ((List.range 32).map (gatherAt i x)) ((List.range 32).map (i.g.vGet x.b.toNat))))) ∧
  (∀ e ∈ [((Instr.mma : EF → Instr), false), (.mlut, true)], ∀ x : EF,
    Completes (e.1 x) (fun _ => issueEng (sigOf (e.1 x)) true)
    (fun s i => i.g.gates = [] ∧ i.g.mq.length < 16 ∧ productLegal e.2 i x ∧
      (packAt i x 0).toNat < 2 ∧ s.tileOthers i.r.gref x.d.toNat s.nextId = false)
    (fun s i => queued (s.engAcquire i x) i.r.gref (productWork e.2 i x)) ∧
    Completes (e.1 x) (fun _ => issueEng (sigOf (e.1 x)) true)
    (fun s i => i.g.gates = [] ∧ i.g.mq.length < 16 ∧ productLegal e.2 i x ∧
      (hintFt i.cur.hints = true → s.tileOthers i.r.gref x.d.toNat s.nextId = false) ∧
      let gang := (packAt i x 0).toNat / 4 % 4
      (packAt i x 0).toNat / 2 % 2 = 1 ∧ (i.b.gang.getD gang 0).getLsbD i.r.grp = true ∧
      ∀ h ∈ i.b.heldIn gang, h.1 ≠ i.r.grp ∧ h.2.work.mates (productWork e.2 i x) = true)
    (fun s i => queued (s.engAcquire i x) i.r.gref (productWork e.2 i x))) ∧
  (∀ x : EF, Completes (.mfence x) (fun _ => issueEng (sigOf (.mfence x)) false)
    (fun _ i => i.g.gates = [] ∧ i.g.batches.length < 4)
    (fun s i => let n := i.g.nextBatch % 16
      s.modGroup i.r.gref (fun g =>
        let mq := g.mq.map (fun it => if it.batch = none then { it with batch := some n } else it)
        { (g.sSet (x.d.toNat - 48) (BitVec.ofNat 32 n)) with
          nextBatch := (n + 1) % 16, mq := mq,
          batches := (g.batches ++ [n]).dropWhile (fun b => !mq.any (fun it => it.batch == some b)) }))) ∧
  (∀ x : EF, Blocks (.mfence x) (fun _ => issueEng (sigOf (.mfence x)) false)
    (fun _ i => i.g.gates = [] ∧ 4 ≤ i.g.batches.length) (fun _ => .mfence) (fun s _ => s)) ∧
  (∀ x : EF, Completes (.mwait x) (fun _ => issueEng (sigOf (.mwait x)) false)
    (fun _ i => i.g.gates = [] ∧ i.g.batches.contains ((i.g.src x.a 0).toNat % 16) = false ∧
      pickFault i.g.efaults mwaitFault = none) (fun s _ => s)) ∧
  (∀ x : EF, Blocks (.mwait x) (fun _ => issueEng (sigOf (.mwait x)) false)
    (fun _ i => i.g.gates = [] ∧ i.g.batches.contains ((i.g.src x.a 0).toNat % 16) = true)
    (fun i => .mwait ((i.g.src x.a 0).toNat % 16)) (fun s _ => s)) ∧
  (∀ x : EF, Completes (.gang x) (fun _ => issueEng (sigOf (.gang x)) false)
    (fun _ i => let w := i.g.src x.a 0
      i.g.gates = [] ∧ w.toNat < 2 ^ 16 ∧ w.toNat < 2 ^ i.b.groups.length ∧
      (List.range 32).countP (fun n => w.getLsbD n) ≤ 6 ∧ i.b.heldIn (x.m.toNat % 4) = [])
    (fun s i => s.modBlock i.r.blk (fun b =>
      { b with gang := b.gang.set (x.m.toNat % 4) ((i.g.src x.a 0).setWidth 16) }))) ∧
  (∀ x : EF, Completes (.regn x) (fun _ => issueEng (sigOf (.regn x)) false)
    (fun _ i => i.g.gates = [] ∧ i.g.fused = true ∧ i.g.mq = [] ∧ i.g.batches = [])
    (fun s i => s.modGroup i.r.gref (fun g =>
      { g with rgnpc := i.cur.unit, rgnOpen := true, rgncnt := g.rgncnt + 1 })))

/-- R320, R329, R332 to R334: loads and stores of tiles, and the moves between a tile and registers,
where no earlier work on the tile is under way and no tile error is to be delivered. A move from a tile with work under way
issues too: its registers are empty in the lanes of `Active` until that work is done, which then fills them; under f = 1 it
traps `EMPTY_REG`. -/
def Obligations.TileResults : Prop :=
  (∀ (x : EF) (off : Nat) (q : XReg) (ls : List Loc) (s1 s2 : State),
    Completes (.tld x) (fun _ => issueEng (sigOf (.tld x)) true)
    (fun s i => i.g.gates = [] ∧ (packAt i x 0).toInt % 128 = 0 ∧ s.engObj i (packAt i x 1) = .ok off ∧
      s.rebind i.r.gref (x.b.toNat % 8) .engR = (.ok q, s1) ∧
      s1.tileRange i q (packAt i x 0).toInt .engR = (.ok ls, s2) ∧ s2.tileWork i.r.blk x.d.toNat = [])
    (fun _ i => starts s2 i x (.tld x.d.toNat ⟨q, (packAt i x 0).toInt⟩ 0 false) off false)) ∧
  (∀ (x : EF) (q : XReg) (ls : List Loc) (s1 s2 : State),
    Completes (.tst x) (fun _ => issueEng (sigOf (.tst x)) true)
    (fun s i => i.g.gates = [] ∧ (i.g.src x.a 0).toInt % 128 = 0 ∧
      (x.m.getLsbD 4 = true → s.releaseReady i.r = true) ∧
      s.rebind i.r.gref (x.b.toNat % 8) .engW = (.ok q, s1) ∧
      s1.tileRange i q (i.g.src x.a 0).toInt .engW = (.ok ls, s2) ∧
      (∀ l ∈ ls, s2.locWaits i.g l 128 = false) ∧ s2.tileWork i.r.blk x.d.toNat = [] ∧
      pickFault i.g.efaults (tileFault x.d.toNat) = none)
    (fun _ i =>
      let row := fun (c : Nat) => (range' (32 * c) 32).flatMap (fun e =>
        bytesOfNat 4 ((i.b.tiles.getD x.d.toNat []).getD e 0).toNat)
      let t := (ls.zipIdx).foldl (fun (t : State) p =>
        (t.writeLoc i.r.gref p.1 (row p.2) AOrd.weak none).winDrop i p.1 128) s2
      if x.m.getLsbD 4 then t.fenceRel i.r.gref (x.m.toNat % 8) else t)) ∧
  (∀ x : EF, let count := 2 ^ (x.m.toNat % 4)
    Completes (.tmovFromTile x) (fun _ => { issueEng (sigOf (.tmovFromTile x)) true with
      vd := range' x.d.toNat count })
    (fun s i => i.g.gates = [] ∧ (i.g.src x.b 0).toNat % 64 + count ≤ 64 ∧
      s.tileWork i.r.blk x.a.toNat = [] ∧ pickFault i.g.efaults (tileFault x.a.toNat) = none)
    (fun s i => s.modGroup i.r.gref (fun g => tmovApply (i.b.tiles.getD x.a.toNat []) g
      { tile := x.a.toNat, waits := [], d := x.d.toNat, count := count, col := (i.g.src x.b 0).toNat % 64,
        lanes := i.cur.active, level := i.g.level }))) ∧
  (∀ x : EF, let count := 2 ^ (x.m.toNat % 4)
    let u := fun (_ : Iss) => { issueEng (sigOf (.tmovFromTile x)) true with vd := range' x.d.toNat count }
    let meets := fun (s : State) (i : Iss) => i.g.gates = [] ∧ (i.g.src x.b 0).toNat % 64 + count ≤ 64 ∧
      s.tileWork i.r.blk x.a.toNat ≠ []
    Completes (.tmovFromTile x) u
      (fun s i => meets s i ∧ hintFt i.cur.hints = false ∧ pickFault i.g.efaults (tileFault x.a.toNat) = none)
      (fun s i => s.modGroup i.r.gref (fun g => { g with
        fe := (List.range count).foldl (fun fe c => modAt fe (x.d.toNat + c) (fun m => m &&& ~~~i.cur.active)) g.fe,
        tmovs := g.tmovs ++ [{
          tile := x.a.toNat, waits := (s.tileWork i.r.blk x.a.toNat).map (fun w => w.1), d := x.d.toNat,
          count := count, col := (i.g.src x.b 0).toNat % 64, lanes := i.cur.active, level := i.g.level }] })) ∧
    Traps (.tmovFromTile x) u (fun s i => meets s i ∧ hintFt i.cur.hints = true)
      (fun _ => { cause := cEmptyReg, opnd := 1 })) ∧
  (∀ (tile : List Word) (g : Group) (t : PendTmov) (n : Nat), g.gates = [] → (∀ w ∈ g.v, w.length = 32) →
    t.d + t.count ≤ g.v.length → t.d + t.count ≤ g.fe.length →
    let mine := t.d ≤ n ∧ n < t.d + t.count
    (∀ L, (tmovApply tile g t).vGet n L = if mine ∧ t.lanes.getLsbD L = true then
      tile.getD (64 * L + t.col + (n - t.d)) 0 else g.vGet n L) ∧
    (tmovApply tile g t).fe.getD n 0 = if mine then g.fe.getD n 0 ||| t.lanes else g.fe.getD n 0) ∧
  (∀ x : EF, let count := 2 ^ (x.m.toNat % 4)
    let u := { issueEng (sigOf (.tmovToTile x)) true with free := true }
    Completes (.tmovToTile x) (fun _ => u)
    (fun s i => i.g.gates = [] ∧ (i.g.src x.b 0).toNat % 64 + count ≤ 64 ∧ (u.empties i).isNone = true ∧
      s.tileWork i.r.blk x.d.toNat = [] ∧ pickFault i.g.efaults (tileFault x.d.toNat) = none)
    (fun s i => s.modTile i.r.blk x.d.toNat (tileWith i x ((i.g.src x.b 0).toNat % 64) count)))

/-- R388 to R392: every special register reads as its row says; those that `SRW` may write take their
value, the breakpoint registers only in the debug agent. That bit 1 of BRKPT reads 0 is the model's choice (log
entry 41). -/
def Obligations.SpecialRegisterResults : Prop :=
  (∀ e ∈ specials, ∀ x : EF, x.m.toNat = e.1 →
    Completes (.srr x) (issueSr (sigOf (.srr x)) (fun _ => true))
    (fun _ i => e.1 = 8 → i.g.flagsPending = false)
    (fun s i => s.putGroup i.r.gref (
      if e.1 = 0x0C ∨ e.1 = 0x0D ∨ e.1 = 0x11 ∨ e.1 = 0x13 then
        i.g.dst64 x.d i.cur.active (fun L => BitVec.ofNat 64 (e.2 s i L))
      else i.g.dst x.d i.cur.active (fun L => BitVec.ofNat 32 (e.2 s i L))))) ∧
  (∀ (x : EF) (n : Nat), n < 8 → x.m.toNat = 0x30 + n →
    Completes (.srr x) (issueSr (sigOf (.srr x)) (fun i => i.g.debug)) always
    (fun s i => s.putGroup i.r.gref (i.g.dst x.d i.cur.active (fun _ => (s.core i.b.core).brk.getD n 0)))) ∧
  (∀ x : EF, x.m.toNat = 0x08 → Completes (.srw x) (issueSr (sigOf (.srw x)) (fun _ => true))
    (fun _ i => (i.g.srcAt x.a 0 0).toNat < 64 ∧ i.g.flagsPending = false)
    (fun s i => s.modGroup i.r.gref (fun g => { g with flags := i.g.srcAt x.a 0 0 }))) ∧
  (∀ x : EF, x.m.toNat = 0x09 → Completes (.srw x) (issueSr (sigOf (.srw x)) (fun _ => true)) always
    (fun s i => s.modGroup i.r.gref (fun g => { g with rgncnt := i.g.srcAt x.a 0 0 }))) ∧
  (∀ x : EF, x.m.toNat = 0x11 → Completes (.srw x) (issueSr (sigOf (.srw x)) inMode)
    (fun _ i => (i.g.src64 x.a 0).toNat % 4 = 0 ∧ (i.g.src64 x.a 0).toNat < 2 ^ 55)
    (fun s i => s.modGroup i.r.gref (fun g => { g with trap := { g.trap with pc := i.g.src64 x.a 0 } }))) ∧
  (∀ x : EF, x.m.toNat = 0x12 → Completes (.srw x) (issueSr (sigOf (.srw x)) inMode) always
    (fun s i => s.modGroup i.r.gref (fun g => { g with trap := { g.trap with mask := i.g.srcAt x.a 0 0 } }))) ∧
  (∀ (x : EF) (n : Nat), n < 8 → x.m.toNat = 0x30 + n →
    Completes (.srw x) (issueSr (sigOf (.srw x)) (fun i => i.g.debug)) always
    (fun s i => s.modCore i.b.core (fun c =>
      { c with brk := c.brk.set n (i.g.srcAt x.a 0 0 &&& 0xFFFFFFFD) })))

/-- R370, R377, R393, R394: the returns from handler mode and from the debug agent, once what the handler
issued has completed; `TRET.kill` makes the trap unrecoverable. -/
def Obligations.HandlerReturnResults : Prop :=
  (∀ e ∈ [((Instr.tret : EF → Instr), inMode, false), (.dresume, inAgent, true)], ∀ x : EF,
    Moves (e.1 x) (issuePriv (sigOf (e.1 x)) e.2.1)
    (fun s i => i.g.debug = e.2.2 ∧ i.g.fused = true ∧ s.handlerDone i = true)
    (fun s i => (s.modGroup i.r.gref (fun g => g.resume g.trap.pc g.trap.mask)).dropLatch i.r.gref)) ∧
  (∀ x : EF, Moves (.dresumeStep x) (issuePriv (sigOf (.dresumeStep x)) inAgent)
    (fun s i => i.g.fused = true ∧ s.handlerDone i = true ∧ i.g.frames ≠ [])
    (fun s i => (s.modGroup i.r.gref (fun g =>
      { g.resume g.trap.pc g.trap.mask with
        step := (i.g.frames.head?).map (fun f => (f.sp, false)) })).dropLatch i.r.gref)) ∧
  (∀ x : EF, Moves (.tretKill x) (issuePriv (sigOf (.tretKill x)) inMode)
    (fun s i => i.g.debug = false ∧ i.g.fused = true ∧ s.handlerDone i = true)
    (fun s i => s.unrecoverable i.r i.g.trap.cause.toNat)) ∧
  (∀ e ∈ [((Instr.tret : EF → Instr), inMode, false), (.tretKill, inMode, false), (.dresume, inAgent, true),
      (.dresumeStep, inAgent, true)], ∀ x : EF,
    Traps (e.1 x) (issuePriv (sigOf (e.1 x)) e.2.1) (fun _ i => i.g.debug = e.2.2 ∧ i.g.fused = false)
      (fun _ => { cause := cSplitLimit, detail := 3 })) ∧
  (∀ e ∈ [(Instr.tret : EF → Instr), .tretKill], ∀ x : EF,
    Traps (e x) (issuePriv (sigOf (e x)) inMode) (fun _ i => i.g.debug = true) (fun _ => { cause := cIllegalOp }))

/-- R82, R83, R362, R393, R394: a privileged instruction outside the mode that it needs traps `ILLEGAL_OP`; a register
instruction with a hint word that it does not accept traps `ILLEGAL_HINT`, before any check of its fields, and one
whose d lies at or above REGCNT traps `ILLEGAL_OPERAND` with OPND d. That d is named first where other fields are
illegal too is the model's choice (log entry 25). -/
def Obligations.DecodeChecks : Prop :=
  (∀ e ∈ privileged, ∀ (x : EF) (s : State) (i : Iss), s.iss? = some i → e.2 i = false →
     Populated (trapped s i { cause := cIllegalOp }) →
     exec (e.1 x) s = .next (trapped s i { cause := cIllegalOp })) ∧
  (∀ ins ∈ regForms, ∀ (x : RF) (s : State) (i : Iss), s.iss? = some i →
    (i.cur.hints.ximm ≠ none ∨ i.cur.hints.xrnd ≠ none ∨ i.cur.hints.xrcv ≠ none) →
    Populated (trapped s i { cause := cIllegalHint }) →
    exec (ins x) s = .next (trapped s i { cause := cIllegalHint })) ∧
  (∀ ins ∈ regForms, ∀ (x : RF) (s : State) (i : Iss), s.iss? = some i → noHints i.cur.hints →
    i.g.regcnt ≤ x.d.toNat → x.d.toNat < 48 →
    Populated (trapped s i { cause := cIllegalOperand, opnd := 0 }) →
    exec (ins x) s = .next (trapped s i { cause := cIllegalOperand, opnd := 0 }))

/-- R398, R399: a shootdown waits for what it orders and for the row instructions, then removes its translations
everywhere; cache maintenance acts on a physical range or on everything. -/
def Obligations.MaintenanceResults : Prop :=
  (∀ e ∈ shotDown, ∀ x : EF, Completes (e.1 x) (issuePriv (sigOf (e.1 x)) inMode)
    (fun s i => s.releaseReady i.r = true ∧ s.rowsBusy = false)
    (fun s i => (s.fenceRel i.r.gref 5).shootdown (e.2 i x))) ∧
  (∀ e ∈ [((Instr.cmaintClean : EF → Instr), false), (.cmaintFlush, true)], ∀ x : EF,
    Completes (e.1 x) (issuePriv (sigOf (e.1 x)) inMode)
    (fun _ i => (i.g.src64 x.a 0).toNat % 65536 = 0 ∧ (i.g.src x.b 0).toNat ≠ 0 ∧
      (i.g.src x.b 0).toNat ≤ 65536)
    (fun s i => s.maintain (i.g.src64 x.a 0).toNat (65536 * (i.g.src x.b 0).toNat) e.2)) ∧
  (∀ x : EF, Completes (.cmaintSweep x) (issuePriv (sigOf (.cmaintSweep x)) inMode) always
    (fun s _ => s.sweep))

/-- R358, R359, R378 to R382, R395 to R397: gate calls and returns, gate queries, forks and joins. The place of a callee's
window in the store, which VB shows, is the model's choice (log entry 10), and so is that the first-level cache gives way to
it at once (log entry 65). -/
def Obligations.CallResults : Prop :=
  (∀ (x : EF) (q : Gate) (t : State), let u := fun (_ : Iss) => issueEng (sigOf (.gcall x)) true
    let passes := fun (s : State) (i : Iss) => i.g.level = 0 ∧ i.g.fused = true ∧
      s.gateCheck i.b.core.die i.r.gref i.g (i.g.src x.a 0).toNat = (.ok q, t) ∧ i.g.loads = [] ∧
      ∀ v < q.va, i.g.emptyIn v i.cur.active = false
    (∀ vb : Nat, Moves (.gcall x) u (fun s i => passes s i ∧ t.gatePlace i.b.core q = some vb)
      (fun _ i => ((t.modGroup i.r.gref (fun g => g.enterGate q i.r.sp i.cur.next vb)).fitL1
        (t.coreOf i.r.blk) 0).dropLatch i.r.gref)) ∧
    Blocks (.gcall x) u (fun s i => passes s i ∧ t.gatePlace i.b.core q = none)
      (fun i => .gcall (i.g.src x.a 0).toNat) (fun _ _ => t)) ∧
  (∀ (x : EF) (f : GateFrame) (fs : List GateFrame),
    Moves (.gret x) (fun _ => issueEng (sigOf (.gret x)) true)
    (fun s i => i.g.gates = f :: fs ∧ i.g.level = 0 ∧ i.g.fused = true ∧
      (∀ v < f.vr, i.g.emptyIn v i.cur.active = false) ∧ s.calleeDone i = true)
    (fun s i => ((s.endStashes i.r.gref i.g.gates.length).modGroup i.r.gref
      (fun g => g.gateReturn f)).dropLatch i.r.gref)) ∧
  (∀ x : EF, Completes (.gqry x) (fun _ => issueEng (sigOf (.gqry x)) true)
    (fun s i => (s.gateBytes i.b.core.die i.r.gref i.g.ctx (i.g.src x.a 0).toNat).1 = none)
    (fun s i => (s.gateBytes i.b.core.die i.r.gref i.g.ctx (i.g.src x.a 0).toNat).2.modGroup i.r.gref
      (fun g => setPair g x.d (0, 0)))) ∧
  (∀ (x : EF) (bs : List Byte) (t : State), let u := fun (_ : Iss) => issueEng (sigOf (.gqry x)) true
    let found := fun (s : State) (i : Iss) =>
      s.gateBytes i.b.core.die i.r.gref i.g.ctx (i.g.src x.a 0).toNat = (some bs, t)
    Completes (.gqry x) u (fun s i => found s i ∧ natOfBytes ((bs.drop 39).take 1) % 2 = 0)
      (fun _ i => t.modGroup i.r.gref (fun g => setPair g x.d (0, 0))) ∧
    Completes (.gqry x) u (fun s i => found s i ∧ natOfBytes ((bs.drop 39).take 1) % 2 = 1)
      (fun _ i =>
        let c := t.gateCheck i.b.core.die i.r.gref i.g (i.g.src x.a 0).toNat
        c.2.modGroup i.r.gref (fun g => setPair g x.d (BitVec.ofNat 32 (natOfBytes ((bs.drop 36).take 4)),
          match c.1 with | .ok _ => 1 | .error _ => 0)))) ∧
  (∀ (x : EF) (rec bs : List Byte) (p : Region) (s1 s2 s3 : State),
    Completes (.fork x) (fun _ => issueEng (sigOf (.fork x)) true)
    (fun s i =>
      let l := launchRec rec
      i.g.gates = [] ∧ i.g.level = 0 ∧ (i.g.src x.a 0).toInt % 32 = 0 ∧
      s.forkEmpty i (x.b.toNat % 8) (i.g.src x.a 0).toInt = [] ∧
      s.forkRead i.r.gref (x.b.toNat % 8) (i.g.src x.a 0).toInt = (.ok rec, s1) ∧
      s1.region? i.b.rcb = some p ∧ launchBad rec = none ∧ l.holds = true ∧
      s1.ctlLoad i.b.core.die i.r.gref l.rcb 256 = (bs, s2) ∧ rcbBad bs [1] false = none ∧
      budgetOver bs p = false ∧ (regionOfBytes l.rcb bs (some p) l).budgetOk = true ∧
      p.children ≠ 2 ^ 32 - 1 ∧ (∃ a, s2.almanac l = (some a, s3)) ∧ s3.releaseReady i.r = true)
    (fun _ i => s3.forkChild i p bs (launchRec rec))) ∧
  (∀ x : EF, Completes (.join x) (fun _ => issueEng (sigOf (.join x)) false)
    (fun _ i => i.g.gates = [] ∧ i.g.level = 0 ∧ i.b.children = 0) (fun s i => s.joinAcquire i.r)) ∧
  (∀ x : EF, Blocks (.join x) (fun _ => issueEng (sigOf (.join x)) false)
    (fun _ i => i.g.gates = [] ∧ i.g.level = 0 ∧ i.b.children ≠ 0) (fun _ => .join) (fun s _ => s))

/-- R363, R366 to R368, R371, R374, R382, R425: a trap of a group at level 0 or 1 whose domain has a handler saves what
R367 names and makes the group one split at the handler's entry, the entry 0 of the split table; what outstanding loads
still bring to the saved s12 to s15 and `FLAGS` is saved with them (log entry 26; both are the model's choice). A halt
for the debug agent enters that instead, at level 2 the region is killed, and so it is where no handler stands and no
gate call is open; a callee without a handler is aborted. A traced group records the trap first, at the unit's address.
More choices of the model's: a handler entered from the agent's own code runs with DEBUG 0 (log entry 86), which unit a
record names where none is given is the resume address (89), and the s registers that a unit of the new frame leaves pending
count as not yet written by the handler (77). -/
def Obligations.TrapEntry : Prop :=
  ∀ (s : State) (r : SRef) (g : Group) (p : Split) (q : TrapInfo) (pc : Pc) (m : Mask) (va : BitVec 64)
    (pend : Option (Pc × Parked)) (unit : Option Pc), s.group? r.gref = some g → g.splits.getD r.sp none = some p →
    let t := (s.trace r (unit.getD pc) p.mask 3 2 (BitVec.ofNat 32 q.cause)).dropLatch r.gref
    let taken := s.takeTrap r q pc m va pend unit
    let noHandler := ∀ d, t.domains.find? (fun e => e.1 == g.ctx.fdom) = some (g.ctx.fdom, d) →
      d.valid = false ∨ (d.hentry = 0 ∧
        ¬ (q.cause = cBreak ∧ g.ctx.mailbox ≠ 0 ∧ d.dentry ≠ 0 ∧ g.level = 0))
    (∀ d : Domain, t.domains.find? (fun e => e.1 == g.ctx.fdom) = some (g.ctx.fdom, d) → d.valid = true →
      g.level < 2 →
      (d.hentry ≠ 0 → (q.cause = cBreak → g.ctx.mailbox = 0 ∨ d.dentry = 0 ∨ g.level ≠ 0) →
        taken = t.modGroup r.gref (fun h =>
          atEntry h r.sp q pc m va pend d.hentry d.htab d.hcount false)) ∧
      (q.cause = cBreak → g.ctx.mailbox ≠ 0 → d.dentry ≠ 0 → g.level = 0 →
        taken = (t.haltRecord r q pc p.mask).modGroup r.gref (fun h =>
          atEntry h r.sp q pc m va pend d.dentry d.htab d.hcount true))) ∧
    (2 ≤ g.level → taken = t.killFor r.gref cHandlerNest) ∧
    (g.level < 2 → noHandler → (g.level = 0 → g.gates = []) → taken = t.killFor r.gref q.cause) ∧
    (∀ (f : GateFrame) (fs : List GateFrame), g.level = 0 → noHandler → g.gates = f :: fs →
      (t.calleeIdle r.gref g.gates.length = false → taken = t.modGroup r.gref (fun h => h.abortWait q.cause)) ∧
      (t.calleeIdle r.gref g.gates.length = true → f.abort = true → taken = t.popAbort r.gref q.cause))

/-- R367, R370: a resume gives back everything that the entry saved, whatever the handler has done to it (with it what
outstanding loads brought before the save: log entry 26, the model's choice), and the trapping split goes on at the
address given: with `TRAPMASK` 0 it issues the unit there; otherwise the lanes of `TRAPMASK` replay it, and where it is
the parked unit its pending registers stay pending; elsewhere they are no longer. That DEBUG comes back from the frame is the
model's choice (log entry 86). -/
def Obligations.TrapReturn : Prop :=
  ∀ (g h : Group) (sp : Nat) (q : TrapInfo) (pc : Pc) (m : Mask) (va : BitVec 64) (pend : Option (Pc × Parked))
    (entry htab hcount : Nat) (debug : Bool) (dest : Pc) (again : Mask), g.s.length = 16 → g.k.length = 7 →
    g.x.length = 8 → h.s.length = 16 → h.k.length = 7 → h.x.length = 8 →
    let e := g.enter sp q pc m va pend entry htab hcount debug
    h.frames = e.frames → h.level = e.level →
    let b := h.resume (dest.setWidth 64) again
    let unit : Option Parked := (pend.filter (fun u => u.1 == dest)).map (fun u => u.2)
    b.splits = modAt g.splits sp (Option.map (fun p => { p with
      pc := dest, st := .ready,
      replay := if again = 0 then none else some {
        mask := again &&& p.mask, vregs := (unit.map (fun k => k.vregs)).getD [],
        sregs := (unit.map (fun k => k.sregs)).getD [], fl := (unit.map (fun k => k.fl)).getD false,
        va := (pend.map (fun u => u.2.va)).getD 0 } })) ∧
    b.fe = (match pend with
      | none => h.fe
      | some (u, k) => if again ≠ 0 ∧ u = dest then h.fe
        else (h.fe.zipIdx).map (fun x => if x.2 ∈ k.vregs then x.1 ||| k.mask else x.1)) ∧
    b.s = h.s.take 12 ++ g.landSaved.s.drop 12 ∧ b.k = h.k.take 5 ++ g.k.drop 5 ∧
    b.x = h.x.take 6 ++ g.x.drop 6 ∧ b.flags = g.landSaved.flags ∧ b.level = g.level ∧
    b.debug = g.debug ∧ b.frames = g.frames ∧ b.trap = g.trap ∧
    b.ctx = { h.ctx with htab := g.ctx.htab, hcount := g.ctx.hcount } ∧ b.v = h.v

/-- R49 to R51, R191, R212, R215, R217, R219, R235, R245, R359, R367, R395, R406: what ends the waits of
splits: data, acknowledgements, phases, changed words, limits, grants; a `DYIELD` and a `CPQ` that were issued before a
handler was entered complete while it runs. The model's choices among them: where a grown window or a callee's store stands
(log entry 10), an unreadable word at the limit of `DYIELD` (35), the first request that can be met (36), the gate's check
done again at its grant (42), the re-queue of a cohort that waits in `JOIN` (59) and the first-level cache, which gives way
to a callee's store at once (65). -/
def Obligations.WakeEvents : Prop :=
  (∀ (r : GRef) (id : Nat) (ld : PendLoad), Happens (.loadDataReturn r id)
    (fun s => arriving s r id ld) (fun s => arrived s r id ld)) ∧
  (∀ (r : GRef) (id : Nat) (g : Group), Happens (.storeAcknowledged r id)
    (fun s => s.group? r = some g ∧ id ∈ g.unacked)
    (fun s => s.modGroup r (fun g => { g with unacked := g.unacked.filter (fun n => n != id) }))) ∧
  (∀ (r : SRef) (g : Group) (p : Split) (l : PendLoad) (vs : List (Nat × Mask)) (ss : List Nat) (since : Nat),
    let late := fun (s : State) => g.loads.find? (fun l =>
      l.remote && l.since + 2048 < s.cyclesOf (s.coreOf r.blk) &&
        (l.v.any (fun x => vs.any (fun y => y.1 == x.1 && y.2 &&& l.lanes != 0)) ||
          l.s.any (fun x => ss.contains x.1)))
    Happens (.remotePendingTimeout r)
      (fun s => s.group? r.gref = some g ∧ s.split? r = some p ∧ p.st = .operand vs ss ∧ late s = some l)
      (fun s => s.modSplit r (fun p => { p with st := .blocked (.remote l.id) p.pc })) ∧
    Happens (.remotePendingTimeout r)
      (fun s => s.group? r.gref = some g ∧ s.split? r = some p ∧ p.st = .operand vs ss ∧ late s = none ∧
        p.pendSince = some since ∧ since + 2048 < s.cyclesOf (s.coreOf r.blk))
      (fun s => s.modSplit r (fun p => { p with st := .blocked .home p.pc }))) ∧
  (∀ (blk name : Nat) (b : Block), Happens (.barPhaseResume blk name)
    (fun s => s.blocks[blk]? = some b ∧ phaseWaiters s blk name b ≠ [])
    (fun s => (phaseWaiters s blk name b).foldl (fun s r => (s.acquireAt r 1).wake r) s)) ∧
  (∀ (r : SRef) (off : Nat) (p : BitVec 16) (n : Pc) (g : Group), Happens (.mbwaitWake r)
    (fun s => waitsAt s r (.mbwait off p) n ∧ s.group? r.gref = some g ∧
      pickFault g.efaults (objFault g off) = none ∧ objPhase (s.ownRead r.gref off 16) ≠ p)
    (fun s => (s.acquireAt r 1).wake r)) ∧
  (∀ (r : SRef) (x1 : Bool) (off : Int) (val w : Word) (sd start limit : Nat) (n : Pc) (l : Loc),
    Happens (.dyieldWake r)
    (fun s => waitsAt s r (.dyield x1 off val sd start limit) n ∧
      s.watched r.gref x1 off = .ok (l, w) ∧ w ≠ val)
    (fun s => (s.modGroup r.gref (fun g => g.sSet sd 0)).wake r) ∧
    Happens (.dyieldLimitExpiry r)
    (fun s => waitsAt s r (.dyield x1 off val sd start limit) n ∧
      start + limit ≤ s.cyclesOf (s.coreOf r.blk) ∧
      (s.watched r.gref x1 off = .ok (l, val) ∨ ∃ f, s.watched r.gref x1 off = .error f))
    (fun s => (s.modGroup r.gref (fun g => g.sSet sd 1)).wake r)) ∧
  (∀ (r : SRef) (g : Group) (j : Nat) (x1 : Bool) (off : Int) (val w : Word) (sd start limit : Nat) (l : Loc),
    Happens (.dyieldWake r)
    (fun s => framed s r g j (.dyield x1 off val sd start limit) ∧
      s.watched r.gref x1 off = .ok (l, w) ∧ w ≠ val)
    (fun s => frameGoes (frameSet s r.gref j sd 0) r j) ∧
    Happens (.dyieldLimitExpiry r)
    (fun s => framed s r g j (.dyield x1 off val sd start limit) ∧
      start + limit ≤ s.cyclesOf (s.coreOf r.blk) ∧
      (s.watched r.gref x1 off = .ok (l, val) ∨ ∃ f, s.watched r.gref x1 off = .error f))
    (fun s => frameGoes (frameSet s r.gref j sd 1) r j)) ∧
  (∀ (r : SRef) (k : Nat) (m : Nat) (n : Pc) (b : Block) (g : Group) (p : Split),
    let turn := fun (s : State) => waitsAt s r (.regreq k) n ∧ s.blocks[r.blk]? = some b ∧
      s.group? r.gref = some g ∧ s.split? r = some p ∧
      (s.regWaits (s.coreOf r.blk)).find? (s.regMet (s.coreOf r.blk)) = some (r, m)
    Happens (.regreqGrant r)
      (fun s => turn s ∧ (k ≤ g.regcnt ∨ s.regOver b (k - g.regcnt) = false))
      (fun s => (s.grantRegs r.gref k).wake r) ∧
    Happens (.regreqGrant r)
      (fun s => turn s ∧ g.regcnt < k ∧ s.regOver b (k - g.regcnt) = true)
      (fun s => ((s.modSplit r (fun p => { p with st := .ready })).trapAt r { cause := cRegreqDenied } p.pc).after r)) ∧
  (∀ (r : SRef) (q : Nat) (e : CpqEntry) (n : Pc), Happens (.cpqSlotFree r)
    (fun s => waitsAt s r (.cpq q e) n ∧ ((s.die (s.coreOf r.blk).die).queue q).length < 64)
    (fun s => (s.enterCpq (s.coreOf r.blk).die q e).wake r)) ∧
  (∀ (r : SRef) (g : Group) (j q : Nat) (e : CpqEntry), Happens (.cpqSlotFree r)
    (fun s => framed s r g j (.cpq q e) ∧ ((s.die (s.coreOf r.blk).die).queue q).length < 64)
    (fun s => frameGoes (s.enterCpq (s.coreOf r.blk).die q e) r j)) ∧
  (∀ (blk : Nat) (b : Block), Happens (.joinWake blk)
    (fun s => s.blocks[blk]? = some b ∧ b.st = .resident ∧ b.children = 0 ∧
      s.waiters (s.groupsOf blk) (fun r w => w == .join && s.mayWake r.gref) ≠ [])
    (fun s => (s.waiters (s.groupsOf blk) (fun r w => w == .join && s.mayWake r.gref)).foldl
      (fun s r => (s.joinAcquire r).wake r) s)) ∧
  (∀ (blk : Nat) (b : Block), Happens (.joinWake blk)
    (fun s => s.blocks[blk]? = some b ∧ b.st = .waitingJoin ∧ s.isStopped blk = false ∧
      ∀ m ∈ s.blocksAt (s.cohortOf blk), m.joinWaits = false)
    (fun s => ((s.cohortOf blk).foldl (fun s n => s.modBlock n (fun k => { k with st := .saved })) s).requeue
      ((s.cohortOf blk).headD blk))) ∧
  (∀ (r : SRef) (k vb : Nat) (n : Pc) (g : Group) (p : Split) (q : Gate) (t : State),
    Happens (.gcallStoreGrant r)
    (fun s => waitsAt s r (.gcall k) n ∧ s.group? r.gref = some g ∧ s.split? r = some p ∧
      s.gateCheck (s.coreOf r.blk).die r.gref g k = (.ok q, t) ∧ t.mayWake r.gref = true ∧
      t.gatePlace (s.coreOf r.blk) q = some vb)
    (fun _ => (((t.modGroup r.gref (fun g => g.enterGate q r.sp n vb)).fitL1 (t.coreOf r.blk) 0).dropLatch
      r.gref).after r))

/-- R82, R180, R231, R370 to R376, R403, R425: a split parks at a unit with its fault, which the helm cores are offered
where it is a page's, and else the handler at once; a parked fault is replayed or delivered, a breakpoint halts its split,
a fetch faults (for a lost die and an uncorrectable error too: log entry 60, the model's choice), and an unassigned word
traps. -/
def Obligations.FaultEvents : Prop :=
  (∀ (s : State) (r : SRef) (unit : Pc) (f : MFault) (m : Mask) (vs ss : List Nat) (fl : Bool) (g : Group)
      (p : Split), s.group? r.gref = some g → s.split? r = some p →
    let va : BitVec 64 := match f.2 with | some a => BitVec.ofInt 64 a | none => BitVec.ofNat 64 s.freeN.1
    let k : Parked := { info := f.1, va := va, mask := m, token := none, vregs := vs, sregs := ss, fl := fl }
    let at' := fun (t : State) (k : Parked) =>
      t.modSplit r (fun p => { p with pc := unit, st := .parkedFault k, replay := none })
    let token := s.freeN.2.fresh.1
    let core := s.coreOf r.blk
    let sent := (at' s.freeN.2 k).fresh.2.modDie core.die (fun d => { d with faultq := d.faultq ++
      [{ token := token, va := va, asid := g.ctx.asid, fdom := g.ctx.fdom, info := f.1, core := core,
         slot := g.slot, mask := m }] })
    s.parkAt r unit f m vs ss fl =
      if f.1.cause = cPageFault ∨ (f.1.cause = cProtection ∧ (f.1.detail = 2 ∨ f.1.detail = 4)) then
        (sent.trace r unit p.mask 3 2 (BitVec.ofNat 32 f.1.cause)).modSplit r (fun p => { p with
          st := .parkedFault { k with token := some token } })
      else (at' s.freeN.2 k).takeTrap r f.1 unit m va (some (unit, k))) ∧
  (∀ (token d : Nat) (rc : FaultRec) (r : SRef) (k : Parked), Happens (.faultReplay token)
    (fun s => s.recordOf token = some (d, rc) ∧ (∀ m ∈ s.migrations, rc.meets m.leaf = false) ∧
      (s.parkedOn token).head? = some (r, k) ∧ s.mayWake r.gref = true)
    (fun s => (s.served d token).modSplit r (fun p =>
      { p with st := .ready, replay := some ⟨k.mask, k.vregs, k.sregs, k.fl, k.va⟩ }))) ∧
  (∀ (token d : Nat) (rc : FaultRec) (r : SRef) (k : Parked) (p : Split), Happens (.faultDeliver token)
    (fun s => s.recordOf token = some (d, rc) ∧ (∀ m ∈ s.migrations, rc.meets m.leaf = false) ∧
      rc.moved = false ∧ (s.parkedOn token).head? = some (r, k) ∧ s.mayWake r.gref = true ∧ s.split? r = some p)
    (fun s => (((s.served d token).modSplit r (fun p =>
        { p with st := .parkedFault { k with token := none } })).takeTrap r k.info p.pc k.mask k.va
          (some (p.pc, { k with token := none }))).after r)) ∧
  (∀ (r : SRef) (p : Split), Happens (.breakpointHalt r)
    (fun s => s.split? r = some p ∧ s.breaks r = true ∧ s.resident r.blk = true ∧
      (p.st = .ready ∨ ∃ v w, p.st = .operand v w))
    (fun s => ((({ s with cur := none } : State).trapAt r { cause := cBreak, detail := 64 } p.pc).after r))) ∧
  (∀ (cause detail : Nat) (va : BitVec 64) (i : Iss), Happens (.fetchFault cause detail va)
    (fun s => s.iss? = some i ∧
      (cause = cPageFault ∨ cause = cProtection ∨ cause = cDieLost ∨ cause = cEcc))
    (fun s => ((({ s with cur := none } : State).parkAt i.r i.cur.unit
      ({ cause := cause, detail := detail, acc := 3 }, some va.toInt) i.cur.active
      ((i.cur.replay.map (fun q => q.vregs)).getD []) ((i.cur.replay.map (fun q => q.sregs)).getD [])
      ((i.cur.replay.map (fun q => q.fl)).getD false)).after i.r))) ∧
  (∀ (w : Word) (i : Iss), Happens (.unassignedOpcode w)
    (fun s => s.iss? = some i ∧ unassigned (w.toNat / 2 ^ 24))
    (fun s => trapped s i { cause := cIllegalOp })) ∧
  (∀ (w : Word) (i : Iss), Happens (.unassignedOpcode w)
    (fun s => s.iss? = some i ∧ 0xF5 ≤ w.toNat / 2 ^ 24)
    (fun s => trapped s i { cause := cIllegalHint }))

/-- R319, R322, R326, R332, R404 to R408, R411, R412, R415: what the engines do in the background: the
batches, the gangs, resets and tile errors, runs and rows that land, queue entries. Which groups an engine reset or the
drain limit restarts is the model's choice where R324 leaves it open (log entry 33), and so is that the drain limit counts
the cycles of the block's island (log entry 61). -/
def Obligations.EngineEvents : Prop :=
  (∀ (r : GRef) (g : Group),
    let out := fun (s : State) (q : GRef) =>
      let t := s.modGroup q (fun g => { g with
        batches := g.batches.dropWhile (fun n => !g.mq.any (fun it => it.batch == some n)) })
      (t.matrixWaiters q).foldl (fun s w => s.matrixWake w) t
    Happens (.matrixBatchComplete r)
      (fun s => s.group? r = some g ∧ (g.headRun.map (fun it => (r, it)) ++ s.gangPass r) ≠ [])
      (fun s => let run := g.headRun.map (fun it => (r, it)) ++ s.gangPass r
        (r :: (run.map (fun x => x.1)).filter (fun q => q != r)).foldl out
          (run.foldl (fun s x => s.runItem x.1 x.2) s))) ∧
  (∀ (blk gang : Nat) (b : Block),
    let held := b.heldIn gang
    let members := (List.range 16).filter (fun g => (b.gang.getD gang 0).getLsbD g)
    Happens (.gangRelease blk gang)
      (fun s => s.blocks[blk]? = some b ∧ b.st = .resident ∧ 2 ≤ members.length ∧
        (∀ g ∈ members, ∃ h ∈ held, h.1 = g) ∧
        ∀ h ∈ held, s.tileOthers ⟨blk, h.1⟩ (h.2.work.tile?.getD 0) h.2.id = false)
      (fun s => held.foldl (fun s h => s.modGroup ⟨blk, h.1⟩ (fun g => { g with
        mq := g.mq.map (fun it => if it.id = h.2.id then { it with work := it.work.release } else it) })) s)) ∧
  (∀ c : CoreId, c.die < 4 → c.cluster < 3 → c.core < 256 →
    Happens (.matrixEngineReset c) (fun _ => True) (fun s => (resetGroups c s).report (.engineFault c))) ∧
  (∀ (blk tile : Nat) (b : Block), Happens (.tileEccError blk tile)
    (fun s => s.blocks[blk]? = some b ∧ b.st = .resident ∧ tile < b.tiles.length)
    (fun s => (tileErrorGroups blk tile s).modTile blk tile (fun _ => List.replicate 2048 0x7FC00000))) ∧
  (∀ (blk : Nat) (b : Block) (n : Nat), Happens (.drainLimitExpiry blk)
    (fun s => s.blocks[blk]? = some b ∧ b.drain = some n ∧ n + 65536 ≤ s.cyclesOf b.core ∧
      ∃ g ∈ b.groups, g.mq ≠ []) (drained blk)) ∧
  (∀ (id bytes len done : Nat) (op : EngOp) (d q : Endpoint), Happens (.copyRunLanded id bytes)
    (fun s => s.engine? id = some op ∧ op.kind = .copy d q len done ∧ s.resident op.grp.blk = true ∧
      op.wait = none ∧ 0 < bytes ∧ done + bytes ≤ len ∧ (done + bytes = len → s.relWaits op = false))
    (fun s => s.landRun op bytes)) ∧
  (∀ (id bytes done tile : Nat) (b : Bool) (op : EngOp) (q : Endpoint), Happens (.tldRunLanded id bytes)
    (fun s => s.engine? id = some op ∧ op.kind = .tld tile q done b ∧ s.resident op.grp.blk = true ∧
      op.wait = none ∧ 0 < bytes ∧ done + bytes ≤ 8192)
    (fun s => s.landRun op bytes)) ∧
  (∀ (id : Nat) (op : EngOp), Happens (.rowWritten id)
    (fun s => s.engine? id = some op ∧
      (∃ b ∈ s.blocks[op.grp.blk]?, b.st = .resident ∨ b.st = .killed ∨ b.st = .ended) ∧ 0 < op.kind.rowsLeft ∧
      (∀ p ∈ op.kind.nextRows, p / 524288 ∉ s.eccPending ∧ ∃ h ∈ s.homeOf p, (s.die h).st = .running) ∧
      (op.kind.rowsLeft = 1 → s.relWaits op = false) ∧
      ∀ e ∈ s.engines, e.id < op.id → s.rowsRun e.grp.blk = true →
        ∀ p ∈ e.kind.restRows, ∀ q ∈ op.kind.nextRows, p / 524288 ≠ q / 524288)
    (fun s => (op.kind.nextRows.foldl (fun s p => s.carry op.die ((s.homeOf p).getD op.die)) s).rowStep op)) ∧
  (∀ rg : Nat, Happens (.eccRecomputeDone rg) (fun s => rg ∈ s.eccPending)
    (fun s => { s with eccPending := s.eccPending.filter (fun n => n != rg) })) ∧
  (∀ (die q : Nat) (e : CpqEntry), Happens (.cpqEntryRun die q)
    (fun s => s.nextEntry ((s.die die).queue q) = some e ∧ die < 4 ∧ (s.die die).st = .running ∧
      (e.remote = true ∨ (s.die e.recvDie).st = .running))
    (fun s => (if e.remote then s else s.carry die e.recvDie).cpqRun die q e)) ∧
  (∀ (die q : Nat) (e : CpqEntry) (n : Nat) (t : State), Happens (.cpqEntryRun die q)
    (fun s => s.nextEntry ((s.die die).queue q) = some e ∧ die < 4 ∧ (s.die die).st = .running ∧
      e.remote = false ∧ (s.die e.recvDie).st = .lost ∧ s.freeN = (n, t))
    (fun _ => t.cpqEnd die q e { cause := cDieLost, detail := e.recvDie } (BitVec.ofNat 64 n))) ∧
  (∀ (die q : Nat) (e : CpqEntry) (es : List CpqEntry) (h : HandleX) (v : Word),
    Happens (.cpqFlagAtomic die q)
    (fun s => (s.die die).queue q = e :: es ∧ e.flag = some (h, v) ∧ die < 4 ∧ e.landed = e.len ∧
      e.wait = none ∧ s.cpqReady e = true ∧ (e.remote = true ∨ (s.die e.recvDie).st = .running))
    (fun s => s.cpqFlagRun die q e h v))

/-- R261, R264, R265, R270 to R275, R281, R283, R287 to R289: the requests of the coherence system, the
records and their merge, sweeps, and the states of links and dies. The model's choices among them: the class under
which a request of the coherence system asks (log entry 48), how training failures and link errors are counted
and named (log entry 45), and that a malformed record is acknowledged too (log entry 82). -/
def Obligations.CoherenceEvents : Prop :=
  (∀ (c : CoreId) (line cc : Nat),
    let asks := fun (s : State) => s.askClass c line = some cc ∧
      realCore c = true ∧ s.caches c line cc = true ∧ s.homeUp line = true ∧ s.coreHolds c line = false
    Happens (.gets c line) asks (fun s => (s.l1Read c line cc).2) ∧
    Happens (.getm c line) asks (fun s => (s.getM c line cc).2.putL1 c
      { line := line, st := .m, data := (s.getM c line cc).1, mask := 0 }) ∧
    (∀ x : L1Line, Happens (.upg c line) (fun s => s.l1? c line = some x ∧ s.askClass c line = some cc ∧
      x.st = .s ∧ s.homeUp line = true) (fun s => s.upg c line cc))) ∧
  (∀ (c : CoreId) (line : Nat) (x : L1Line),
    Happens (.putm c line) (fun s => s.l1? c line = some x ∧ x.st = .m) (fun s => s.put c line) ∧
    Happens (.pute c line) (fun s => s.l1? c line = some x ∧ x.st = .e) (fun s => s.put c line)) ∧
  (∀ die line : Nat, die < 4 →
    Happens (.l2Eviction die line) (fun s => (s.l2? die line).isSome = true ∧ s.homeUp line = true)
      (fun s => s.evict die line) ∧
    Happens (.earlyDifference die line) (fun s => line ∈ (s.die die).dirtyLines)
      (fun s => s.earlyDiff die line)) ∧
  (∀ die : Nat, die < 4 → Happens (.deviceReleaseRun die)
    (fun s => (s.die die).st = .running ∧ s.toReset die = false ∧ s.mergeHeld die = false)
    (fun s => s.deviceRelease die)) ∧
  (∀ (src home : Nat) (r : DiffRec), Happens (.diffRecordMerge src home)
    (fun s => s.records.find? (fun r => r.src == src && !r.merged && s.homeOfLine r.line == some home) =
      some r ∧ (s.die home).st = .running ∧ s.mergeTurn r.line home src ≠ .held)
    (fun s => let t := s.mergeRecord r
      { t with
        records := modFirst (fun q => q == r) (fun (q : DiffRec) => { q with merged := true }) t.records })) ∧
  (∀ (src : Nat) (r : DiffRec), Happens (.mergeAck src)
    (fun s => s.records.find? (fun r => r.src == src && r.merged) = some r)
    (fun s => { s.reach src r.line with records := dropFirst (fun r => r.src == src && r.merged) s.records })) ∧
  Happens .coherenceSweep (fun s => s.sweepDue = true) (fun s => s.sweep) ∧
  (∀ (q : HomeReq) (n : Nat), Happens (.homeSliceAccess q)
    (fun s => q.kind = .strongLoad n ∧ 1 ≤ n ∧ q.pa % 128 + n ≤ 128 ∧ s.homeAdmits q = true ∧
      (∀ m, s.rangeOf q.pa = some m → m.target ≠ .host) ∧ s.homeUp (q.pa / 128) = true ∧
      q.pa / 524288 ∉ s.eccPending)
    (fun s =>
      let t := match q.src with | .die d => s.reach d (q.pa / 128) | _ => s
      let e := (t.sliceLoad q n).2.sliceEntry q
      e.2.reply (((t.sliceLoad q n).1.drop (q.pa % 128)).take n) e.1) ∧
    Happens (.homeSliceAccess q)
    (fun s => q.src = .host ∧ q.kind = .strongLoad n ∧ 1 ≤ n ∧ q.pa % 128 + n ≤ 128 ∧
      ∃ m, s.rangeOf q.pa = some m ∧ m.target = .host)
    (fun s => s.reply (Memory.read s.hostMem q.pa n))) ∧
  (∀ (link : Nat) (l : Link),
    Happens (.linkSleep link) (fun s => s.links[link]? = some l ∧ l.asleep = false ∧ l.failed = false ∧
      l.held = false ∧ l.busy + 50000 ≤ s.wall.toNat)
      (fun s => { s with links := s.links.set link { l with asleep := true } }) ∧
    Happens (.linkWake link) (fun s => s.links[link]? = some l ∧ (l.asleep = true ∨ l.failed = true))
      (fun s => { s with links := s.links.set link { l with
        asleep := false, failed := false, failures := 0, waking := none, up := s.wall.toNat,
        busy := s.wall.toNat } }) ∧
    Happens (.linkError link) (fun s => s.links[link]? = some l ∧ l.failed = false)
      (fun s => { s with links := s.links.set link { l with failed := true, asleep := false } })) ∧
  (∀ (link die : Nat) (l : Link),
    let fails := fun (s : State) => { s with
        links := s.links.set link { l with
          failed := true, asleep := false, waking := none, failures := l.failures + 1 } }
    let trains := fun (s : State) => s.links[link]? = some l ∧ die ∈ linkDies link ∧ (s.die die).st ≠ .lost ∧
      (l.failed = true ∨ (l.asleep = true ∧ l.waking.isSome = true))
    Happens (.linkTrainingFailure link die) (fun s => trains s ∧ l.failures < 2) fails ∧
    Happens (.linkTrainingFailure link die) (fun s => trains s ∧ 2 ≤ l.failures)
      (fun s => (fails s).dieLost die)) ∧
  (∀ die : Nat, die < 4 →
    (∀ (n : Nat) (l : Link), Happens (.dieLostTimeout die)
      (fun s => (s.die die).st ≠ .lost ∧ s.links[n]? = some l ∧ die ∈ linkDies n ∧ l.asleep = false ∧
        l.failed = false ∧ l.up + 250000 ≤ s.wall.toNat ∧ ((s.die die).st = .inReset ∨
          ∃ r ∈ s.records, linkOf r.src die = some n ∧ s.homeOfLine r.line = some die ∧ l.up ≤ r.sent ∧
            r.sent + 250000 ≤ s.wall.toNat))
      (fun s => s.dieLost die)) ∧
    Happens (.dieRejoin die) (fun s => (s.die die).st = .inReset)
      (fun s =>
        let t := s.modDie die (fun k => { k with st := .running, ev := List.range 1024 })
        if t.sweep.away = t.away then t.sweep else { t with sweepOwed := true }))

/-- R221, R326, R344, R348, R351 to R354, R357: blocks are dispatched, saved and restored, regions complete,
and deadlines run out. When a cohort is saved, also one that waits in `JOIN`, and which items a queue offers, are the
model's choices (log entries 43, 59 and 62), and so are the place of a block on its core (10) and the island whose cycles
the deadlines count (61). -/
def Obligations.SchedulingEvents : Prop :=
  (∀ (die cluster n rcb : Nat) (cores : List Nat) (t : State), die < 4 →
    Happens (.blockDispatch die cluster cores)
      (fun s => s.placeFirst die (coresIn die cluster cores) (s.candidates die) =
        some ((n, .launch rcb), t)) (fun _ => t)) ∧
  (∀ (blk cluster n : Nat) (cores : List Nat) (t : State), Happens (.blockRestore blk cluster cores)
    (fun s => s.placeFirst (s.coreOf blk).die (coresIn (s.coreOf blk).die cluster cores)
      (s.candidates (s.coreOf blk).die) = some ((n, .block blk), t)) (fun _ => t)) ∧
  (∀ blk : Nat, Happens (.blockSave blk)
    (fun s => s.saveDue blk = true ∧ (∀ n ∈ s.cohortOf blk, s.settled n = true) ∧ s.isStopped blk = true)
    (fun s => (s.cohortOf blk).foldl (fun s n => s.saveBlock .saved n) s)) ∧
  (∀ blk : Nat, Happens (.blockSave blk)
    (fun s => s.saveDue blk = true ∧ (∀ n ∈ s.cohortOf blk, s.settled n = true) ∧ s.isStopped blk = false ∧
      ∃ b ∈ s.blocksAt (s.cohortOf blk), b.joinWaits = true)
    (fun s => (s.cohortOf blk).foldl (fun s n => s.saveBlock .waitingJoin n) s)) ∧
  (∀ blk : Nat, Happens (.blockSave blk)
    (fun s => s.saveDue blk = true ∧ (∀ n ∈ s.cohortOf blk, s.settled n = true) ∧ s.isStopped blk = false ∧
      ∀ b ∈ s.blocksAt (s.cohortOf blk), b.joinWaits = false)
    (fun s => ((s.cohortOf blk).foldl (fun s n => s.saveBlock .saved n) s).requeue
      ((s.cohortOf blk).headD blk))) ∧
  (∀ (rcb : Nat) (q : Region), Happens (.regionComplete rcb)
    (fun s => s.region? rcb = some q ∧ q.st < 4 ∧ s.gridDone q = true ∧ q.children = 0 ∧
      ∀ d ∈ q.dies, s.toReset d = false ∧ s.mergeHeld d = false)
    (fun s => s.completeRegion rcb 5)) ∧
  (∀ (r : GRef) (g : Group), g.level ≠ 0 → Happens (.preemptDeadline r)
    (fun s => s.group? r = some g ∧ s.overdue r false = true) (fun s => s.killFor r cPreemptDeadline)) ∧
  (∀ (r : GRef) (g : Group), g.level = 0 → Happens (.preemptDeadline r)
    (fun s => s.group? r = some g ∧ s.overdue r false = true)
    (fun s => s.modGroup r (fun g => { g with
      async := g.async ++ [(cPreemptDeadline, 0)],
      deadline := g.deadline.map (fun d =>
        { d with start := s.cyclesOf (s.coreOf r.blk), second := true }) }))) ∧
  (∀ r : GRef, Happens (.handlerDeadlineKill r) (fun s => s.overdue r true = true)
    (fun s => s.killFor r cPreemptDeadline)) ∧
  (∀ (c : CoreId) (n : Nat), Happens (.regreqDeadlockEvict c)
    (fun s => s.evictee c = some n ∧ s.regDeadlock c = true ∧
      ∀ b ∈ s.blocksAt (s.blocksOn c), b.preempting = false)
    (fun s => ((s.cohortOf n).foldl (fun s m => s.modBlock m (fun b => { b with
      evicted := true,
      groups := b.groups.map (fun g => { g with preempting := g.preempting || !g.ended }) })) s).noteDrains))

/-- R287, R289, R344, R345, R353, R419 to R433: Rolger takes the entries of a doorbell, and each command
whose entry keeps its limits has its effect and its status; boot, and the timers of the package. The model's
choices among them: the signature of a status word (log entry 18), the frames that MAP takes (20), the layout of ATTEST's
report (21), what TRACE_CFG writes to the trace header, EN and WIDX (22), what boot leaves open (23), the detail of an
unknown code (54), when a lost die ends a command (64) and where the helm cores stand after boot (75). -/
def Obligations.CommandEvents : Prop :=
  (∀ (q tail : Nat) (k : CmdQueue), Happens (.doorbellWrite q tail)
    (fun s => s.queues[q]? = some k ∧ s.boot = .running ∧ k.count ≠ 0 ∧ tail < k.count ∧
      (s.headless = true → q ≠ 0))
    (fun s =>
      let es := s.ringEntries q k k.head ((tail + k.count - k.head) % k.count)
      es.1.foldl (fun (s : State) e =>
        if 1 ≤ natOfBytes ((e.bytes.drop 0).take 2) ∧ natOfBytes ((e.bytes.drop 0).take 2) ≤ 14 then
          { s with taken := s.taken ++ [e] } else s.refuseAt e 0 0)
        { es.2 with queues := es.2.queues.set q { k with head := tail, tail := tail } })) ∧
  (∀ (rec bs : List Byte) (a : List (List Byte)) (s1 s2 s3 : State), let l := launchRec rec
    let q := regionOfBytes l.rcb bs none l
    Commands .launch 1 (range' 16 10) (fun e =>
      [(16, isPa (argOf e 16 8) && argOf e 16 8 % 32 == 0), (24, argOf e 24 2 == 0 ||
        (16 ≤ argOf e 24 2 && argOf e 24 2 ≤ 256 && argOf e 24 2 % 16 == 0))])
    (fun e s => s.physRead (argOf e 16 8) 160 = (rec, s1) ∧ launchBad rec = none ∧ l.holds = true ∧
      s1.physRead l.rcb 256 = (bs, s2) ∧ rcbBad bs [0, 2] true = none ∧
      inBudget q.regu (l.gpb * l.regs / 8) = true ∧ inBudget q.spu (l.scratch / 1024) = true ∧
      inBudget q.tileu l.tiles = true ∧ s2.almanac l = (some a, s3))
    (fun e _ =>
      let st := if (s3.waitsMet l).1 then 0 else 1
      let p : Region := { q with st := st }
      ((((s3.initRcb l.rcb 0 st).setTwincap l (argOf e 24 2)).putRegion p).enqueueLaunch p).complete e 0 0
        (sigOfRange l.rcb 256))) ∧
  (∀ q : Region, Commands .preempt 2 (range' 16 9) (fun e =>
      [(16, isPa (argOf e 16 8)), (24, argOf e 24 1 < 16)])
    (fun e s => namesRegion q e s ∧ q.st < 4)
    (fun e s => let t := s.preemptNow q (diesOf (argOf e 24 1))
      if t.preempted e then t.complete e 0 0 (sigOfRange (argOf e 16 8) 256)
      else { t with pending := t.pending ++ [e] })) ∧
  (∀ q : Region, Commands .resume 3 (range' 16 8) (fun e => [(16, isPa (argOf e 16 8))])
    (fun e s => namesRegion q e s ∧ q.st = 3 ∧ s.preemptPending q.rcb = false)
    (fun e s => (s.resumeNow q).complete e 0 0 (sigOfRange (argOf e 16 8) 256))) ∧
  (∀ q : Region, Commands .kill 4 (range' 16 8) (fun e => [(16, isPa (argOf e 16 8))])
    (fun e s => namesRegion q e s ∧ q.st < 4)
    (fun e s => (s.killRegion q.rcb (s.regions.length + 1)).complete e 0 0 (sigOfRange (argOf e 16 8) 256))) ∧
  (∀ e : CmdEntry, ∀ t : State, let named := range' 16 2 ++ range' 24 20
    let chk := fun (s : State) => (32, s.pteOk (argOf e 32 8) (argOf e 40 4)) :: pagesBad e
    Happens (.map e)
      (fun s => startsAs s e 5 ∧ limitsOk e named (chk s) ∧ ¬ heldUp s e ∧
        (taking s e).mapPages (argOf e 16 2) (argOf e 24 8) (argOf e 32 8) (argOf e 40 4) = some t)
      (fun _ => t.complete e 0 0 (t.sigOfPages (argOf e 16 2) (argOf e 24 8) (argOf e 40 4))) ∧
    Happens (.map e)
      (fun s => startsAs s e 5 ∧ limitsOk e named (chk s) ∧ heldUp s e)
      (fun s => { taking s e with pending := s.pending ++ [e] })) ∧
  Commands .unmap 6 (range' 16 2 ++ range' 24 8 ++ range' 40 4) pagesBad
    (fun e s => (∃ r ∈ s.roots, r.1 = argOf e 16 2) ∧ ¬ heldUp s e)
    (fun e s => ((List.range (argOf e 40 4)).foldl (fun s j =>
      s.unmapPage (argOf e 16 2) (argOf e 24 8 + 65536 * j)) s).complete e 0 0
        (s.sigOfPages (argOf e 16 2) (argOf e 24 8) (argOf e 40 4))) ∧
  (∀ (pte old lvl : Nat) (t : State), let chk := fun (e : CmdEntry) =>
      [(24, argOf e 24 8 % 65536 == 0 && argOf e 24 8 < 2 ^ 55), (32, argOf e 32 1 < 2)]
    let named := range' 16 2 ++ range' 24 9
    let page := fun (e : CmdEntry) => leafOf old pte lvl (argOf e 16 2) (argOf e 24 8)
    let maps := fun (e : CmdEntry) (s : State) => s.leafAt (argOf e 16 2) (argOf e 24 8) = some (old, pte, lvl) ∧
      s.pinned (page e) = false
    let rd := fun (e : CmdEntry) (s : State) => s.leafRead (argOf e 16 2) (argOf e 24 8)
    Commands .migrate 7 named chk
      (fun e s => maps e s ∧ (rd e s).inTier (argOf e 32 1) (page e).pbase = true)
      (fun e s => (rd e s).complete e 0 0) ∧
    Commands .migrate 7 named chk
      (fun e s => maps e s ∧ (rd e s).inTier (argOf e 32 1) (page e).pbase = false ∧
        (rd e s).migrateTo (argOf e 32 1) (page e).size = (none, t)) (fun e _ => t.complete e 1 32) ∧
    ∀ f : Nat, Commands .migrate 7 named chk
      (fun e s => maps e s ∧ (rd e s).inTier (argOf e 32 1) (page e).pbase = false ∧ e ∉ s.pending ∧
        (rd e s).migrateTo (argOf e 32 1) (page e).size = (some f, t))
      (fun e _ =>
        let u := (t.physWrite pte (bytesOfNat 8 (old - 1))).shootdown (tlbiVaLeaf (argOf e 16 2) (argOf e 24 8))
        ({ u with
            pending := u.pending ++ [e],
            migrations := u.migrations ++ [⟨e, pte, old, page e, f, 2⟩] } : State))) ∧
  Commands .dieReset 8 [16] (fun e => [(16, argOf e 16 1 < 4)])
    (fun e s => e.queue = (if s.headless then 1 else 0) ∧ (s.die (argOf e 16 1)).st = .running)
    (fun e s => let t := s.dieReset (argOf e 16 1)
      { t with pending := t.pending ++ [e] }) ∧
  Commands .linkPower 9 [16, 17] (fun e => [(16, argOf e 16 1 < 64), (17, argOf e 17 1 < 2)])
    (fun _ _ => True)
    (fun e s => let hold := argOf e 17 1 == 1
      ({ s with links := (s.links.zipIdx).map (fun x => if (argOf e 16 1).testBit x.2 then
          if hold && x.1.asleep then { x.1 with held := true, asleep := false, failed := false, waking := none,
                                                up := s.wall.toNat, busy := s.wall.toNat }
          else { x.1 with held := hold } else x.1) } : State).complete e 0 0) ∧
  (∀ (nonce pad : List Byte) (s1 s2 : State), Commands .attest 10 (range' 16 16)
    (fun e => [(16, isPa (argOf e 16 8)), (24, isPa (argOf e 24 8))])
    (fun e s => s.physRead (argOf e 16 8) 32 = (nonce, s1) ∧ s1.freeBytes 18 = (pad, s2))
    (fun e _ =>
      let body := nonce ++ fixLen 32 s2.imageDigest ++ bytesOfNat 4 s2.version.toNat ++
        bytesOfNat 8 Config.serial.toNat ++ bytesOfNat 2 (Config.deviceNumber.toNat % 1024) ++ pad
      (s2.physWrite (argOf e 24 8) (body ++ fixLen 64 (Config.ecdsaSign body))).complete e 0 0
        (sigOfRange (argOf e 24 8) 160))) ∧
  (∀ q : Region, Commands .traceCfg 11 (range' 16 16)
    (fun e => [(16, isPa (argOf e 16 8)), (24, isPa (argOf e 24 8))])
    (fun e s => namesRegion q e s ∧ argOf e 24 8 = 0)
    (fun e s => (traced s q 0).complete e 0 0)) ∧
  (∀ (q : Region) (d : List Byte) (t : State), Commands .traceCfg 11 (range' 16 16)
    (fun e => [(16, isPa (argOf e 16 8)), (24, isPa (argOf e 24 8))])
    (fun e s => namesRegion q e s ∧ argOf e 24 8 ≠ 0 ∧ s.physRead (argOf e 24 8) 64 = (d, t) ∧ traceBad d = none)
    (fun e _ => let a := argOf e 24 8
      (((traced t q a).physWrite (a + 16) (bytesOfNat 8 0)).physWrite (a + 32) [1]).complete e 0 0 (sigOfRange a 64))) ∧
  (let named := [16] ++ range' 24 16
    let chk := fun e => [(16, decide (argOf e 16 1 < 3)), (24, isPa (argOf e 24 8) && argOf e 24 8 % 4096 == 0),
      (32, argOf e 32 8 % 32 == 0 && 64 ≤ argOf e 32 8)]
    Commands .replayCfg 12 named chk (fun e _ => argOf e 16 1 = 0) (fun e s => (replaySet s e 0 0).complete e 0 0) ∧
    Commands .replayCfg 12 named chk (fun e _ => argOf e 16 1 = 1)
      (fun e s => (replaySet (s.physWrite (argOf e 24 8) (List.replicate 32 0)) e 1 0).complete e 0 0
        (sigOfRange (argOf e 24 8) 32)) ∧
    ∀ (h : List Byte) (t : State), Commands .replayCfg 12 named chk
      (fun e s => argOf e 16 1 = 2 ∧ s.physRead (argOf e 24 8) 8 = (h, t))
      (fun e _ => (replaySet t e 2 (natOfBytes h)).complete e 0 0)) ∧
  Commands .powerCap 13 (range' 16 4) (fun e => [(16, 600 ≤ argOf e 16 4 && argOf e 16 4 ≤ 3600)])
    (fun e s => e.queue = if s.headless then 1 else 0)
    (fun e s => ({ s with power := { s.power with cap := argOf e 16 4 } } : State).complete e 0 0) ∧
  (∀ e : CmdEntry, ∀ bs : List Byte, Happens (.query e)
    (fun s => s.starts e = true ∧ argOf e 0 2 = 14 ∧ argOf e 18 1 = 0 ∧ s.boot ≠ .off ∧
      limitsOk e (range' 16 3 ++ range' 24 16) ((18, argOf e 18 1 < 2) :: queryBad e) ∧
      (taking s e).itemReply (argOf e 16 2) (argOf e 32 8) = some bs)
    (fun s => ((taking s e).physWrite (argOf e 24 8) bs).complete e 0 bs.length
      (sigOfRange (argOf e 24 8) bs.length))) ∧
  (∀ e : CmdEntry, let v := argOf e 32 8
    let set := fun (s : State) =>
      ({ taking s e with hot := { (taking s e).hot with interval := v } } : State)
    Happens (.queryWrite e)
    (fun s => s.starts e = true ∧ argOf e 0 2 = 14 ∧ argOf e 18 1 = 1 ∧ s.boot ≠ .off ∧
      argOf e 16 2 = 7 ∧ 100 ≤ v ∧ v ≤ 100000 ∧ limitsOk e (range' 16 3 ++ range' 24 16)
        ((18, true) :: (18, true) :: (32, true) :: queryBad e))
    (fun s => ((set s).physWrite (argOf e 24 8) (bytesOfNat 4 v)).complete e 0 4
      (sigOfRange (argOf e 24 8) 4))) ∧
  (∀ (map : List MapRange) (images : List (List Byte)) (s : State), s.boot = .off → mapOk map = true →
    ∃ u : State, u.map = map ∧ u.reports = s.reports ∧ u.dram = s.dram ∧ u.dies = s.dies ∧
      (∀ im : List Byte, (images.take 16).find? imageOk = some im →
        let n := natOfBytes ((im.drop 8).take 8)
        let load := natOfBytes ((im.drop 16).take 8)
        let entry := natOfBytes ((im.drop 24).take 8)
        let v : State := { u with
          helmEntry := entry, helms := u.helms.map (fun h => { h with pc := BitVec.ofNat 64 entry }) }
        let t : State := { (if u.covered load n 65 then v.physWrite load ((im.drop 256).take n) else v) with
          boot := .running, imageVersion := BitVec.ofNat 32 (natOfBytes ((im.drop 4).take 4)),
          imageDigest := Config.sha256 ((im.drop 256).take n) }
        Populated t → exec (.boot map images) s = .next t) ∧
      ((images.take 16).find? imageOk = none → 16 ≤ images.length → Populated s →
        exec (.boot map images) s =
          .next { u with boot := .recovery, reports := s.reports ++ [.bootFailed 16] })) ∧
  (∀ s : State, Populated s → s.boot ≠ .off → s.power.tick + 10000 ≤ s.wall.toNat →
    ∃ p : Power, exec .powerArbiterTick s = .next { s with power := p, free := s.free + 17 } ∧
      p.tick = s.wall.toNat ∧ p.cap = s.power.cap ∧ p.margin = s.power.margin) ∧
  (∀ s : State, Populated s → s.boot ≠ .off → s.power.sound + 1000000000 ≤ s.wall.toNat →
    ∃ p : Power, exec .soundingReplan s = .next { s with power := p, free := s.free + 32 } ∧
      p.sound = s.wall.toNat ∧ p.cap = s.power.cap ∧ p.steps = s.power.steps) ∧
  (∀ c : Nat, c < 24 → Happens (.hotnessIntervalEnd c)
    (fun s => s.boot ≠ .off ∧ s.hot.since.getD c 0 + 1000 * s.hot.interval ≤ s.wall.toNat)
    (fun s => { s with hot := { interval := s.hot.interval,
                                lists := (c, s.hottest c) :: s.hot.lists.filter (fun x => x.1 != c),
                                sketch := s.hot.sketch.filter (fun x => x.1 != c),
                                since := s.hot.since.set c s.wall.toNat } }))

/-- R62, R80, R82: decoding what the encoder gives for a well-formed instruction gives it back, and a word
that decodes is what the encoder gives for its instruction; words of one unit in memory order likewise. -/
def Obligations.EncodeDecodeAgree : Prop :=
  (∀ (i : Instr) (w : Word), WellFormed i = true → encode i = some w → decodeWord w = .ok i) ∧
  (∀ (i : Instr) (w : Word), decodeWord w = .ok i → encode i = some w) ∧
  (∀ (i : Instr) (w : Word) (ws : List Word), WellFormed i = true → encode i = some w →
    unitOfWords (w :: ws) {} 0 = .ok { hints := {}, word := w, words := 1, instr := .ok i })

/-- R61 to R63, R69 to R71: words written out from the spec's encodings decode to their instructions. -/
def Obligations.DecodedWords : Prop := ∀ e ∈ samples, decodeWord e.1 = .ok e.2

/-- R72, R83, R180, R324, R350, R365: where no input, command, restart, cause or complete gang stands before it (log
entry 4, the model's choice), a step fetches the unit of the split that issues next and runs exec of its instruction,
after the splits that fuse with it have done so, but at the lane-crossing instructions and `EXIT` (R38; log entry 88, the
model's choice).
Before that the first group with a restart due restarts, and one for which a cause waits takes it in its lowest-numbered
entry that can issue or wakes; an input of the agenda is run by exec itself. What follows every step is `close`. -/
def Obligations.StepRunsUnit : Prop :=
  (∀ (s t : State) (r : SRef) (p : Split) (ws : List Word) (u : DUnit) (i : Instr), s.agenda = [] →
    firstOf s s.startCmd = none → s.prepare = none → firstOf s s.releases = none →
    (s.steps % 8 = 7 → s.own = none) → (s.steps % 8 = 3 → s.rearm = none) → s.pick = some r → s.split? r = some p →
    s.breaks r = false → s.fetchUnit r p.pc 3 = (.ok ws, t) → unitOfWords ws {} 0 = .ok u → u.instr = .ok i →
    let f := t.fuseIssue r
    let c : SRef × State × Split := if unitFuses ws then (f.1, f.2, (f.2.split? f.1).getD p) else (r, t, p)
    step s = match exec i { c.2.1 with cur := some (curOf c.1 c.2.2 u.words u.hints) } with
      | .next q => .next q.close
      | o => o) ∧
  (∀ (s : State) (before after : List (GRef × Group)) (r : GRef) (g : Group), s.agenda = [] →
    firstOf s s.startCmd = none → s.liveGroups = before ++ (r, g) :: after →
    (∀ x ∈ before, x.2.restarts = false ∧ x.2.nextAsync = none) →
    (g.restarts = true → (s.restart r).away = none → step s = .next (s.restart r).close) ∧
    (∀ (c : Nat × Nat) (e : Nat) (p : Split), g.restarts = false → g.nextAsync = some c →
      g.valid.find? (fun y => s.takesCause ⟨r.blk, r.grp, y.1⟩ g y.2 c.1) = some (e, p) →
      (s.takeAsync ⟨r.blk, r.grp, e⟩).away = none →
      step s = .next (s.takeAsync ⟨r.blk, r.grp, e⟩).close)) ∧
  (∀ (s : State) (i : Instr) (is : List Instr), s.agenda = i :: is →
    step s = match exec i { s with agenda := is } with
      | .next q => .next q.close
      | o => o)

/-- R1, R199: what was stored is read back, a store leaves every other address alone, and two
memories in the canonical form which read the same are equal. -/
def Obligations.MemoryLaws : Prop :=
  (∀ (m : List Host.Cell) (a c : Nat) (b : Byte), Memory.wf m = true →
    Memory.get (Memory.set m a b) c = if c = a then b else Memory.get m c) ∧
  (∀ (m : List Host.Cell) (a : Nat) (bs : List Byte) (c : Nat), Memory.wf m = true →
    Memory.get (Memory.write m a bs) c =
      if a ≤ c ∧ c < a + bs.length then bs.getD (c - a) 0 else Memory.get m c) ∧
  (∀ (m : List Host.Cell) (a : Nat) (k : BitVec 128) (n : Nat) (bs : List Byte) (c : Nat),
    Memory.wf m = true → Memory.get (Memory.writeMasked m a k n bs) c =
      if a + n ≤ c ∧ c < a + n + bs.length ∧ k.getLsbD (c - a) = true then bs.getD (c - a - n) 0
      else Memory.get m c) ∧
  (∀ m k : List Host.Cell, Memory.wf m = true → Memory.wf k = true →
    (∀ a, Memory.get m a = Memory.get k a) → m = k)

/-- R53, R65, R67, R127, R180: an instruction on registers changes nothing but its destination in the lanes of
`Part`; the carry instructions also k7, a compare or vote its predicate, a floating-point instruction or conversion also
`FLAGS`, `SEL` and an immediate instruction in the lanes of `Active`, a reduction, a ballot and `LANEB` one s register.
The bit-field instructions, the shuffles and the packing instructions where their operands are legal. -/
def Obligations.RegisterFrames : Prop :=
  (∀ ins ∈ regForms, ∀ x : RF, let sig := sigOf (ins x)
    Frames (ins x) (fun _ => issueR sig x) (fun i =>
      { v := sig.dR.vRegs x.d, s := sig.dR.sRegs x.d, k := [], flags := false, lanes := i.part x.g })) ∧
  (∀ ins ∈ [(Instr.iaddc32 : RF → Instr), .isubb32], ∀ x : RF, let sig := sigOf (ins x)
    Frames (ins x) (fun _ => issueR sig x) (fun i =>
      { v := sig.dR.vRegs x.d, s := sig.dR.sRegs x.d, k := [7], flags := false,
        lanes := if isS x.d then i.cur.active else i.part x.g })) ∧
  (∀ ins ∈ predForms, ∀ x : RF, Frames (ins x) (fun _ => issueR (sigOf (ins x)) x) (fun i =>
    { v := [], s := [], k := [x.d.toNat % 8], flags := false, lanes := i.part x.g })) ∧
  (∀ e ∈ fpForms, ∀ x : RF, let sig := sigOf (e.1 x)
    Frames (e.1 x) (fun _ => issueF sig x e.2) (fun i => .dest sig x.d true (i.part x.g))) ∧
  (∀ e ∈ fpFused.map (fun e => (e.1, if e.2 = .f64 then 2 else 1)) ++ [(.fdot2H2, 1), (.fdot2Bh2, 1)], ∀ x : RF,
    let sig := sigOf (e.1 x)
    Frames (e.1 x) (issueF3 sig e.2 x) (fun i => .dest sig x.d true (i.part x.g))) ∧
  (∀ e ∈ packForms, ∀ x : RF, let sig := sigOf (e.1 x)
    FramesWhere (e.1 x) (issueP sig x e.2.1 e.2.2.1 e.2.2.2.1) (formatsOk x e.2.2.2.2)
      (fun i => .dest sig x.d true (i.part x.g))) ∧
  (∀ e ∈ fpCompare, ∀ x : RF, Frames (e.1 x) (fun _ => issueF (sigOf (e.1 x)) x rndC) (fun i =>
    { v := [], s := [], k := range' (x.d.toNat % 8) (elemsOf e.2), flags := true, lanes := i.part x.g })) ∧
  (∀ e ∈ aluI32, ∀ x : IF, let sig := sigOf (e.1 x)
    Frames (e.1 x) (fun _ => issueI sig) (fun i => .dest sig x.d false i.cur.active)) ∧
  (∀ x : IF, let sig := sigOf (.iaddi64 x)
    Frames (.iaddi64 x) (fun _ => issueI sig) (fun i => .dest sig x.d false i.cur.active)) ∧
  (∀ e ∈ shiftImm, ∀ x : IF, let sig := sigOf (e.1 x)
    Frames (e.1 x) (fun i => { issueI sig with
        field := if 0 ≤ immSigned i.cur.hints x ∧ immSigned i.cur.hints x ≤ 31 then none else some .other })
      (fun i => .dest sig x.d false i.cur.active)) ∧
  (∀ x : IF, Frames (.icmpi32 x) (fun _ => issueI (sigOf (.icmpi32 x))) (fun i =>
    { v := [], s := [], k := [x.d.toNat % 8], flags := false, lanes := i.cur.active })) ∧
  (∀ x : RF, let sig := sigOf (.sel x)
    Frames (.sel x) (fun _ => issueR sig x) (fun i => .dest sig x.d false i.cur.active)) ∧
  (∀ x : RF, let sig := sigOf (.kmovVk x)
    Frames (.kmovVk x) (fun _ => issueR sig x) (fun i => .dest sig x.d false (i.part x.g))) ∧
  (∀ e ∈ fieldOps, ∀ x : RF, let sig := sigOf (e.1 x)
    FramesWhere (e.1 x) (fun _ => issueR sig x) (lengthsOk sig x) (fun i => .dest sig x.d false (i.part x.g))) ∧
  (∀ e ∈ shuffles, ∀ x : RF, let sig := sigOf (e.1 x)
    FramesWhere (e.1 x) (fun i => { issueR sig x with aMask := some (i.shflReads x e.2.1) })
      (fun _ i => ∀ L ∈ lanesOf (i.part x.g), (i.g.src x.b L).toNat / 32 % 8 ≤ 5)
      (fun i => .dest sig x.d false (i.part x.g))) ∧
  (∀ ins ∈ [(Instr.matchSet : RF → Instr), .matchLead], ∀ x : RF, let sig := sigOf (ins x)
    Frames (ins x) (fun i => { issueR sig x with aMask := some (i.part x.g) })
      (fun i => .dest sig x.d false (i.part x.g))) ∧
  (∀ x : RF, Frames (.voteBallot x) (fun _ => { issueR (sigOf (.voteBallot x)) x with sd := [x.d.toNat - 48] }) (fun _ =>
    { v := [], s := [x.d.toNat - 48], k := [], flags := false, lanes := 0 })) ∧
  (∀ x : RF, Frames (.redux x) (fun i => { issueR (sigOf (.redux x)) x with
      aMask := some (maskOf (fun L => (votersOf i x (x.b.toNat / 8)).contains L)) }) (fun _ =>
    { v := [], s := [x.d.toNat - 48], k := [], flags := false, lanes := 0 })) ∧
  (∀ x : RF, Frames (.laneb x) (fun i => { issueR (sigOf (.laneb x)) x with
      aMask := some (maskOf (fun L => L == (i.g.sGet (x.b.toNat - 48)).toNat % 32)) }) (fun _ =>
    { v := [], s := [x.d.toNat - 48], k := [], flags := false, lanes := 0 }))

/-- R199, R200, R228, R234: a weak load through x0 reads its lanes' bytes from the block's scratchpad and
changes no memory; a weak store writes the bytes of its lanes, a later lane over an earlier one, and every other
byte of the scratchpad and everything else stays. -/
def Obligations.ScratchpadAccess : Prop :=
  (∀ e ∈ loadForms, ∀ (x : MF) (s : State) (i : Iss), let sig := sigOf (e.1 x)
    Ready s (fun _ => issueMem sig false) i → x.o = 0 → inScratch i sig x e.2.2.1 →
    alignedAt i sig x e.2.2.1 →
    ∀ t, t = ended s i (issueMem sig false) (s.pendLoad i x.d e.2.1 ((offsetsOf i sig x).map (fun p => p.1))
      ((offsetsOf i sig x).map (fun p =>
        (p.1, e.2.2.2 (natOfBytes (Memory.read i.b.scr p.2.toNat e.2.2.1))))) false false 0) →
    Populated t → exec (e.1 x) s = .next t) ∧
  (∀ e ∈ storeForms, ∀ (x : MF) (s : State) (i : Iss), let sig := sigOf (e.1 x)
    Ready s (fun _ => issueMem sig false) i → x.o = 0 → inScratch i sig x e.2.2 → alignedAt i sig x e.2.2 →
    Memory.wf i.b.scr = true →
    ∃ m, Memory.wf m = true ∧
      (∀ a : Nat, Memory.get m a =
        match (offsetsOf i sig x).reverse.find? (fun p => decide (p.2 ≤ (a : Int) ∧ (a : Int) < p.2 + (e.2.2 : Int))) with
        | some p => (storeBytes i x e.2.1 e.2.2 p.1).getD (a - p.2.toNat) 0
        | none => Memory.get i.b.scr a) ∧
      (Populated (ended s i (issueMem sig false) (withScr s i m)) →
        exec (e.1 x) s = .next (ended s i (issueMem sig false) (withScr s i m))))

/-- R102, R105, R106, R165, R178: sums, products, negations, scalings and comparisons of finite values are exact, and so is
the sum of a dot product; quotients and square roots are rounded once from the exact ones; a pattern rounds to itself; a
NaN rounds to the canonical NaN, and an operand that is a signalling NaN raises IV; the signs of zero results, and the
negation of `XRND`, which flips the sign bit of every pattern. -/
def Obligations.FpValues : Prop :=
  (∀ (m : RMode) (a b : FVal), isFin a = true → isFin b = true →
    isFin (a.add m b).1 = true ∧ valQ (a.add m b).1 = valQ a + valQ b ∧ (a.add m b).2 = 0 ∧
    isFin (a.mul b).1 = true ∧ valQ (a.mul b).1 = valQ a * valQ b ∧ (a.mul b).2 = 0 ∧
    valQ a.neg = - valQ a ∧ (∀ n, valQ (a.scale n) = valQ a * (2 : ℚ) ^ n) ∧
    FVal.lt false a b = decide (valQ a < valQ b)) ∧
  (∀ f ∈ formats, ∀ (m : RMode) (b : Nat), b < 2 ^ f.w → (f.decode b).isNan = false →
    f.round m (f.decode b) = (b, 0)) ∧
  (∀ f ∈ formats, ∀ (m : RMode) (v : FVal), ((f.decode (f.round m v).1).isNan = v.isNan) ∧
    (v.isNan = true → (f.round m v).1 = f.nan)) ∧
  (∀ (m : RMode) (a b : FVal), a.isNan = true ∨ b.isNan = true →
    (a.add m b).1.isNan = true ∧ (a.mul b).1.isNan = true ∧ (a.div b).1.isNan = true ∧
    ((a.add m b).2 = fIV ↔ (a = .nan true ∨ b = .nan true)) ∧
    (a.add m b).2 = (a.mul b).2 ∧ (a.add m b).2 = (a.div b).2) ∧
  (∀ (m : RMode) (a b : FVal), isFin a = true → isFin b = true → valQ a + valQ b = 0 →
    signOf (a.add m b).1 =
      if valQ a = 0 ∧ valQ b = 0 ∧ signOf a = signOf b then signOf a else decide (m = .rdn)) ∧
  (∀ a b : FVal, (isFin (a.mul b).1 = true → signOf (a.mul b).1 = (signOf a ^^ signOf b)) ∧
    (isFin (a.div b).1 = true → signOf (a.div b).1 = (signOf a ^^ signOf b))) ∧
  (∀ f ∈ formats, ∀ b < 2 ^ f.w, f.flip b = b ^^^ 2 ^ (f.w - 1)) ∧
  (∀ f ∈ [fp64, fp32], ∀ (m : RMode) (p q : Nat), finite f p → finite f q →
    let a := f.decode p
    let b := f.decode q
    (valQ b ≠ 0 → (a.div b).2 = 0 ∧
      (valQ a ≠ 0 → rightly f m (signOf a ^^ signOf b) (valQ a / valQ b) (f.round m (a.div b).1)) ∧
      (valQ a = 0 → isFin (a.div b).1 = true ∧ valQ (a.div b).1 = 0)) ∧
    (valQ b = 0 → (a.div b) = if valQ a = 0 then (.nan false, fIV) else (.inf (signOf a ^^ signOf b), fDZ)) ∧
    (0 < valQ a → a.sqrt.2 = 0 ∧ rightly f m false (Real.sqrt (valQ a)) (f.round m a.sqrt.1)) ∧
    (valQ a = 0 → isFin a.sqrt.1 = true ∧ valQ a.sqrt.1 = 0 ∧ signOf a.sqrt.1 = signOf a ∧ a.sqrt.2 = 0) ∧
    (valQ a < 0 → a.sqrt = (.nan false, fIV))) ∧
  (∀ (m : RMode) (a b c d e : FVal), isFin a = true → isFin b = true → isFin c = true → isFin d = true →
    isFin e = true →
    let r := dot2 m a b c d e
    isFin r.1 = true ∧ valQ r.1 = valQ a * valQ b + valQ c * valQ d + valQ e ∧ r.2 = 0 ∧
    (valQ r.1 = 0 → signOf r.1 = decide (m = .rdn ∨ (valQ a * valQ b = 0 ∧ valQ c * valQ d = 0 ∧ valQ e = 0 ∧
      (signOf a ^^ signOf b) = true ∧ (signOf c ^^ signOf d) = true ∧ signOf e = true))))

/-- R104, R107: the one rounding of a finite nonzero value: RNE to the nearest with ties to even, RTZ, RUP and
RDN in their directions; NX exactly where the result differs from the value, OF exactly where the value, rounded with the
exponent range unbounded, exceeds the largest finite one, UF exactly where it is tiny and inexact, and no other flag. -/
def Obligations.FpRounding : Prop :=
  ∀ f ∈ formats, ∀ (m : RMode) (n : Bool) (k : Nat) (e : Int), k ≠ 0 →
    rightly f m n (valQ (.fin n k e)) (f.round m (.fin n k e))

/-- R11, R269, R272, R277, R278, R286, R425, R432: after reset nothing is booted, launched or placed; the four dies
run with empty records and signatures and a twin pool of 64 MiB, there are sixteen helm cores, the package budget is
3600 W, replay is off, the six links hold the default almanac, and every memory is in its canonical form. The model's
choices, by log entries 1, 2 and 5: the wall timer, the sixteen clocks and the inbound signature stand at 0, an
unwritten byte reads 0, and the links are awake and trained. -/
def Obligations.ResetState : Prop :=
  MemInv State.reset ∧ State.reset.boot = .off ∧ State.reset.blocks = [] ∧ State.reset.regions = [] ∧
  State.reset.engines = [] ∧ State.reset.records = [] ∧ State.reset.agenda = [] ∧
  State.reset.helms.length = 16 ∧ State.reset.dies.length = 4 ∧
  (∀ d ∈ State.reset.dies, d.st = .running ∧ d.copies = [] ∧ d.csig = 0 ∧ d.sigs = [] ∧ d.ev = [] ∧
    d.rseq = 0 ∧ d.twincap = 64 ∧ d.lq = [] ∧ d.cq = [] ∧ d.faultq = []) ∧
  State.reset.wall = 0 ∧ State.reset.cycles = List.replicate 16 0 ∧ State.reset.inbound = 0 ∧
  State.reset.power.cap = 3600 ∧ State.reset.reckon.mode = 0 ∧ State.reset.tracesOff = [] ∧
  (∀ a : Nat, Memory.get State.reset.dram a = 0 ∧ Memory.get State.reset.hostMem a = 0 ∧
    Memory.get State.reset.remote a = 0) ∧
  State.reset.links.length = 6 ∧ (∀ l ∈ State.reset.links, l.asleep = false ∧ l.failed = false ∧ l.owner = none ∧
    ∀ n < 256, l.table.getD n 0 = if n < 16 then 0x60 else 0x80)

/-- R1, R199: every step keeps the canonical form of DRAM, host memory and the memories of other packages. -/
def Obligations.StepKeepsMemory : Prop :=
  ∀ s t : State, MemInv s → step s = .next t → MemInv t
end

