-- ==== Sys2Proof/Laws/State.lean ====
section
/-! SUPPORT. What each update of the state and of a group leaves as it was: one lemma for each field of each
update. -/

namespace Sys2Proof.Machine

@[simp] theorem State.modBlock_wall (s : State) (b : Nat) (f : Block → Block) : (s.modBlock b f).wall = s.wall := rfl
@[simp] theorem State.modBlock_cycles (s : State) (b : Nat) (f : Block → Block) : (s.modBlock b f).cycles = s.cycles := rfl
@[simp] theorem State.modBlock_dram (s : State) (b : Nat) (f : Block → Block) : (s.modBlock b f).dram = s.dram := rfl
@[simp] theorem State.modBlock_hostMem (s : State) (b : Nat) (f : Block → Block) : (s.modBlock b f).hostMem = s.hostMem := rfl
@[simp] theorem State.modBlock_remote (s : State) (b : Nat) (f : Block → Block) : (s.modBlock b f).remote = s.remote := rfl
@[simp] theorem State.modBlock_map (s : State) (b : Nat) (f : Block → Block) : (s.modBlock b f).map = s.map := rfl
@[simp] theorem State.modBlock_links (s : State) (b : Nat) (f : Block → Block) : (s.modBlock b f).links = s.links := rfl
@[simp] theorem State.modBlock_inbound (s : State) (b : Nat) (f : Block → Block) : (s.modBlock b f).inbound = s.inbound := rfl
@[simp] theorem State.modBlock_boot (s : State) (b : Nat) (f : Block → Block) : (s.modBlock b f).boot = s.boot := rfl
@[simp] theorem State.modBlock_imageVersion (s : State) (b : Nat) (f : Block → Block) : (s.modBlock b f).imageVersion = s.imageVersion := rfl
@[simp] theorem State.modBlock_imageDigest (s : State) (b : Nat) (f : Block → Block) : (s.modBlock b f).imageDigest = s.imageDigest := rfl
@[simp] theorem State.modBlock_fencePa (s : State) (b : Nat) (f : Block → Block) : (s.modBlock b f).fencePa = s.fencePa := rfl
@[simp] theorem State.modBlock_roots (s : State) (b : Nat) (f : Block → Block) : (s.modBlock b f).roots = s.roots := rfl
@[simp] theorem State.modBlock_domains (s : State) (b : Nat) (f : Block → Block) : (s.modBlock b f).domains = s.domains := rfl
@[simp] theorem State.modBlock_queues (s : State) (b : Nat) (f : Block → Block) : (s.modBlock b f).queues = s.queues := rfl
@[simp] theorem State.modBlock_taken (s : State) (b : Nat) (f : Block → Block) : (s.modBlock b f).taken = s.taken := rfl
@[simp] theorem State.modBlock_pending (s : State) (b : Nat) (f : Block → Block) : (s.modBlock b f).pending = s.pending := rfl
@[simp] theorem State.modBlock_lostCmds (s : State) (b : Nat) (f : Block → Block) : (s.modBlock b f).lostCmds = s.lostCmds := rfl
@[simp] theorem State.modBlock_statuses (s : State) (b : Nat) (f : Block → Block) : (s.modBlock b f).statuses = s.statuses := rfl
@[simp] theorem State.modBlock_headless (s : State) (b : Nat) (f : Block → Block) : (s.modBlock b f).headless = s.headless := rfl
@[simp] theorem State.modBlock_tables (s : State) (b : Nat) (f : Block → Block) : (s.modBlock b f).tables = s.tables := rfl
@[simp] theorem State.modBlock_frames (s : State) (b : Nat) (f : Block → Block) : (s.modBlock b f).frames = s.frames := rfl
@[simp] theorem State.modBlock_migrations (s : State) (b : Nat) (f : Block → Block) : (s.modBlock b f).migrations = s.migrations := rfl
@[simp] theorem State.modBlock_power (s : State) (b : Nat) (f : Block → Block) : (s.modBlock b f).power = s.power := rfl
@[simp] theorem State.modBlock_hot (s : State) (b : Nat) (f : Block → Block) : (s.modBlock b f).hot = s.hot := rfl
@[simp] theorem State.modBlock_reckon (s : State) (b : Nat) (f : Block → Block) : (s.modBlock b f).reckon = s.reckon := rfl
@[simp] theorem State.modBlock_reports (s : State) (b : Nat) (f : Block → Block) : (s.modBlock b f).reports = s.reports := rfl
@[simp] theorem State.modBlock_helms (s : State) (b : Nat) (f : Block → Block) : (s.modBlock b f).helms = s.helms := rfl
@[simp] theorem State.modBlock_helmEntry (s : State) (b : Nat) (f : Block → Block) : (s.modBlock b f).helmEntry = s.helmEntry := rfl
@[simp] theorem State.modBlock_tracesOff (s : State) (b : Nat) (f : Block → Block) : (s.modBlock b f).tracesOff = s.tracesOff := rfl
@[simp] theorem State.modBlock_regions (s : State) (b : Nat) (f : Block → Block) : (s.modBlock b f).regions = s.regions := rfl
@[simp] theorem State.modBlock_dies (s : State) (b : Nat) (f : Block → Block) : (s.modBlock b f).dies = s.dies := rfl
@[simp] theorem State.modBlock_cores (s : State) (b : Nat) (f : Block → Block) : (s.modBlock b f).cores = s.cores := rfl
@[simp] theorem State.modBlock_engines (s : State) (b : Nat) (f : Block → Block) : (s.modBlock b f).engines = s.engines := rfl
@[simp] theorem State.modBlock_records (s : State) (b : Nat) (f : Block → Block) : (s.modBlock b f).records = s.records := rfl
@[simp] theorem State.modBlock_eccBad (s : State) (b : Nat) (f : Block → Block) : (s.modBlock b f).eccBad = s.eccBad := rfl
@[simp] theorem State.modBlock_eccPending (s : State) (b : Nat) (f : Block → Block) : (s.modBlock b f).eccPending = s.eccPending := rfl
@[simp] theorem State.modBlock_sweepOwed (s : State) (b : Nat) (f : Block → Block) : (s.modBlock b f).sweepOwed = s.sweepOwed := rfl
@[simp] theorem State.modBlock_farFaults (s : State) (b : Nat) (f : Block → Block) : (s.modBlock b f).farFaults = s.farFaults := rfl
@[simp] theorem State.modBlock_nextId (s : State) (b : Nat) (f : Block → Block) : (s.modBlock b f).nextId = s.nextId := rfl
@[simp] theorem State.modBlock_replies (s : State) (b : Nat) (f : Block → Block) : (s.modBlock b f).replies = s.replies := rfl
@[simp] theorem State.modBlock_agenda (s : State) (b : Nat) (f : Block → Block) : (s.modBlock b f).agenda = s.agenda := rfl
@[simp] theorem State.modBlock_cur (s : State) (b : Nat) (f : Block → Block) : (s.modBlock b f).cur = s.cur := rfl
@[simp] theorem State.modBlock_free (s : State) (b : Nat) (f : Block → Block) : (s.modBlock b f).free = s.free := rfl
@[simp] theorem State.modBlock_steps (s : State) (b : Nat) (f : Block → Block) : (s.modBlock b f).steps = s.steps := rfl
@[simp] theorem State.modBlock_badPa (s : State) (b : Nat) (f : Block → Block) : (s.modBlock b f).badPa = s.badPa := rfl
@[simp] theorem State.modBlock_away (s : State) (b : Nat) (f : Block → Block) : (s.modBlock b f).away = s.away := rfl

@[simp] theorem State.modGroup_wall (s : State) (r : GRef) (f : Group → Group) : (s.modGroup r f).wall = s.wall := rfl
@[simp] theorem State.modGroup_cycles (s : State) (r : GRef) (f : Group → Group) : (s.modGroup r f).cycles = s.cycles := rfl
@[simp] theorem State.modGroup_dram (s : State) (r : GRef) (f : Group → Group) : (s.modGroup r f).dram = s.dram := rfl
@[simp] theorem State.modGroup_hostMem (s : State) (r : GRef) (f : Group → Group) : (s.modGroup r f).hostMem = s.hostMem := rfl
@[simp] theorem State.modGroup_remote (s : State) (r : GRef) (f : Group → Group) : (s.modGroup r f).remote = s.remote := rfl
@[simp] theorem State.modGroup_map (s : State) (r : GRef) (f : Group → Group) : (s.modGroup r f).map = s.map := rfl
@[simp] theorem State.modGroup_links (s : State) (r : GRef) (f : Group → Group) : (s.modGroup r f).links = s.links := rfl
@[simp] theorem State.modGroup_inbound (s : State) (r : GRef) (f : Group → Group) : (s.modGroup r f).inbound = s.inbound := rfl
@[simp] theorem State.modGroup_boot (s : State) (r : GRef) (f : Group → Group) : (s.modGroup r f).boot = s.boot := rfl
@[simp] theorem State.modGroup_imageVersion (s : State) (r : GRef) (f : Group → Group) : (s.modGroup r f).imageVersion = s.imageVersion := rfl
@[simp] theorem State.modGroup_imageDigest (s : State) (r : GRef) (f : Group → Group) : (s.modGroup r f).imageDigest = s.imageDigest := rfl
@[simp] theorem State.modGroup_fencePa (s : State) (r : GRef) (f : Group → Group) : (s.modGroup r f).fencePa = s.fencePa := rfl
@[simp] theorem State.modGroup_roots (s : State) (r : GRef) (f : Group → Group) : (s.modGroup r f).roots = s.roots := rfl
@[simp] theorem State.modGroup_domains (s : State) (r : GRef) (f : Group → Group) : (s.modGroup r f).domains = s.domains := rfl
@[simp] theorem State.modGroup_queues (s : State) (r : GRef) (f : Group → Group) : (s.modGroup r f).queues = s.queues := rfl
@[simp] theorem State.modGroup_taken (s : State) (r : GRef) (f : Group → Group) : (s.modGroup r f).taken = s.taken := rfl
@[simp] theorem State.modGroup_pending (s : State) (r : GRef) (f : Group → Group) : (s.modGroup r f).pending = s.pending := rfl
@[simp] theorem State.modGroup_lostCmds (s : State) (r : GRef) (f : Group → Group) : (s.modGroup r f).lostCmds = s.lostCmds := rfl
@[simp] theorem State.modGroup_statuses (s : State) (r : GRef) (f : Group → Group) : (s.modGroup r f).statuses = s.statuses := rfl
@[simp] theorem State.modGroup_headless (s : State) (r : GRef) (f : Group → Group) : (s.modGroup r f).headless = s.headless := rfl
@[simp] theorem State.modGroup_tables (s : State) (r : GRef) (f : Group → Group) : (s.modGroup r f).tables = s.tables := rfl
@[simp] theorem State.modGroup_frames (s : State) (r : GRef) (f : Group → Group) : (s.modGroup r f).frames = s.frames := rfl
@[simp] theorem State.modGroup_migrations (s : State) (r : GRef) (f : Group → Group) : (s.modGroup r f).migrations = s.migrations := rfl
@[simp] theorem State.modGroup_power (s : State) (r : GRef) (f : Group → Group) : (s.modGroup r f).power = s.power := rfl
@[simp] theorem State.modGroup_hot (s : State) (r : GRef) (f : Group → Group) : (s.modGroup r f).hot = s.hot := rfl
@[simp] theorem State.modGroup_reckon (s : State) (r : GRef) (f : Group → Group) : (s.modGroup r f).reckon = s.reckon := rfl
@[simp] theorem State.modGroup_reports (s : State) (r : GRef) (f : Group → Group) : (s.modGroup r f).reports = s.reports := rfl
@[simp] theorem State.modGroup_helms (s : State) (r : GRef) (f : Group → Group) : (s.modGroup r f).helms = s.helms := rfl
@[simp] theorem State.modGroup_helmEntry (s : State) (r : GRef) (f : Group → Group) : (s.modGroup r f).helmEntry = s.helmEntry := rfl
@[simp] theorem State.modGroup_tracesOff (s : State) (r : GRef) (f : Group → Group) : (s.modGroup r f).tracesOff = s.tracesOff := rfl
@[simp] theorem State.modGroup_regions (s : State) (r : GRef) (f : Group → Group) : (s.modGroup r f).regions = s.regions := rfl
@[simp] theorem State.modGroup_dies (s : State) (r : GRef) (f : Group → Group) : (s.modGroup r f).dies = s.dies := rfl
@[simp] theorem State.modGroup_cores (s : State) (r : GRef) (f : Group → Group) : (s.modGroup r f).cores = s.cores := rfl
@[simp] theorem State.modGroup_engines (s : State) (r : GRef) (f : Group → Group) : (s.modGroup r f).engines = s.engines := rfl
@[simp] theorem State.modGroup_records (s : State) (r : GRef) (f : Group → Group) : (s.modGroup r f).records = s.records := rfl
@[simp] theorem State.modGroup_eccBad (s : State) (r : GRef) (f : Group → Group) : (s.modGroup r f).eccBad = s.eccBad := rfl
@[simp] theorem State.modGroup_eccPending (s : State) (r : GRef) (f : Group → Group) : (s.modGroup r f).eccPending = s.eccPending := rfl
@[simp] theorem State.modGroup_sweepOwed (s : State) (r : GRef) (f : Group → Group) : (s.modGroup r f).sweepOwed = s.sweepOwed := rfl
@[simp] theorem State.modGroup_farFaults (s : State) (r : GRef) (f : Group → Group) : (s.modGroup r f).farFaults = s.farFaults := rfl
@[simp] theorem State.modGroup_nextId (s : State) (r : GRef) (f : Group → Group) : (s.modGroup r f).nextId = s.nextId := rfl
@[simp] theorem State.modGroup_replies (s : State) (r : GRef) (f : Group → Group) : (s.modGroup r f).replies = s.replies := rfl
@[simp] theorem State.modGroup_agenda (s : State) (r : GRef) (f : Group → Group) : (s.modGroup r f).agenda = s.agenda := rfl
@[simp] theorem State.modGroup_cur (s : State) (r : GRef) (f : Group → Group) : (s.modGroup r f).cur = s.cur := rfl
@[simp] theorem State.modGroup_free (s : State) (r : GRef) (f : Group → Group) : (s.modGroup r f).free = s.free := rfl
@[simp] theorem State.modGroup_steps (s : State) (r : GRef) (f : Group → Group) : (s.modGroup r f).steps = s.steps := rfl
@[simp] theorem State.modGroup_badPa (s : State) (r : GRef) (f : Group → Group) : (s.modGroup r f).badPa = s.badPa := rfl
@[simp] theorem State.modGroup_away (s : State) (r : GRef) (f : Group → Group) : (s.modGroup r f).away = s.away := rfl

@[simp] theorem State.putGroup_wall (s : State) (r : GRef) (g : Group) : (s.putGroup r g).wall = s.wall := rfl
@[simp] theorem State.putGroup_cycles (s : State) (r : GRef) (g : Group) : (s.putGroup r g).cycles = s.cycles := rfl
@[simp] theorem State.putGroup_dram (s : State) (r : GRef) (g : Group) : (s.putGroup r g).dram = s.dram := rfl
@[simp] theorem State.putGroup_hostMem (s : State) (r : GRef) (g : Group) : (s.putGroup r g).hostMem = s.hostMem := rfl
@[simp] theorem State.putGroup_remote (s : State) (r : GRef) (g : Group) : (s.putGroup r g).remote = s.remote := rfl
@[simp] theorem State.putGroup_map (s : State) (r : GRef) (g : Group) : (s.putGroup r g).map = s.map := rfl
@[simp] theorem State.putGroup_links (s : State) (r : GRef) (g : Group) : (s.putGroup r g).links = s.links := rfl
@[simp] theorem State.putGroup_inbound (s : State) (r : GRef) (g : Group) : (s.putGroup r g).inbound = s.inbound := rfl
@[simp] theorem State.putGroup_boot (s : State) (r : GRef) (g : Group) : (s.putGroup r g).boot = s.boot := rfl
@[simp] theorem State.putGroup_imageVersion (s : State) (r : GRef) (g : Group) : (s.putGroup r g).imageVersion = s.imageVersion := rfl
@[simp] theorem State.putGroup_imageDigest (s : State) (r : GRef) (g : Group) : (s.putGroup r g).imageDigest = s.imageDigest := rfl
@[simp] theorem State.putGroup_fencePa (s : State) (r : GRef) (g : Group) : (s.putGroup r g).fencePa = s.fencePa := rfl
@[simp] theorem State.putGroup_roots (s : State) (r : GRef) (g : Group) : (s.putGroup r g).roots = s.roots := rfl
@[simp] theorem State.putGroup_domains (s : State) (r : GRef) (g : Group) : (s.putGroup r g).domains = s.domains := rfl
@[simp] theorem State.putGroup_queues (s : State) (r : GRef) (g : Group) : (s.putGroup r g).queues = s.queues := rfl
@[simp] theorem State.putGroup_taken (s : State) (r : GRef) (g : Group) : (s.putGroup r g).taken = s.taken := rfl
@[simp] theorem State.putGroup_pending (s : State) (r : GRef) (g : Group) : (s.putGroup r g).pending = s.pending := rfl
@[simp] theorem State.putGroup_lostCmds (s : State) (r : GRef) (g : Group) : (s.putGroup r g).lostCmds = s.lostCmds := rfl
@[simp] theorem State.putGroup_statuses (s : State) (r : GRef) (g : Group) : (s.putGroup r g).statuses = s.statuses := rfl
@[simp] theorem State.putGroup_headless (s : State) (r : GRef) (g : Group) : (s.putGroup r g).headless = s.headless := rfl
@[simp] theorem State.putGroup_tables (s : State) (r : GRef) (g : Group) : (s.putGroup r g).tables = s.tables := rfl
@[simp] theorem State.putGroup_frames (s : State) (r : GRef) (g : Group) : (s.putGroup r g).frames = s.frames := rfl
@[simp] theorem State.putGroup_migrations (s : State) (r : GRef) (g : Group) : (s.putGroup r g).migrations = s.migrations := rfl
@[simp] theorem State.putGroup_power (s : State) (r : GRef) (g : Group) : (s.putGroup r g).power = s.power := rfl
@[simp] theorem State.putGroup_hot (s : State) (r : GRef) (g : Group) : (s.putGroup r g).hot = s.hot := rfl
@[simp] theorem State.putGroup_reckon (s : State) (r : GRef) (g : Group) : (s.putGroup r g).reckon = s.reckon := rfl
@[simp] theorem State.putGroup_reports (s : State) (r : GRef) (g : Group) : (s.putGroup r g).reports = s.reports := rfl
@[simp] theorem State.putGroup_helms (s : State) (r : GRef) (g : Group) : (s.putGroup r g).helms = s.helms := rfl
@[simp] theorem State.putGroup_helmEntry (s : State) (r : GRef) (g : Group) : (s.putGroup r g).helmEntry = s.helmEntry := rfl
@[simp] theorem State.putGroup_tracesOff (s : State) (r : GRef) (g : Group) : (s.putGroup r g).tracesOff = s.tracesOff := rfl
@[simp] theorem State.putGroup_regions (s : State) (r : GRef) (g : Group) : (s.putGroup r g).regions = s.regions := rfl
@[simp] theorem State.putGroup_dies (s : State) (r : GRef) (g : Group) : (s.putGroup r g).dies = s.dies := rfl
@[simp] theorem State.putGroup_cores (s : State) (r : GRef) (g : Group) : (s.putGroup r g).cores = s.cores := rfl
@[simp] theorem State.putGroup_engines (s : State) (r : GRef) (g : Group) : (s.putGroup r g).engines = s.engines := rfl
@[simp] theorem State.putGroup_records (s : State) (r : GRef) (g : Group) : (s.putGroup r g).records = s.records := rfl
@[simp] theorem State.putGroup_eccBad (s : State) (r : GRef) (g : Group) : (s.putGroup r g).eccBad = s.eccBad := rfl
@[simp] theorem State.putGroup_eccPending (s : State) (r : GRef) (g : Group) : (s.putGroup r g).eccPending = s.eccPending := rfl
@[simp] theorem State.putGroup_sweepOwed (s : State) (r : GRef) (g : Group) : (s.putGroup r g).sweepOwed = s.sweepOwed := rfl
@[simp] theorem State.putGroup_farFaults (s : State) (r : GRef) (g : Group) : (s.putGroup r g).farFaults = s.farFaults := rfl
@[simp] theorem State.putGroup_nextId (s : State) (r : GRef) (g : Group) : (s.putGroup r g).nextId = s.nextId := rfl
@[simp] theorem State.putGroup_replies (s : State) (r : GRef) (g : Group) : (s.putGroup r g).replies = s.replies := rfl
@[simp] theorem State.putGroup_agenda (s : State) (r : GRef) (g : Group) : (s.putGroup r g).agenda = s.agenda := rfl
@[simp] theorem State.putGroup_cur (s : State) (r : GRef) (g : Group) : (s.putGroup r g).cur = s.cur := rfl
@[simp] theorem State.putGroup_free (s : State) (r : GRef) (g : Group) : (s.putGroup r g).free = s.free := rfl
@[simp] theorem State.putGroup_steps (s : State) (r : GRef) (g : Group) : (s.putGroup r g).steps = s.steps := rfl
@[simp] theorem State.putGroup_badPa (s : State) (r : GRef) (g : Group) : (s.putGroup r g).badPa = s.badPa := rfl
@[simp] theorem State.putGroup_away (s : State) (r : GRef) (g : Group) : (s.putGroup r g).away = s.away := rfl

@[simp] theorem State.modSplit_wall (s : State) (r : SRef) (f : Split → Split) : (s.modSplit r f).wall = s.wall := rfl
@[simp] theorem State.modSplit_cycles (s : State) (r : SRef) (f : Split → Split) : (s.modSplit r f).cycles = s.cycles := rfl
@[simp] theorem State.modSplit_dram (s : State) (r : SRef) (f : Split → Split) : (s.modSplit r f).dram = s.dram := rfl
@[simp] theorem State.modSplit_hostMem (s : State) (r : SRef) (f : Split → Split) : (s.modSplit r f).hostMem = s.hostMem := rfl
@[simp] theorem State.modSplit_remote (s : State) (r : SRef) (f : Split → Split) : (s.modSplit r f).remote = s.remote := rfl
@[simp] theorem State.modSplit_map (s : State) (r : SRef) (f : Split → Split) : (s.modSplit r f).map = s.map := rfl
@[simp] theorem State.modSplit_links (s : State) (r : SRef) (f : Split → Split) : (s.modSplit r f).links = s.links := rfl
@[simp] theorem State.modSplit_inbound (s : State) (r : SRef) (f : Split → Split) : (s.modSplit r f).inbound = s.inbound := rfl
@[simp] theorem State.modSplit_boot (s : State) (r : SRef) (f : Split → Split) : (s.modSplit r f).boot = s.boot := rfl
@[simp] theorem State.modSplit_imageVersion (s : State) (r : SRef) (f : Split → Split) : (s.modSplit r f).imageVersion = s.imageVersion := rfl
@[simp] theorem State.modSplit_imageDigest (s : State) (r : SRef) (f : Split → Split) : (s.modSplit r f).imageDigest = s.imageDigest := rfl
@[simp] theorem State.modSplit_fencePa (s : State) (r : SRef) (f : Split → Split) : (s.modSplit r f).fencePa = s.fencePa := rfl
@[simp] theorem State.modSplit_roots (s : State) (r : SRef) (f : Split → Split) : (s.modSplit r f).roots = s.roots := rfl
@[simp] theorem State.modSplit_domains (s : State) (r : SRef) (f : Split → Split) : (s.modSplit r f).domains = s.domains := rfl
@[simp] theorem State.modSplit_queues (s : State) (r : SRef) (f : Split → Split) : (s.modSplit r f).queues = s.queues := rfl
@[simp] theorem State.modSplit_taken (s : State) (r : SRef) (f : Split → Split) : (s.modSplit r f).taken = s.taken := rfl
@[simp] theorem State.modSplit_pending (s : State) (r : SRef) (f : Split → Split) : (s.modSplit r f).pending = s.pending := rfl
@[simp] theorem State.modSplit_lostCmds (s : State) (r : SRef) (f : Split → Split) : (s.modSplit r f).lostCmds = s.lostCmds := rfl
@[simp] theorem State.modSplit_statuses (s : State) (r : SRef) (f : Split → Split) : (s.modSplit r f).statuses = s.statuses := rfl
@[simp] theorem State.modSplit_headless (s : State) (r : SRef) (f : Split → Split) : (s.modSplit r f).headless = s.headless := rfl
@[simp] theorem State.modSplit_tables (s : State) (r : SRef) (f : Split → Split) : (s.modSplit r f).tables = s.tables := rfl
@[simp] theorem State.modSplit_frames (s : State) (r : SRef) (f : Split → Split) : (s.modSplit r f).frames = s.frames := rfl
@[simp] theorem State.modSplit_migrations (s : State) (r : SRef) (f : Split → Split) : (s.modSplit r f).migrations = s.migrations := rfl
@[simp] theorem State.modSplit_power (s : State) (r : SRef) (f : Split → Split) : (s.modSplit r f).power = s.power := rfl
@[simp] theorem State.modSplit_hot (s : State) (r : SRef) (f : Split → Split) : (s.modSplit r f).hot = s.hot := rfl
@[simp] theorem State.modSplit_reckon (s : State) (r : SRef) (f : Split → Split) : (s.modSplit r f).reckon = s.reckon := rfl
@[simp] theorem State.modSplit_reports (s : State) (r : SRef) (f : Split → Split) : (s.modSplit r f).reports = s.reports := rfl
@[simp] theorem State.modSplit_helms (s : State) (r : SRef) (f : Split → Split) : (s.modSplit r f).helms = s.helms := rfl
@[simp] theorem State.modSplit_helmEntry (s : State) (r : SRef) (f : Split → Split) : (s.modSplit r f).helmEntry = s.helmEntry := rfl
@[simp] theorem State.modSplit_tracesOff (s : State) (r : SRef) (f : Split → Split) : (s.modSplit r f).tracesOff = s.tracesOff := rfl
@[simp] theorem State.modSplit_regions (s : State) (r : SRef) (f : Split → Split) : (s.modSplit r f).regions = s.regions := rfl
@[simp] theorem State.modSplit_dies (s : State) (r : SRef) (f : Split → Split) : (s.modSplit r f).dies = s.dies := rfl
@[simp] theorem State.modSplit_cores (s : State) (r : SRef) (f : Split → Split) : (s.modSplit r f).cores = s.cores := rfl
@[simp] theorem State.modSplit_engines (s : State) (r : SRef) (f : Split → Split) : (s.modSplit r f).engines = s.engines := rfl
@[simp] theorem State.modSplit_records (s : State) (r : SRef) (f : Split → Split) : (s.modSplit r f).records = s.records := rfl
@[simp] theorem State.modSplit_eccBad (s : State) (r : SRef) (f : Split → Split) : (s.modSplit r f).eccBad = s.eccBad := rfl
@[simp] theorem State.modSplit_eccPending (s : State) (r : SRef) (f : Split → Split) : (s.modSplit r f).eccPending = s.eccPending := rfl
@[simp] theorem State.modSplit_sweepOwed (s : State) (r : SRef) (f : Split → Split) : (s.modSplit r f).sweepOwed = s.sweepOwed := rfl
@[simp] theorem State.modSplit_farFaults (s : State) (r : SRef) (f : Split → Split) : (s.modSplit r f).farFaults = s.farFaults := rfl
@[simp] theorem State.modSplit_nextId (s : State) (r : SRef) (f : Split → Split) : (s.modSplit r f).nextId = s.nextId := rfl
@[simp] theorem State.modSplit_replies (s : State) (r : SRef) (f : Split → Split) : (s.modSplit r f).replies = s.replies := rfl
@[simp] theorem State.modSplit_agenda (s : State) (r : SRef) (f : Split → Split) : (s.modSplit r f).agenda = s.agenda := rfl
@[simp] theorem State.modSplit_cur (s : State) (r : SRef) (f : Split → Split) : (s.modSplit r f).cur = s.cur := rfl
@[simp] theorem State.modSplit_free (s : State) (r : SRef) (f : Split → Split) : (s.modSplit r f).free = s.free := rfl
@[simp] theorem State.modSplit_steps (s : State) (r : SRef) (f : Split → Split) : (s.modSplit r f).steps = s.steps := rfl
@[simp] theorem State.modSplit_badPa (s : State) (r : SRef) (f : Split → Split) : (s.modSplit r f).badPa = s.badPa := rfl
@[simp] theorem State.modSplit_away (s : State) (r : SRef) (f : Split → Split) : (s.modSplit r f).away = s.away := rfl

@[simp] theorem State.modTile_wall (s : State) (b t : Nat) (f : List Word → List Word) : (s.modTile b t f).wall = s.wall := rfl
@[simp] theorem State.modTile_cycles (s : State) (b t : Nat) (f : List Word → List Word) : (s.modTile b t f).cycles = s.cycles := rfl
@[simp] theorem State.modTile_dram (s : State) (b t : Nat) (f : List Word → List Word) : (s.modTile b t f).dram = s.dram := rfl
@[simp] theorem State.modTile_hostMem (s : State) (b t : Nat) (f : List Word → List Word) : (s.modTile b t f).hostMem = s.hostMem := rfl
@[simp] theorem State.modTile_remote (s : State) (b t : Nat) (f : List Word → List Word) : (s.modTile b t f).remote = s.remote := rfl
@[simp] theorem State.modTile_map (s : State) (b t : Nat) (f : List Word → List Word) : (s.modTile b t f).map = s.map := rfl
@[simp] theorem State.modTile_links (s : State) (b t : Nat) (f : List Word → List Word) : (s.modTile b t f).links = s.links := rfl
@[simp] theorem State.modTile_inbound (s : State) (b t : Nat) (f : List Word → List Word) : (s.modTile b t f).inbound = s.inbound := rfl
@[simp] theorem State.modTile_boot (s : State) (b t : Nat) (f : List Word → List Word) : (s.modTile b t f).boot = s.boot := rfl
@[simp] theorem State.modTile_imageVersion (s : State) (b t : Nat) (f : List Word → List Word) : (s.modTile b t f).imageVersion = s.imageVersion := rfl
@[simp] theorem State.modTile_imageDigest (s : State) (b t : Nat) (f : List Word → List Word) : (s.modTile b t f).imageDigest = s.imageDigest := rfl
@[simp] theorem State.modTile_fencePa (s : State) (b t : Nat) (f : List Word → List Word) : (s.modTile b t f).fencePa = s.fencePa := rfl
@[simp] theorem State.modTile_roots (s : State) (b t : Nat) (f : List Word → List Word) : (s.modTile b t f).roots = s.roots := rfl
@[simp] theorem State.modTile_domains (s : State) (b t : Nat) (f : List Word → List Word) : (s.modTile b t f).domains = s.domains := rfl
@[simp] theorem State.modTile_queues (s : State) (b t : Nat) (f : List Word → List Word) : (s.modTile b t f).queues = s.queues := rfl
@[simp] theorem State.modTile_taken (s : State) (b t : Nat) (f : List Word → List Word) : (s.modTile b t f).taken = s.taken := rfl
@[simp] theorem State.modTile_pending (s : State) (b t : Nat) (f : List Word → List Word) : (s.modTile b t f).pending = s.pending := rfl
@[simp] theorem State.modTile_lostCmds (s : State) (b t : Nat) (f : List Word → List Word) : (s.modTile b t f).lostCmds = s.lostCmds := rfl
@[simp] theorem State.modTile_statuses (s : State) (b t : Nat) (f : List Word → List Word) : (s.modTile b t f).statuses = s.statuses := rfl
@[simp] theorem State.modTile_headless (s : State) (b t : Nat) (f : List Word → List Word) : (s.modTile b t f).headless = s.headless := rfl
@[simp] theorem State.modTile_tables (s : State) (b t : Nat) (f : List Word → List Word) : (s.modTile b t f).tables = s.tables := rfl
@[simp] theorem State.modTile_frames (s : State) (b t : Nat) (f : List Word → List Word) : (s.modTile b t f).frames = s.frames := rfl
@[simp] theorem State.modTile_migrations (s : State) (b t : Nat) (f : List Word → List Word) : (s.modTile b t f).migrations = s.migrations := rfl
@[simp] theorem State.modTile_power (s : State) (b t : Nat) (f : List Word → List Word) : (s.modTile b t f).power = s.power := rfl
@[simp] theorem State.modTile_hot (s : State) (b t : Nat) (f : List Word → List Word) : (s.modTile b t f).hot = s.hot := rfl
@[simp] theorem State.modTile_reckon (s : State) (b t : Nat) (f : List Word → List Word) : (s.modTile b t f).reckon = s.reckon := rfl
@[simp] theorem State.modTile_reports (s : State) (b t : Nat) (f : List Word → List Word) : (s.modTile b t f).reports = s.reports := rfl
@[simp] theorem State.modTile_helms (s : State) (b t : Nat) (f : List Word → List Word) : (s.modTile b t f).helms = s.helms := rfl
@[simp] theorem State.modTile_helmEntry (s : State) (b t : Nat) (f : List Word → List Word) : (s.modTile b t f).helmEntry = s.helmEntry := rfl
@[simp] theorem State.modTile_tracesOff (s : State) (b t : Nat) (f : List Word → List Word) : (s.modTile b t f).tracesOff = s.tracesOff := rfl
@[simp] theorem State.modTile_regions (s : State) (b t : Nat) (f : List Word → List Word) : (s.modTile b t f).regions = s.regions := rfl
@[simp] theorem State.modTile_dies (s : State) (b t : Nat) (f : List Word → List Word) : (s.modTile b t f).dies = s.dies := rfl
@[simp] theorem State.modTile_cores (s : State) (b t : Nat) (f : List Word → List Word) : (s.modTile b t f).cores = s.cores := rfl
@[simp] theorem State.modTile_engines (s : State) (b t : Nat) (f : List Word → List Word) : (s.modTile b t f).engines = s.engines := rfl
@[simp] theorem State.modTile_records (s : State) (b t : Nat) (f : List Word → List Word) : (s.modTile b t f).records = s.records := rfl
@[simp] theorem State.modTile_eccBad (s : State) (b t : Nat) (f : List Word → List Word) : (s.modTile b t f).eccBad = s.eccBad := rfl
@[simp] theorem State.modTile_eccPending (s : State) (b t : Nat) (f : List Word → List Word) : (s.modTile b t f).eccPending = s.eccPending := rfl
@[simp] theorem State.modTile_sweepOwed (s : State) (b t : Nat) (f : List Word → List Word) : (s.modTile b t f).sweepOwed = s.sweepOwed := rfl
@[simp] theorem State.modTile_farFaults (s : State) (b t : Nat) (f : List Word → List Word) : (s.modTile b t f).farFaults = s.farFaults := rfl
@[simp] theorem State.modTile_nextId (s : State) (b t : Nat) (f : List Word → List Word) : (s.modTile b t f).nextId = s.nextId := rfl
@[simp] theorem State.modTile_replies (s : State) (b t : Nat) (f : List Word → List Word) : (s.modTile b t f).replies = s.replies := rfl
@[simp] theorem State.modTile_agenda (s : State) (b t : Nat) (f : List Word → List Word) : (s.modTile b t f).agenda = s.agenda := rfl
@[simp] theorem State.modTile_cur (s : State) (b t : Nat) (f : List Word → List Word) : (s.modTile b t f).cur = s.cur := rfl
@[simp] theorem State.modTile_free (s : State) (b t : Nat) (f : List Word → List Word) : (s.modTile b t f).free = s.free := rfl
@[simp] theorem State.modTile_steps (s : State) (b t : Nat) (f : List Word → List Word) : (s.modTile b t f).steps = s.steps := rfl
@[simp] theorem State.modTile_badPa (s : State) (b t : Nat) (f : List Word → List Word) : (s.modTile b t f).badPa = s.badPa := rfl
@[simp] theorem State.modTile_away (s : State) (b t : Nat) (f : List Word → List Word) : (s.modTile b t f).away = s.away := rfl

@[simp] theorem State.modDie_wall (s : State) (d : Nat) (f : Die → Die) : (s.modDie d f).wall = s.wall := rfl
@[simp] theorem State.modDie_cycles (s : State) (d : Nat) (f : Die → Die) : (s.modDie d f).cycles = s.cycles := rfl
@[simp] theorem State.modDie_dram (s : State) (d : Nat) (f : Die → Die) : (s.modDie d f).dram = s.dram := rfl
@[simp] theorem State.modDie_hostMem (s : State) (d : Nat) (f : Die → Die) : (s.modDie d f).hostMem = s.hostMem := rfl
@[simp] theorem State.modDie_remote (s : State) (d : Nat) (f : Die → Die) : (s.modDie d f).remote = s.remote := rfl
@[simp] theorem State.modDie_map (s : State) (d : Nat) (f : Die → Die) : (s.modDie d f).map = s.map := rfl
@[simp] theorem State.modDie_links (s : State) (d : Nat) (f : Die → Die) : (s.modDie d f).links = s.links := rfl
@[simp] theorem State.modDie_inbound (s : State) (d : Nat) (f : Die → Die) : (s.modDie d f).inbound = s.inbound := rfl
@[simp] theorem State.modDie_boot (s : State) (d : Nat) (f : Die → Die) : (s.modDie d f).boot = s.boot := rfl
@[simp] theorem State.modDie_imageVersion (s : State) (d : Nat) (f : Die → Die) : (s.modDie d f).imageVersion = s.imageVersion := rfl
@[simp] theorem State.modDie_imageDigest (s : State) (d : Nat) (f : Die → Die) : (s.modDie d f).imageDigest = s.imageDigest := rfl
@[simp] theorem State.modDie_fencePa (s : State) (d : Nat) (f : Die → Die) : (s.modDie d f).fencePa = s.fencePa := rfl
@[simp] theorem State.modDie_roots (s : State) (d : Nat) (f : Die → Die) : (s.modDie d f).roots = s.roots := rfl
@[simp] theorem State.modDie_domains (s : State) (d : Nat) (f : Die → Die) : (s.modDie d f).domains = s.domains := rfl
@[simp] theorem State.modDie_queues (s : State) (d : Nat) (f : Die → Die) : (s.modDie d f).queues = s.queues := rfl
@[simp] theorem State.modDie_taken (s : State) (d : Nat) (f : Die → Die) : (s.modDie d f).taken = s.taken := rfl
@[simp] theorem State.modDie_pending (s : State) (d : Nat) (f : Die → Die) : (s.modDie d f).pending = s.pending := rfl
@[simp] theorem State.modDie_lostCmds (s : State) (d : Nat) (f : Die → Die) : (s.modDie d f).lostCmds = s.lostCmds := rfl
@[simp] theorem State.modDie_statuses (s : State) (d : Nat) (f : Die → Die) : (s.modDie d f).statuses = s.statuses := rfl
@[simp] theorem State.modDie_headless (s : State) (d : Nat) (f : Die → Die) : (s.modDie d f).headless = s.headless := rfl
@[simp] theorem State.modDie_tables (s : State) (d : Nat) (f : Die → Die) : (s.modDie d f).tables = s.tables := rfl
@[simp] theorem State.modDie_frames (s : State) (d : Nat) (f : Die → Die) : (s.modDie d f).frames = s.frames := rfl
@[simp] theorem State.modDie_migrations (s : State) (d : Nat) (f : Die → Die) : (s.modDie d f).migrations = s.migrations := rfl
@[simp] theorem State.modDie_power (s : State) (d : Nat) (f : Die → Die) : (s.modDie d f).power = s.power := rfl
@[simp] theorem State.modDie_hot (s : State) (d : Nat) (f : Die → Die) : (s.modDie d f).hot = s.hot := rfl
@[simp] theorem State.modDie_reckon (s : State) (d : Nat) (f : Die → Die) : (s.modDie d f).reckon = s.reckon := rfl
@[simp] theorem State.modDie_reports (s : State) (d : Nat) (f : Die → Die) : (s.modDie d f).reports = s.reports := rfl
@[simp] theorem State.modDie_helms (s : State) (d : Nat) (f : Die → Die) : (s.modDie d f).helms = s.helms := rfl
@[simp] theorem State.modDie_helmEntry (s : State) (d : Nat) (f : Die → Die) : (s.modDie d f).helmEntry = s.helmEntry := rfl
@[simp] theorem State.modDie_tracesOff (s : State) (d : Nat) (f : Die → Die) : (s.modDie d f).tracesOff = s.tracesOff := rfl
@[simp] theorem State.modDie_regions (s : State) (d : Nat) (f : Die → Die) : (s.modDie d f).regions = s.regions := rfl
@[simp] theorem State.modDie_cores (s : State) (d : Nat) (f : Die → Die) : (s.modDie d f).cores = s.cores := rfl
@[simp] theorem State.modDie_blocks (s : State) (d : Nat) (f : Die → Die) : (s.modDie d f).blocks = s.blocks := rfl
@[simp] theorem State.modDie_engines (s : State) (d : Nat) (f : Die → Die) : (s.modDie d f).engines = s.engines := rfl
@[simp] theorem State.modDie_records (s : State) (d : Nat) (f : Die → Die) : (s.modDie d f).records = s.records := rfl
@[simp] theorem State.modDie_eccBad (s : State) (d : Nat) (f : Die → Die) : (s.modDie d f).eccBad = s.eccBad := rfl
@[simp] theorem State.modDie_eccPending (s : State) (d : Nat) (f : Die → Die) : (s.modDie d f).eccPending = s.eccPending := rfl
@[simp] theorem State.modDie_sweepOwed (s : State) (d : Nat) (f : Die → Die) : (s.modDie d f).sweepOwed = s.sweepOwed := rfl
@[simp] theorem State.modDie_farFaults (s : State) (d : Nat) (f : Die → Die) : (s.modDie d f).farFaults = s.farFaults := rfl
@[simp] theorem State.modDie_nextId (s : State) (d : Nat) (f : Die → Die) : (s.modDie d f).nextId = s.nextId := rfl
@[simp] theorem State.modDie_replies (s : State) (d : Nat) (f : Die → Die) : (s.modDie d f).replies = s.replies := rfl
@[simp] theorem State.modDie_agenda (s : State) (d : Nat) (f : Die → Die) : (s.modDie d f).agenda = s.agenda := rfl
@[simp] theorem State.modDie_cur (s : State) (d : Nat) (f : Die → Die) : (s.modDie d f).cur = s.cur := rfl
@[simp] theorem State.modDie_free (s : State) (d : Nat) (f : Die → Die) : (s.modDie d f).free = s.free := rfl
@[simp] theorem State.modDie_steps (s : State) (d : Nat) (f : Die → Die) : (s.modDie d f).steps = s.steps := rfl
@[simp] theorem State.modDie_badPa (s : State) (d : Nat) (f : Die → Die) : (s.modDie d f).badPa = s.badPa := rfl
@[simp] theorem State.modDie_away (s : State) (d : Nat) (f : Die → Die) : (s.modDie d f).away = s.away := rfl

@[simp] theorem State.modRegion_wall (s : State) (n : Nat) (f : Region → Region) : (s.modRegion n f).wall = s.wall := rfl
@[simp] theorem State.modRegion_cycles (s : State) (n : Nat) (f : Region → Region) : (s.modRegion n f).cycles = s.cycles := rfl
@[simp] theorem State.modRegion_dram (s : State) (n : Nat) (f : Region → Region) : (s.modRegion n f).dram = s.dram := rfl
@[simp] theorem State.modRegion_hostMem (s : State) (n : Nat) (f : Region → Region) : (s.modRegion n f).hostMem = s.hostMem := rfl
@[simp] theorem State.modRegion_remote (s : State) (n : Nat) (f : Region → Region) : (s.modRegion n f).remote = s.remote := rfl
@[simp] theorem State.modRegion_map (s : State) (n : Nat) (f : Region → Region) : (s.modRegion n f).map = s.map := rfl
@[simp] theorem State.modRegion_links (s : State) (n : Nat) (f : Region → Region) : (s.modRegion n f).links = s.links := rfl
@[simp] theorem State.modRegion_inbound (s : State) (n : Nat) (f : Region → Region) : (s.modRegion n f).inbound = s.inbound := rfl
@[simp] theorem State.modRegion_boot (s : State) (n : Nat) (f : Region → Region) : (s.modRegion n f).boot = s.boot := rfl
@[simp] theorem State.modRegion_imageVersion (s : State) (n : Nat) (f : Region → Region) : (s.modRegion n f).imageVersion = s.imageVersion := rfl
@[simp] theorem State.modRegion_imageDigest (s : State) (n : Nat) (f : Region → Region) : (s.modRegion n f).imageDigest = s.imageDigest := rfl
@[simp] theorem State.modRegion_fencePa (s : State) (n : Nat) (f : Region → Region) : (s.modRegion n f).fencePa = s.fencePa := rfl
@[simp] theorem State.modRegion_roots (s : State) (n : Nat) (f : Region → Region) : (s.modRegion n f).roots = s.roots := rfl
@[simp] theorem State.modRegion_domains (s : State) (n : Nat) (f : Region → Region) : (s.modRegion n f).domains = s.domains := rfl
@[simp] theorem State.modRegion_queues (s : State) (n : Nat) (f : Region → Region) : (s.modRegion n f).queues = s.queues := rfl
@[simp] theorem State.modRegion_taken (s : State) (n : Nat) (f : Region → Region) : (s.modRegion n f).taken = s.taken := rfl
@[simp] theorem State.modRegion_pending (s : State) (n : Nat) (f : Region → Region) : (s.modRegion n f).pending = s.pending := rfl
@[simp] theorem State.modRegion_lostCmds (s : State) (n : Nat) (f : Region → Region) : (s.modRegion n f).lostCmds = s.lostCmds := rfl
@[simp] theorem State.modRegion_statuses (s : State) (n : Nat) (f : Region → Region) : (s.modRegion n f).statuses = s.statuses := rfl
@[simp] theorem State.modRegion_headless (s : State) (n : Nat) (f : Region → Region) : (s.modRegion n f).headless = s.headless := rfl
@[simp] theorem State.modRegion_tables (s : State) (n : Nat) (f : Region → Region) : (s.modRegion n f).tables = s.tables := rfl
@[simp] theorem State.modRegion_frames (s : State) (n : Nat) (f : Region → Region) : (s.modRegion n f).frames = s.frames := rfl
@[simp] theorem State.modRegion_migrations (s : State) (n : Nat) (f : Region → Region) : (s.modRegion n f).migrations = s.migrations := rfl
@[simp] theorem State.modRegion_power (s : State) (n : Nat) (f : Region → Region) : (s.modRegion n f).power = s.power := rfl
@[simp] theorem State.modRegion_hot (s : State) (n : Nat) (f : Region → Region) : (s.modRegion n f).hot = s.hot := rfl
@[simp] theorem State.modRegion_reckon (s : State) (n : Nat) (f : Region → Region) : (s.modRegion n f).reckon = s.reckon := rfl
@[simp] theorem State.modRegion_reports (s : State) (n : Nat) (f : Region → Region) : (s.modRegion n f).reports = s.reports := rfl
@[simp] theorem State.modRegion_helms (s : State) (n : Nat) (f : Region → Region) : (s.modRegion n f).helms = s.helms := rfl
@[simp] theorem State.modRegion_helmEntry (s : State) (n : Nat) (f : Region → Region) : (s.modRegion n f).helmEntry = s.helmEntry := rfl
@[simp] theorem State.modRegion_tracesOff (s : State) (n : Nat) (f : Region → Region) : (s.modRegion n f).tracesOff = s.tracesOff := rfl
@[simp] theorem State.modRegion_dies (s : State) (n : Nat) (f : Region → Region) : (s.modRegion n f).dies = s.dies := rfl
@[simp] theorem State.modRegion_cores (s : State) (n : Nat) (f : Region → Region) : (s.modRegion n f).cores = s.cores := rfl
@[simp] theorem State.modRegion_blocks (s : State) (n : Nat) (f : Region → Region) : (s.modRegion n f).blocks = s.blocks := rfl
@[simp] theorem State.modRegion_engines (s : State) (n : Nat) (f : Region → Region) : (s.modRegion n f).engines = s.engines := rfl
@[simp] theorem State.modRegion_records (s : State) (n : Nat) (f : Region → Region) : (s.modRegion n f).records = s.records := rfl
@[simp] theorem State.modRegion_eccBad (s : State) (n : Nat) (f : Region → Region) : (s.modRegion n f).eccBad = s.eccBad := rfl
@[simp] theorem State.modRegion_eccPending (s : State) (n : Nat) (f : Region → Region) : (s.modRegion n f).eccPending = s.eccPending := rfl
@[simp] theorem State.modRegion_sweepOwed (s : State) (n : Nat) (f : Region → Region) : (s.modRegion n f).sweepOwed = s.sweepOwed := rfl
@[simp] theorem State.modRegion_farFaults (s : State) (n : Nat) (f : Region → Region) : (s.modRegion n f).farFaults = s.farFaults := rfl
@[simp] theorem State.modRegion_nextId (s : State) (n : Nat) (f : Region → Region) : (s.modRegion n f).nextId = s.nextId := rfl
@[simp] theorem State.modRegion_replies (s : State) (n : Nat) (f : Region → Region) : (s.modRegion n f).replies = s.replies := rfl
@[simp] theorem State.modRegion_agenda (s : State) (n : Nat) (f : Region → Region) : (s.modRegion n f).agenda = s.agenda := rfl
@[simp] theorem State.modRegion_cur (s : State) (n : Nat) (f : Region → Region) : (s.modRegion n f).cur = s.cur := rfl
@[simp] theorem State.modRegion_free (s : State) (n : Nat) (f : Region → Region) : (s.modRegion n f).free = s.free := rfl
@[simp] theorem State.modRegion_steps (s : State) (n : Nat) (f : Region → Region) : (s.modRegion n f).steps = s.steps := rfl
@[simp] theorem State.modRegion_badPa (s : State) (n : Nat) (f : Region → Region) : (s.modRegion n f).badPa = s.badPa := rfl
@[simp] theorem State.modRegion_away (s : State) (n : Nat) (f : Region → Region) : (s.modRegion n f).away = s.away := rfl

@[simp] theorem State.modEngine_wall (s : State) (n : Nat) (f : EngOp → EngOp) : (s.modEngine n f).wall = s.wall := rfl
@[simp] theorem State.modEngine_cycles (s : State) (n : Nat) (f : EngOp → EngOp) : (s.modEngine n f).cycles = s.cycles := rfl
@[simp] theorem State.modEngine_dram (s : State) (n : Nat) (f : EngOp → EngOp) : (s.modEngine n f).dram = s.dram := rfl
@[simp] theorem State.modEngine_hostMem (s : State) (n : Nat) (f : EngOp → EngOp) : (s.modEngine n f).hostMem = s.hostMem := rfl
@[simp] theorem State.modEngine_remote (s : State) (n : Nat) (f : EngOp → EngOp) : (s.modEngine n f).remote = s.remote := rfl
@[simp] theorem State.modEngine_map (s : State) (n : Nat) (f : EngOp → EngOp) : (s.modEngine n f).map = s.map := rfl
@[simp] theorem State.modEngine_links (s : State) (n : Nat) (f : EngOp → EngOp) : (s.modEngine n f).links = s.links := rfl
@[simp] theorem State.modEngine_inbound (s : State) (n : Nat) (f : EngOp → EngOp) : (s.modEngine n f).inbound = s.inbound := rfl
@[simp] theorem State.modEngine_boot (s : State) (n : Nat) (f : EngOp → EngOp) : (s.modEngine n f).boot = s.boot := rfl
@[simp] theorem State.modEngine_imageVersion (s : State) (n : Nat) (f : EngOp → EngOp) : (s.modEngine n f).imageVersion = s.imageVersion := rfl
@[simp] theorem State.modEngine_imageDigest (s : State) (n : Nat) (f : EngOp → EngOp) : (s.modEngine n f).imageDigest = s.imageDigest := rfl
@[simp] theorem State.modEngine_fencePa (s : State) (n : Nat) (f : EngOp → EngOp) : (s.modEngine n f).fencePa = s.fencePa := rfl
@[simp] theorem State.modEngine_roots (s : State) (n : Nat) (f : EngOp → EngOp) : (s.modEngine n f).roots = s.roots := rfl
@[simp] theorem State.modEngine_domains (s : State) (n : Nat) (f : EngOp → EngOp) : (s.modEngine n f).domains = s.domains := rfl
@[simp] theorem State.modEngine_queues (s : State) (n : Nat) (f : EngOp → EngOp) : (s.modEngine n f).queues = s.queues := rfl
@[simp] theorem State.modEngine_taken (s : State) (n : Nat) (f : EngOp → EngOp) : (s.modEngine n f).taken = s.taken := rfl
@[simp] theorem State.modEngine_pending (s : State) (n : Nat) (f : EngOp → EngOp) : (s.modEngine n f).pending = s.pending := rfl
@[simp] theorem State.modEngine_lostCmds (s : State) (n : Nat) (f : EngOp → EngOp) : (s.modEngine n f).lostCmds = s.lostCmds := rfl
@[simp] theorem State.modEngine_statuses (s : State) (n : Nat) (f : EngOp → EngOp) : (s.modEngine n f).statuses = s.statuses := rfl
@[simp] theorem State.modEngine_headless (s : State) (n : Nat) (f : EngOp → EngOp) : (s.modEngine n f).headless = s.headless := rfl
@[simp] theorem State.modEngine_tables (s : State) (n : Nat) (f : EngOp → EngOp) : (s.modEngine n f).tables = s.tables := rfl
@[simp] theorem State.modEngine_frames (s : State) (n : Nat) (f : EngOp → EngOp) : (s.modEngine n f).frames = s.frames := rfl
@[simp] theorem State.modEngine_migrations (s : State) (n : Nat) (f : EngOp → EngOp) : (s.modEngine n f).migrations = s.migrations := rfl
@[simp] theorem State.modEngine_power (s : State) (n : Nat) (f : EngOp → EngOp) : (s.modEngine n f).power = s.power := rfl
@[simp] theorem State.modEngine_hot (s : State) (n : Nat) (f : EngOp → EngOp) : (s.modEngine n f).hot = s.hot := rfl
@[simp] theorem State.modEngine_reckon (s : State) (n : Nat) (f : EngOp → EngOp) : (s.modEngine n f).reckon = s.reckon := rfl
@[simp] theorem State.modEngine_reports (s : State) (n : Nat) (f : EngOp → EngOp) : (s.modEngine n f).reports = s.reports := rfl
@[simp] theorem State.modEngine_helms (s : State) (n : Nat) (f : EngOp → EngOp) : (s.modEngine n f).helms = s.helms := rfl
@[simp] theorem State.modEngine_helmEntry (s : State) (n : Nat) (f : EngOp → EngOp) : (s.modEngine n f).helmEntry = s.helmEntry := rfl
@[simp] theorem State.modEngine_tracesOff (s : State) (n : Nat) (f : EngOp → EngOp) : (s.modEngine n f).tracesOff = s.tracesOff := rfl
@[simp] theorem State.modEngine_regions (s : State) (n : Nat) (f : EngOp → EngOp) : (s.modEngine n f).regions = s.regions := rfl
@[simp] theorem State.modEngine_dies (s : State) (n : Nat) (f : EngOp → EngOp) : (s.modEngine n f).dies = s.dies := rfl
@[simp] theorem State.modEngine_cores (s : State) (n : Nat) (f : EngOp → EngOp) : (s.modEngine n f).cores = s.cores := rfl
@[simp] theorem State.modEngine_blocks (s : State) (n : Nat) (f : EngOp → EngOp) : (s.modEngine n f).blocks = s.blocks := rfl
@[simp] theorem State.modEngine_records (s : State) (n : Nat) (f : EngOp → EngOp) : (s.modEngine n f).records = s.records := rfl
@[simp] theorem State.modEngine_eccBad (s : State) (n : Nat) (f : EngOp → EngOp) : (s.modEngine n f).eccBad = s.eccBad := rfl
@[simp] theorem State.modEngine_eccPending (s : State) (n : Nat) (f : EngOp → EngOp) : (s.modEngine n f).eccPending = s.eccPending := rfl
@[simp] theorem State.modEngine_sweepOwed (s : State) (n : Nat) (f : EngOp → EngOp) : (s.modEngine n f).sweepOwed = s.sweepOwed := rfl
@[simp] theorem State.modEngine_farFaults (s : State) (n : Nat) (f : EngOp → EngOp) : (s.modEngine n f).farFaults = s.farFaults := rfl
@[simp] theorem State.modEngine_nextId (s : State) (n : Nat) (f : EngOp → EngOp) : (s.modEngine n f).nextId = s.nextId := rfl
@[simp] theorem State.modEngine_replies (s : State) (n : Nat) (f : EngOp → EngOp) : (s.modEngine n f).replies = s.replies := rfl
@[simp] theorem State.modEngine_agenda (s : State) (n : Nat) (f : EngOp → EngOp) : (s.modEngine n f).agenda = s.agenda := rfl
@[simp] theorem State.modEngine_cur (s : State) (n : Nat) (f : EngOp → EngOp) : (s.modEngine n f).cur = s.cur := rfl
@[simp] theorem State.modEngine_free (s : State) (n : Nat) (f : EngOp → EngOp) : (s.modEngine n f).free = s.free := rfl
@[simp] theorem State.modEngine_steps (s : State) (n : Nat) (f : EngOp → EngOp) : (s.modEngine n f).steps = s.steps := rfl
@[simp] theorem State.modEngine_badPa (s : State) (n : Nat) (f : EngOp → EngOp) : (s.modEngine n f).badPa = s.badPa := rfl
@[simp] theorem State.modEngine_away (s : State) (n : Nat) (f : EngOp → EngOp) : (s.modEngine n f).away = s.away := rfl

@[simp] theorem State.endEngine_wall (s : State) (n : Nat) : (s.endEngine n).wall = s.wall := rfl
@[simp] theorem State.endEngine_cycles (s : State) (n : Nat) : (s.endEngine n).cycles = s.cycles := rfl
@[simp] theorem State.endEngine_dram (s : State) (n : Nat) : (s.endEngine n).dram = s.dram := rfl
@[simp] theorem State.endEngine_hostMem (s : State) (n : Nat) : (s.endEngine n).hostMem = s.hostMem := rfl
@[simp] theorem State.endEngine_remote (s : State) (n : Nat) : (s.endEngine n).remote = s.remote := rfl
@[simp] theorem State.endEngine_map (s : State) (n : Nat) : (s.endEngine n).map = s.map := rfl
@[simp] theorem State.endEngine_links (s : State) (n : Nat) : (s.endEngine n).links = s.links := rfl
@[simp] theorem State.endEngine_inbound (s : State) (n : Nat) : (s.endEngine n).inbound = s.inbound := rfl
@[simp] theorem State.endEngine_boot (s : State) (n : Nat) : (s.endEngine n).boot = s.boot := rfl
@[simp] theorem State.endEngine_imageVersion (s : State) (n : Nat) : (s.endEngine n).imageVersion = s.imageVersion := rfl
@[simp] theorem State.endEngine_imageDigest (s : State) (n : Nat) : (s.endEngine n).imageDigest = s.imageDigest := rfl
@[simp] theorem State.endEngine_fencePa (s : State) (n : Nat) : (s.endEngine n).fencePa = s.fencePa := rfl
@[simp] theorem State.endEngine_roots (s : State) (n : Nat) : (s.endEngine n).roots = s.roots := rfl
@[simp] theorem State.endEngine_domains (s : State) (n : Nat) : (s.endEngine n).domains = s.domains := rfl
@[simp] theorem State.endEngine_queues (s : State) (n : Nat) : (s.endEngine n).queues = s.queues := rfl
@[simp] theorem State.endEngine_taken (s : State) (n : Nat) : (s.endEngine n).taken = s.taken := rfl
@[simp] theorem State.endEngine_pending (s : State) (n : Nat) : (s.endEngine n).pending = s.pending := rfl
@[simp] theorem State.endEngine_lostCmds (s : State) (n : Nat) : (s.endEngine n).lostCmds = s.lostCmds := rfl
@[simp] theorem State.endEngine_statuses (s : State) (n : Nat) : (s.endEngine n).statuses = s.statuses := rfl
@[simp] theorem State.endEngine_headless (s : State) (n : Nat) : (s.endEngine n).headless = s.headless := rfl
@[simp] theorem State.endEngine_tables (s : State) (n : Nat) : (s.endEngine n).tables = s.tables := rfl
@[simp] theorem State.endEngine_frames (s : State) (n : Nat) : (s.endEngine n).frames = s.frames := rfl
@[simp] theorem State.endEngine_migrations (s : State) (n : Nat) : (s.endEngine n).migrations = s.migrations := rfl
@[simp] theorem State.endEngine_power (s : State) (n : Nat) : (s.endEngine n).power = s.power := rfl
@[simp] theorem State.endEngine_hot (s : State) (n : Nat) : (s.endEngine n).hot = s.hot := rfl
@[simp] theorem State.endEngine_reckon (s : State) (n : Nat) : (s.endEngine n).reckon = s.reckon := rfl
@[simp] theorem State.endEngine_reports (s : State) (n : Nat) : (s.endEngine n).reports = s.reports := rfl
@[simp] theorem State.endEngine_helms (s : State) (n : Nat) : (s.endEngine n).helms = s.helms := rfl
@[simp] theorem State.endEngine_helmEntry (s : State) (n : Nat) : (s.endEngine n).helmEntry = s.helmEntry := rfl
@[simp] theorem State.endEngine_tracesOff (s : State) (n : Nat) : (s.endEngine n).tracesOff = s.tracesOff := rfl
@[simp] theorem State.endEngine_regions (s : State) (n : Nat) : (s.endEngine n).regions = s.regions := rfl
@[simp] theorem State.endEngine_dies (s : State) (n : Nat) : (s.endEngine n).dies = s.dies := rfl
@[simp] theorem State.endEngine_cores (s : State) (n : Nat) : (s.endEngine n).cores = s.cores := rfl
@[simp] theorem State.endEngine_blocks (s : State) (n : Nat) : (s.endEngine n).blocks = s.blocks := rfl
@[simp] theorem State.endEngine_records (s : State) (n : Nat) : (s.endEngine n).records = s.records := rfl
@[simp] theorem State.endEngine_eccBad (s : State) (n : Nat) : (s.endEngine n).eccBad = s.eccBad := rfl
@[simp] theorem State.endEngine_eccPending (s : State) (n : Nat) : (s.endEngine n).eccPending = s.eccPending := rfl
@[simp] theorem State.endEngine_sweepOwed (s : State) (n : Nat) : (s.endEngine n).sweepOwed = s.sweepOwed := rfl
@[simp] theorem State.endEngine_farFaults (s : State) (n : Nat) : (s.endEngine n).farFaults = s.farFaults := rfl
@[simp] theorem State.endEngine_nextId (s : State) (n : Nat) : (s.endEngine n).nextId = s.nextId := rfl
@[simp] theorem State.endEngine_replies (s : State) (n : Nat) : (s.endEngine n).replies = s.replies := rfl
@[simp] theorem State.endEngine_agenda (s : State) (n : Nat) : (s.endEngine n).agenda = s.agenda := rfl
@[simp] theorem State.endEngine_cur (s : State) (n : Nat) : (s.endEngine n).cur = s.cur := rfl
@[simp] theorem State.endEngine_free (s : State) (n : Nat) : (s.endEngine n).free = s.free := rfl
@[simp] theorem State.endEngine_steps (s : State) (n : Nat) : (s.endEngine n).steps = s.steps := rfl
@[simp] theorem State.endEngine_badPa (s : State) (n : Nat) : (s.endEngine n).badPa = s.badPa := rfl
@[simp] theorem State.endEngine_away (s : State) (n : Nat) : (s.endEngine n).away = s.away := rfl

@[simp] theorem State.modLink_wall (s : State) (n : Nat) (f : Link → Link) : (s.modLink n f).wall = s.wall := rfl
@[simp] theorem State.modLink_cycles (s : State) (n : Nat) (f : Link → Link) : (s.modLink n f).cycles = s.cycles := rfl
@[simp] theorem State.modLink_dram (s : State) (n : Nat) (f : Link → Link) : (s.modLink n f).dram = s.dram := rfl
@[simp] theorem State.modLink_hostMem (s : State) (n : Nat) (f : Link → Link) : (s.modLink n f).hostMem = s.hostMem := rfl
@[simp] theorem State.modLink_remote (s : State) (n : Nat) (f : Link → Link) : (s.modLink n f).remote = s.remote := rfl
@[simp] theorem State.modLink_map (s : State) (n : Nat) (f : Link → Link) : (s.modLink n f).map = s.map := rfl
@[simp] theorem State.modLink_inbound (s : State) (n : Nat) (f : Link → Link) : (s.modLink n f).inbound = s.inbound := rfl
@[simp] theorem State.modLink_boot (s : State) (n : Nat) (f : Link → Link) : (s.modLink n f).boot = s.boot := rfl
@[simp] theorem State.modLink_imageVersion (s : State) (n : Nat) (f : Link → Link) : (s.modLink n f).imageVersion = s.imageVersion := rfl
@[simp] theorem State.modLink_imageDigest (s : State) (n : Nat) (f : Link → Link) : (s.modLink n f).imageDigest = s.imageDigest := rfl
@[simp] theorem State.modLink_fencePa (s : State) (n : Nat) (f : Link → Link) : (s.modLink n f).fencePa = s.fencePa := rfl
@[simp] theorem State.modLink_roots (s : State) (n : Nat) (f : Link → Link) : (s.modLink n f).roots = s.roots := rfl
@[simp] theorem State.modLink_domains (s : State) (n : Nat) (f : Link → Link) : (s.modLink n f).domains = s.domains := rfl
@[simp] theorem State.modLink_queues (s : State) (n : Nat) (f : Link → Link) : (s.modLink n f).queues = s.queues := rfl
@[simp] theorem State.modLink_taken (s : State) (n : Nat) (f : Link → Link) : (s.modLink n f).taken = s.taken := rfl
@[simp] theorem State.modLink_pending (s : State) (n : Nat) (f : Link → Link) : (s.modLink n f).pending = s.pending := rfl
@[simp] theorem State.modLink_lostCmds (s : State) (n : Nat) (f : Link → Link) : (s.modLink n f).lostCmds = s.lostCmds := rfl
@[simp] theorem State.modLink_statuses (s : State) (n : Nat) (f : Link → Link) : (s.modLink n f).statuses = s.statuses := rfl
@[simp] theorem State.modLink_headless (s : State) (n : Nat) (f : Link → Link) : (s.modLink n f).headless = s.headless := rfl
@[simp] theorem State.modLink_tables (s : State) (n : Nat) (f : Link → Link) : (s.modLink n f).tables = s.tables := rfl
@[simp] theorem State.modLink_frames (s : State) (n : Nat) (f : Link → Link) : (s.modLink n f).frames = s.frames := rfl
@[simp] theorem State.modLink_migrations (s : State) (n : Nat) (f : Link → Link) : (s.modLink n f).migrations = s.migrations := rfl
@[simp] theorem State.modLink_power (s : State) (n : Nat) (f : Link → Link) : (s.modLink n f).power = s.power := rfl
@[simp] theorem State.modLink_hot (s : State) (n : Nat) (f : Link → Link) : (s.modLink n f).hot = s.hot := rfl
@[simp] theorem State.modLink_reckon (s : State) (n : Nat) (f : Link → Link) : (s.modLink n f).reckon = s.reckon := rfl
@[simp] theorem State.modLink_reports (s : State) (n : Nat) (f : Link → Link) : (s.modLink n f).reports = s.reports := rfl
@[simp] theorem State.modLink_helms (s : State) (n : Nat) (f : Link → Link) : (s.modLink n f).helms = s.helms := rfl
@[simp] theorem State.modLink_helmEntry (s : State) (n : Nat) (f : Link → Link) : (s.modLink n f).helmEntry = s.helmEntry := rfl
@[simp] theorem State.modLink_tracesOff (s : State) (n : Nat) (f : Link → Link) : (s.modLink n f).tracesOff = s.tracesOff := rfl
@[simp] theorem State.modLink_regions (s : State) (n : Nat) (f : Link → Link) : (s.modLink n f).regions = s.regions := rfl
@[simp] theorem State.modLink_dies (s : State) (n : Nat) (f : Link → Link) : (s.modLink n f).dies = s.dies := rfl
@[simp] theorem State.modLink_cores (s : State) (n : Nat) (f : Link → Link) : (s.modLink n f).cores = s.cores := rfl
@[simp] theorem State.modLink_blocks (s : State) (n : Nat) (f : Link → Link) : (s.modLink n f).blocks = s.blocks := rfl
@[simp] theorem State.modLink_engines (s : State) (n : Nat) (f : Link → Link) : (s.modLink n f).engines = s.engines := rfl
@[simp] theorem State.modLink_records (s : State) (n : Nat) (f : Link → Link) : (s.modLink n f).records = s.records := rfl
@[simp] theorem State.modLink_eccBad (s : State) (n : Nat) (f : Link → Link) : (s.modLink n f).eccBad = s.eccBad := rfl
@[simp] theorem State.modLink_eccPending (s : State) (n : Nat) (f : Link → Link) : (s.modLink n f).eccPending = s.eccPending := rfl
@[simp] theorem State.modLink_sweepOwed (s : State) (n : Nat) (f : Link → Link) : (s.modLink n f).sweepOwed = s.sweepOwed := rfl
@[simp] theorem State.modLink_farFaults (s : State) (n : Nat) (f : Link → Link) : (s.modLink n f).farFaults = s.farFaults := rfl
@[simp] theorem State.modLink_nextId (s : State) (n : Nat) (f : Link → Link) : (s.modLink n f).nextId = s.nextId := rfl
@[simp] theorem State.modLink_replies (s : State) (n : Nat) (f : Link → Link) : (s.modLink n f).replies = s.replies := rfl
@[simp] theorem State.modLink_agenda (s : State) (n : Nat) (f : Link → Link) : (s.modLink n f).agenda = s.agenda := rfl
@[simp] theorem State.modLink_cur (s : State) (n : Nat) (f : Link → Link) : (s.modLink n f).cur = s.cur := rfl
@[simp] theorem State.modLink_free (s : State) (n : Nat) (f : Link → Link) : (s.modLink n f).free = s.free := rfl
@[simp] theorem State.modLink_steps (s : State) (n : Nat) (f : Link → Link) : (s.modLink n f).steps = s.steps := rfl
@[simp] theorem State.modLink_badPa (s : State) (n : Nat) (f : Link → Link) : (s.modLink n f).badPa = s.badPa := rfl
@[simp] theorem State.modLink_away (s : State) (n : Nat) (f : Link → Link) : (s.modLink n f).away = s.away := rfl

@[simp] theorem State.report_wall (s : State) (r : Report) : (s.report r).wall = s.wall := rfl
@[simp] theorem State.report_cycles (s : State) (r : Report) : (s.report r).cycles = s.cycles := rfl
@[simp] theorem State.report_dram (s : State) (r : Report) : (s.report r).dram = s.dram := rfl
@[simp] theorem State.report_hostMem (s : State) (r : Report) : (s.report r).hostMem = s.hostMem := rfl
@[simp] theorem State.report_remote (s : State) (r : Report) : (s.report r).remote = s.remote := rfl
@[simp] theorem State.report_map (s : State) (r : Report) : (s.report r).map = s.map := rfl
@[simp] theorem State.report_links (s : State) (r : Report) : (s.report r).links = s.links := rfl
@[simp] theorem State.report_inbound (s : State) (r : Report) : (s.report r).inbound = s.inbound := rfl
@[simp] theorem State.report_boot (s : State) (r : Report) : (s.report r).boot = s.boot := rfl
@[simp] theorem State.report_imageVersion (s : State) (r : Report) : (s.report r).imageVersion = s.imageVersion := rfl
@[simp] theorem State.report_imageDigest (s : State) (r : Report) : (s.report r).imageDigest = s.imageDigest := rfl
@[simp] theorem State.report_fencePa (s : State) (r : Report) : (s.report r).fencePa = s.fencePa := rfl
@[simp] theorem State.report_roots (s : State) (r : Report) : (s.report r).roots = s.roots := rfl
@[simp] theorem State.report_domains (s : State) (r : Report) : (s.report r).domains = s.domains := rfl
@[simp] theorem State.report_queues (s : State) (r : Report) : (s.report r).queues = s.queues := rfl
@[simp] theorem State.report_taken (s : State) (r : Report) : (s.report r).taken = s.taken := rfl
@[simp] theorem State.report_pending (s : State) (r : Report) : (s.report r).pending = s.pending := rfl
@[simp] theorem State.report_lostCmds (s : State) (r : Report) : (s.report r).lostCmds = s.lostCmds := rfl
@[simp] theorem State.report_statuses (s : State) (r : Report) : (s.report r).statuses = s.statuses := rfl
@[simp] theorem State.report_headless (s : State) (r : Report) : (s.report r).headless = s.headless := rfl
@[simp] theorem State.report_tables (s : State) (r : Report) : (s.report r).tables = s.tables := rfl
@[simp] theorem State.report_frames (s : State) (r : Report) : (s.report r).frames = s.frames := rfl
@[simp] theorem State.report_migrations (s : State) (r : Report) : (s.report r).migrations = s.migrations := rfl
@[simp] theorem State.report_power (s : State) (r : Report) : (s.report r).power = s.power := rfl
@[simp] theorem State.report_hot (s : State) (r : Report) : (s.report r).hot = s.hot := rfl
@[simp] theorem State.report_reckon (s : State) (r : Report) : (s.report r).reckon = s.reckon := rfl
@[simp] theorem State.report_helms (s : State) (r : Report) : (s.report r).helms = s.helms := rfl
@[simp] theorem State.report_helmEntry (s : State) (r : Report) : (s.report r).helmEntry = s.helmEntry := rfl
@[simp] theorem State.report_tracesOff (s : State) (r : Report) : (s.report r).tracesOff = s.tracesOff := rfl
@[simp] theorem State.report_regions (s : State) (r : Report) : (s.report r).regions = s.regions := rfl
@[simp] theorem State.report_dies (s : State) (r : Report) : (s.report r).dies = s.dies := rfl
@[simp] theorem State.report_cores (s : State) (r : Report) : (s.report r).cores = s.cores := rfl
@[simp] theorem State.report_blocks (s : State) (r : Report) : (s.report r).blocks = s.blocks := rfl
@[simp] theorem State.report_engines (s : State) (r : Report) : (s.report r).engines = s.engines := rfl
@[simp] theorem State.report_records (s : State) (r : Report) : (s.report r).records = s.records := rfl
@[simp] theorem State.report_eccBad (s : State) (r : Report) : (s.report r).eccBad = s.eccBad := rfl
@[simp] theorem State.report_eccPending (s : State) (r : Report) : (s.report r).eccPending = s.eccPending := rfl
@[simp] theorem State.report_sweepOwed (s : State) (r : Report) : (s.report r).sweepOwed = s.sweepOwed := rfl
@[simp] theorem State.report_farFaults (s : State) (r : Report) : (s.report r).farFaults = s.farFaults := rfl
@[simp] theorem State.report_nextId (s : State) (r : Report) : (s.report r).nextId = s.nextId := rfl
@[simp] theorem State.report_replies (s : State) (r : Report) : (s.report r).replies = s.replies := rfl
@[simp] theorem State.report_agenda (s : State) (r : Report) : (s.report r).agenda = s.agenda := rfl
@[simp] theorem State.report_cur (s : State) (r : Report) : (s.report r).cur = s.cur := rfl
@[simp] theorem State.report_free (s : State) (r : Report) : (s.report r).free = s.free := rfl
@[simp] theorem State.report_steps (s : State) (r : Report) : (s.report r).steps = s.steps := rfl
@[simp] theorem State.report_badPa (s : State) (r : Report) : (s.report r).badPa = s.badPa := rfl
@[simp] theorem State.report_away (s : State) (r : Report) : (s.report r).away = s.away := rfl

@[simp] theorem State.modCore_wall (s : State) (c : CoreId) (f : Core → Core) : (s.modCore c f).wall = s.wall := by
  unfold State.modCore; split <;> rfl
@[simp] theorem State.modCore_cycles (s : State) (c : CoreId) (f : Core → Core) : (s.modCore c f).cycles = s.cycles := by
  unfold State.modCore; split <;> rfl
@[simp] theorem State.modCore_dram (s : State) (c : CoreId) (f : Core → Core) : (s.modCore c f).dram = s.dram := by
  unfold State.modCore; split <;> rfl
@[simp] theorem State.modCore_hostMem (s : State) (c : CoreId) (f : Core → Core) : (s.modCore c f).hostMem = s.hostMem := by
  unfold State.modCore; split <;> rfl
@[simp] theorem State.modCore_remote (s : State) (c : CoreId) (f : Core → Core) : (s.modCore c f).remote = s.remote := by
  unfold State.modCore; split <;> rfl
@[simp] theorem State.modCore_map (s : State) (c : CoreId) (f : Core → Core) : (s.modCore c f).map = s.map := by
  unfold State.modCore; split <;> rfl
@[simp] theorem State.modCore_links (s : State) (c : CoreId) (f : Core → Core) : (s.modCore c f).links = s.links := by
  unfold State.modCore; split <;> rfl
@[simp] theorem State.modCore_inbound (s : State) (c : CoreId) (f : Core → Core) : (s.modCore c f).inbound = s.inbound := by
  unfold State.modCore; split <;> rfl
@[simp] theorem State.modCore_boot (s : State) (c : CoreId) (f : Core → Core) : (s.modCore c f).boot = s.boot := by
  unfold State.modCore; split <;> rfl
@[simp] theorem State.modCore_imageVersion (s : State) (c : CoreId) (f : Core → Core) : (s.modCore c f).imageVersion = s.imageVersion := by
  unfold State.modCore; split <;> rfl
@[simp] theorem State.modCore_imageDigest (s : State) (c : CoreId) (f : Core → Core) : (s.modCore c f).imageDigest = s.imageDigest := by
  unfold State.modCore; split <;> rfl
@[simp] theorem State.modCore_fencePa (s : State) (c : CoreId) (f : Core → Core) : (s.modCore c f).fencePa = s.fencePa := by
  unfold State.modCore; split <;> rfl
@[simp] theorem State.modCore_roots (s : State) (c : CoreId) (f : Core → Core) : (s.modCore c f).roots = s.roots := by
  unfold State.modCore; split <;> rfl
@[simp] theorem State.modCore_domains (s : State) (c : CoreId) (f : Core → Core) : (s.modCore c f).domains = s.domains := by
  unfold State.modCore; split <;> rfl
@[simp] theorem State.modCore_queues (s : State) (c : CoreId) (f : Core → Core) : (s.modCore c f).queues = s.queues := by
  unfold State.modCore; split <;> rfl
@[simp] theorem State.modCore_taken (s : State) (c : CoreId) (f : Core → Core) : (s.modCore c f).taken = s.taken := by
  unfold State.modCore; split <;> rfl
@[simp] theorem State.modCore_pending (s : State) (c : CoreId) (f : Core → Core) : (s.modCore c f).pending = s.pending := by
  unfold State.modCore; split <;> rfl
@[simp] theorem State.modCore_lostCmds (s : State) (c : CoreId) (f : Core → Core) : (s.modCore c f).lostCmds = s.lostCmds := by
  unfold State.modCore; split <;> rfl
@[simp] theorem State.modCore_statuses (s : State) (c : CoreId) (f : Core → Core) : (s.modCore c f).statuses = s.statuses := by
  unfold State.modCore; split <;> rfl
@[simp] theorem State.modCore_headless (s : State) (c : CoreId) (f : Core → Core) : (s.modCore c f).headless = s.headless := by
  unfold State.modCore; split <;> rfl
@[simp] theorem State.modCore_tables (s : State) (c : CoreId) (f : Core → Core) : (s.modCore c f).tables = s.tables := by
  unfold State.modCore; split <;> rfl
@[simp] theorem State.modCore_frames (s : State) (c : CoreId) (f : Core → Core) : (s.modCore c f).frames = s.frames := by
  unfold State.modCore; split <;> rfl
@[simp] theorem State.modCore_migrations (s : State) (c : CoreId) (f : Core → Core) : (s.modCore c f).migrations = s.migrations := by
  unfold State.modCore; split <;> rfl
@[simp] theorem State.modCore_power (s : State) (c : CoreId) (f : Core → Core) : (s.modCore c f).power = s.power := by
  unfold State.modCore; split <;> rfl
@[simp] theorem State.modCore_hot (s : State) (c : CoreId) (f : Core → Core) : (s.modCore c f).hot = s.hot := by
  unfold State.modCore; split <;> rfl
@[simp] theorem State.modCore_reckon (s : State) (c : CoreId) (f : Core → Core) : (s.modCore c f).reckon = s.reckon := by
  unfold State.modCore; split <;> rfl
@[simp] theorem State.modCore_reports (s : State) (c : CoreId) (f : Core → Core) : (s.modCore c f).reports = s.reports := by
  unfold State.modCore; split <;> rfl
@[simp] theorem State.modCore_helms (s : State) (c : CoreId) (f : Core → Core) : (s.modCore c f).helms = s.helms := by
  unfold State.modCore; split <;> rfl
@[simp] theorem State.modCore_helmEntry (s : State) (c : CoreId) (f : Core → Core) : (s.modCore c f).helmEntry = s.helmEntry := by
  unfold State.modCore; split <;> rfl
@[simp] theorem State.modCore_tracesOff (s : State) (c : CoreId) (f : Core → Core) : (s.modCore c f).tracesOff = s.tracesOff := by
  unfold State.modCore; split <;> rfl
@[simp] theorem State.modCore_regions (s : State) (c : CoreId) (f : Core → Core) : (s.modCore c f).regions = s.regions := by
  unfold State.modCore; split <;> rfl
@[simp] theorem State.modCore_dies (s : State) (c : CoreId) (f : Core → Core) : (s.modCore c f).dies = s.dies := by
  unfold State.modCore; split <;> rfl
@[simp] theorem State.modCore_blocks (s : State) (c : CoreId) (f : Core → Core) : (s.modCore c f).blocks = s.blocks := by
  unfold State.modCore; split <;> rfl
@[simp] theorem State.modCore_engines (s : State) (c : CoreId) (f : Core → Core) : (s.modCore c f).engines = s.engines := by
  unfold State.modCore; split <;> rfl
@[simp] theorem State.modCore_records (s : State) (c : CoreId) (f : Core → Core) : (s.modCore c f).records = s.records := by
  unfold State.modCore; split <;> rfl
@[simp] theorem State.modCore_eccBad (s : State) (c : CoreId) (f : Core → Core) : (s.modCore c f).eccBad = s.eccBad := by
  unfold State.modCore; split <;> rfl
@[simp] theorem State.modCore_eccPending (s : State) (c : CoreId) (f : Core → Core) : (s.modCore c f).eccPending = s.eccPending := by
  unfold State.modCore; split <;> rfl
@[simp] theorem State.modCore_sweepOwed (s : State) (c : CoreId) (f : Core → Core) : (s.modCore c f).sweepOwed = s.sweepOwed := by
  unfold State.modCore; split <;> rfl
@[simp] theorem State.modCore_farFaults (s : State) (c : CoreId) (f : Core → Core) : (s.modCore c f).farFaults = s.farFaults := by
  unfold State.modCore; split <;> rfl
@[simp] theorem State.modCore_nextId (s : State) (c : CoreId) (f : Core → Core) : (s.modCore c f).nextId = s.nextId := by
  unfold State.modCore; split <;> rfl
@[simp] theorem State.modCore_replies (s : State) (c : CoreId) (f : Core → Core) : (s.modCore c f).replies = s.replies := by
  unfold State.modCore; split <;> rfl
@[simp] theorem State.modCore_agenda (s : State) (c : CoreId) (f : Core → Core) : (s.modCore c f).agenda = s.agenda := by
  unfold State.modCore; split <;> rfl
@[simp] theorem State.modCore_cur (s : State) (c : CoreId) (f : Core → Core) : (s.modCore c f).cur = s.cur := by
  unfold State.modCore; split <;> rfl
@[simp] theorem State.modCore_free (s : State) (c : CoreId) (f : Core → Core) : (s.modCore c f).free = s.free := by
  unfold State.modCore; split <;> rfl
@[simp] theorem State.modCore_steps (s : State) (c : CoreId) (f : Core → Core) : (s.modCore c f).steps = s.steps := by
  unfold State.modCore; split <;> rfl
@[simp] theorem State.modCore_badPa (s : State) (c : CoreId) (f : Core → Core) : (s.modCore c f).badPa = s.badPa := by
  unfold State.modCore; split <;> rfl
@[simp] theorem State.modCore_away (s : State) (c : CoreId) (f : Core → Core) : (s.modCore c f).away = s.away := by
  unfold State.modCore; split <;> rfl

@[simp] theorem State.unreached_wall (s : State) (a : Away) : (s.unreached a).wall = s.wall := rfl
@[simp] theorem State.unreached_cycles (s : State) (a : Away) : (s.unreached a).cycles = s.cycles := rfl
@[simp] theorem State.unreached_dram (s : State) (a : Away) : (s.unreached a).dram = s.dram := rfl
@[simp] theorem State.unreached_hostMem (s : State) (a : Away) : (s.unreached a).hostMem = s.hostMem := rfl
@[simp] theorem State.unreached_remote (s : State) (a : Away) : (s.unreached a).remote = s.remote := rfl
@[simp] theorem State.unreached_map (s : State) (a : Away) : (s.unreached a).map = s.map := rfl
@[simp] theorem State.unreached_links (s : State) (a : Away) : (s.unreached a).links = s.links := rfl
@[simp] theorem State.unreached_inbound (s : State) (a : Away) : (s.unreached a).inbound = s.inbound := rfl
@[simp] theorem State.unreached_boot (s : State) (a : Away) : (s.unreached a).boot = s.boot := rfl
@[simp] theorem State.unreached_imageVersion (s : State) (a : Away) : (s.unreached a).imageVersion = s.imageVersion := rfl
@[simp] theorem State.unreached_imageDigest (s : State) (a : Away) : (s.unreached a).imageDigest = s.imageDigest := rfl
@[simp] theorem State.unreached_fencePa (s : State) (a : Away) : (s.unreached a).fencePa = s.fencePa := rfl
@[simp] theorem State.unreached_roots (s : State) (a : Away) : (s.unreached a).roots = s.roots := rfl
@[simp] theorem State.unreached_domains (s : State) (a : Away) : (s.unreached a).domains = s.domains := rfl
@[simp] theorem State.unreached_queues (s : State) (a : Away) : (s.unreached a).queues = s.queues := rfl
@[simp] theorem State.unreached_taken (s : State) (a : Away) : (s.unreached a).taken = s.taken := rfl
@[simp] theorem State.unreached_pending (s : State) (a : Away) : (s.unreached a).pending = s.pending := rfl
@[simp] theorem State.unreached_lostCmds (s : State) (a : Away) : (s.unreached a).lostCmds = s.lostCmds := rfl
@[simp] theorem State.unreached_statuses (s : State) (a : Away) : (s.unreached a).statuses = s.statuses := rfl
@[simp] theorem State.unreached_headless (s : State) (a : Away) : (s.unreached a).headless = s.headless := rfl
@[simp] theorem State.unreached_tables (s : State) (a : Away) : (s.unreached a).tables = s.tables := rfl
@[simp] theorem State.unreached_frames (s : State) (a : Away) : (s.unreached a).frames = s.frames := rfl
@[simp] theorem State.unreached_migrations (s : State) (a : Away) : (s.unreached a).migrations = s.migrations := rfl
@[simp] theorem State.unreached_power (s : State) (a : Away) : (s.unreached a).power = s.power := rfl
@[simp] theorem State.unreached_hot (s : State) (a : Away) : (s.unreached a).hot = s.hot := rfl
@[simp] theorem State.unreached_reckon (s : State) (a : Away) : (s.unreached a).reckon = s.reckon := rfl
@[simp] theorem State.unreached_reports (s : State) (a : Away) : (s.unreached a).reports = s.reports := rfl
@[simp] theorem State.unreached_helms (s : State) (a : Away) : (s.unreached a).helms = s.helms := rfl
@[simp] theorem State.unreached_helmEntry (s : State) (a : Away) : (s.unreached a).helmEntry = s.helmEntry := rfl
@[simp] theorem State.unreached_tracesOff (s : State) (a : Away) : (s.unreached a).tracesOff = s.tracesOff := rfl
@[simp] theorem State.unreached_regions (s : State) (a : Away) : (s.unreached a).regions = s.regions := rfl
@[simp] theorem State.unreached_dies (s : State) (a : Away) : (s.unreached a).dies = s.dies := rfl
@[simp] theorem State.unreached_cores (s : State) (a : Away) : (s.unreached a).cores = s.cores := rfl
@[simp] theorem State.unreached_blocks (s : State) (a : Away) : (s.unreached a).blocks = s.blocks := rfl
@[simp] theorem State.unreached_engines (s : State) (a : Away) : (s.unreached a).engines = s.engines := rfl
@[simp] theorem State.unreached_records (s : State) (a : Away) : (s.unreached a).records = s.records := rfl
@[simp] theorem State.unreached_eccBad (s : State) (a : Away) : (s.unreached a).eccBad = s.eccBad := rfl
@[simp] theorem State.unreached_eccPending (s : State) (a : Away) : (s.unreached a).eccPending = s.eccPending := rfl
@[simp] theorem State.unreached_sweepOwed (s : State) (a : Away) : (s.unreached a).sweepOwed = s.sweepOwed := rfl
@[simp] theorem State.unreached_farFaults (s : State) (a : Away) : (s.unreached a).farFaults = s.farFaults := rfl
@[simp] theorem State.unreached_nextId (s : State) (a : Away) : (s.unreached a).nextId = s.nextId := rfl
@[simp] theorem State.unreached_replies (s : State) (a : Away) : (s.unreached a).replies = s.replies := rfl
@[simp] theorem State.unreached_agenda (s : State) (a : Away) : (s.unreached a).agenda = s.agenda := rfl
@[simp] theorem State.unreached_cur (s : State) (a : Away) : (s.unreached a).cur = s.cur := rfl
@[simp] theorem State.unreached_free (s : State) (a : Away) : (s.unreached a).free = s.free := rfl
@[simp] theorem State.unreached_steps (s : State) (a : Away) : (s.unreached a).steps = s.steps := rfl
@[simp] theorem State.unreached_badPa (s : State) (a : Away) : (s.unreached a).badPa = s.badPa := rfl

@[simp] theorem State.ask_wall (s : State) (h : Nat) : (s.ask h).wall = s.wall := by
  unfold State.ask; split <;> rfl
@[simp] theorem State.ask_cycles (s : State) (h : Nat) : (s.ask h).cycles = s.cycles := by
  unfold State.ask; split <;> rfl
@[simp] theorem State.ask_dram (s : State) (h : Nat) : (s.ask h).dram = s.dram := by
  unfold State.ask; split <;> rfl
@[simp] theorem State.ask_hostMem (s : State) (h : Nat) : (s.ask h).hostMem = s.hostMem := by
  unfold State.ask; split <;> rfl
@[simp] theorem State.ask_remote (s : State) (h : Nat) : (s.ask h).remote = s.remote := by
  unfold State.ask; split <;> rfl
@[simp] theorem State.ask_map (s : State) (h : Nat) : (s.ask h).map = s.map := by
  unfold State.ask; split <;> rfl
@[simp] theorem State.ask_links (s : State) (h : Nat) : (s.ask h).links = s.links := by
  unfold State.ask; split <;> rfl
@[simp] theorem State.ask_inbound (s : State) (h : Nat) : (s.ask h).inbound = s.inbound := by
  unfold State.ask; split <;> rfl
@[simp] theorem State.ask_boot (s : State) (h : Nat) : (s.ask h).boot = s.boot := by
  unfold State.ask; split <;> rfl
@[simp] theorem State.ask_imageVersion (s : State) (h : Nat) : (s.ask h).imageVersion = s.imageVersion := by
  unfold State.ask; split <;> rfl
@[simp] theorem State.ask_imageDigest (s : State) (h : Nat) : (s.ask h).imageDigest = s.imageDigest := by
  unfold State.ask; split <;> rfl
@[simp] theorem State.ask_fencePa (s : State) (h : Nat) : (s.ask h).fencePa = s.fencePa := by
  unfold State.ask; split <;> rfl
@[simp] theorem State.ask_roots (s : State) (h : Nat) : (s.ask h).roots = s.roots := by
  unfold State.ask; split <;> rfl
@[simp] theorem State.ask_domains (s : State) (h : Nat) : (s.ask h).domains = s.domains := by
  unfold State.ask; split <;> rfl
@[simp] theorem State.ask_queues (s : State) (h : Nat) : (s.ask h).queues = s.queues := by
  unfold State.ask; split <;> rfl
@[simp] theorem State.ask_taken (s : State) (h : Nat) : (s.ask h).taken = s.taken := by
  unfold State.ask; split <;> rfl
@[simp] theorem State.ask_pending (s : State) (h : Nat) : (s.ask h).pending = s.pending := by
  unfold State.ask; split <;> rfl
@[simp] theorem State.ask_lostCmds (s : State) (h : Nat) : (s.ask h).lostCmds = s.lostCmds := by
  unfold State.ask; split <;> rfl
@[simp] theorem State.ask_statuses (s : State) (h : Nat) : (s.ask h).statuses = s.statuses := by
  unfold State.ask; split <;> rfl
@[simp] theorem State.ask_headless (s : State) (h : Nat) : (s.ask h).headless = s.headless := by
  unfold State.ask; split <;> rfl
@[simp] theorem State.ask_tables (s : State) (h : Nat) : (s.ask h).tables = s.tables := by
  unfold State.ask; split <;> rfl
@[simp] theorem State.ask_frames (s : State) (h : Nat) : (s.ask h).frames = s.frames := by
  unfold State.ask; split <;> rfl
@[simp] theorem State.ask_migrations (s : State) (h : Nat) : (s.ask h).migrations = s.migrations := by
  unfold State.ask; split <;> rfl
@[simp] theorem State.ask_power (s : State) (h : Nat) : (s.ask h).power = s.power := by
  unfold State.ask; split <;> rfl
@[simp] theorem State.ask_hot (s : State) (h : Nat) : (s.ask h).hot = s.hot := by
  unfold State.ask; split <;> rfl
@[simp] theorem State.ask_reckon (s : State) (h : Nat) : (s.ask h).reckon = s.reckon := by
  unfold State.ask; split <;> rfl
@[simp] theorem State.ask_reports (s : State) (h : Nat) : (s.ask h).reports = s.reports := by
  unfold State.ask; split <;> rfl
@[simp] theorem State.ask_helms (s : State) (h : Nat) : (s.ask h).helms = s.helms := by
  unfold State.ask; split <;> rfl
@[simp] theorem State.ask_helmEntry (s : State) (h : Nat) : (s.ask h).helmEntry = s.helmEntry := by
  unfold State.ask; split <;> rfl
@[simp] theorem State.ask_tracesOff (s : State) (h : Nat) : (s.ask h).tracesOff = s.tracesOff := by
  unfold State.ask; split <;> rfl
@[simp] theorem State.ask_regions (s : State) (h : Nat) : (s.ask h).regions = s.regions := by
  unfold State.ask; split <;> rfl
@[simp] theorem State.ask_dies (s : State) (h : Nat) : (s.ask h).dies = s.dies := by
  unfold State.ask; split <;> rfl
@[simp] theorem State.ask_cores (s : State) (h : Nat) : (s.ask h).cores = s.cores := by
  unfold State.ask; split <;> rfl
@[simp] theorem State.ask_blocks (s : State) (h : Nat) : (s.ask h).blocks = s.blocks := by
  unfold State.ask; split <;> rfl
@[simp] theorem State.ask_engines (s : State) (h : Nat) : (s.ask h).engines = s.engines := by
  unfold State.ask; split <;> rfl
@[simp] theorem State.ask_records (s : State) (h : Nat) : (s.ask h).records = s.records := by
  unfold State.ask; split <;> rfl
@[simp] theorem State.ask_eccBad (s : State) (h : Nat) : (s.ask h).eccBad = s.eccBad := by
  unfold State.ask; split <;> rfl
@[simp] theorem State.ask_eccPending (s : State) (h : Nat) : (s.ask h).eccPending = s.eccPending := by
  unfold State.ask; split <;> rfl
@[simp] theorem State.ask_sweepOwed (s : State) (h : Nat) : (s.ask h).sweepOwed = s.sweepOwed := by
  unfold State.ask; split <;> rfl
@[simp] theorem State.ask_farFaults (s : State) (h : Nat) : (s.ask h).farFaults = s.farFaults := by
  unfold State.ask; split <;> rfl
@[simp] theorem State.ask_nextId (s : State) (h : Nat) : (s.ask h).nextId = s.nextId := by
  unfold State.ask; split <;> rfl
@[simp] theorem State.ask_replies (s : State) (h : Nat) : (s.ask h).replies = s.replies := by
  unfold State.ask; split <;> rfl
@[simp] theorem State.ask_agenda (s : State) (h : Nat) : (s.ask h).agenda = s.agenda := by
  unfold State.ask; split <;> rfl
@[simp] theorem State.ask_cur (s : State) (h : Nat) : (s.ask h).cur = s.cur := by
  unfold State.ask; split <;> rfl
@[simp] theorem State.ask_free (s : State) (h : Nat) : (s.ask h).free = s.free := by
  unfold State.ask; split <;> rfl
@[simp] theorem State.ask_steps (s : State) (h : Nat) : (s.ask h).steps = s.steps := by
  unfold State.ask; split <;> rfl
@[simp] theorem State.ask_badPa (s : State) (h : Nat) : (s.ask h).badPa = s.badPa := by
  unfold State.ask; split <;> rfl

@[simp] theorem State.hotTouch_wall (s : State) (line : Nat) : (s.hotTouch line).wall = s.wall := by
  unfold State.hotTouch; split <;> rfl
@[simp] theorem State.hotTouch_cycles (s : State) (line : Nat) : (s.hotTouch line).cycles = s.cycles := by
  unfold State.hotTouch; split <;> rfl
@[simp] theorem State.hotTouch_dram (s : State) (line : Nat) : (s.hotTouch line).dram = s.dram := by
  unfold State.hotTouch; split <;> rfl
@[simp] theorem State.hotTouch_hostMem (s : State) (line : Nat) : (s.hotTouch line).hostMem = s.hostMem := by
  unfold State.hotTouch; split <;> rfl
@[simp] theorem State.hotTouch_remote (s : State) (line : Nat) : (s.hotTouch line).remote = s.remote := by
  unfold State.hotTouch; split <;> rfl
@[simp] theorem State.hotTouch_map (s : State) (line : Nat) : (s.hotTouch line).map = s.map := by
  unfold State.hotTouch; split <;> rfl
@[simp] theorem State.hotTouch_links (s : State) (line : Nat) : (s.hotTouch line).links = s.links := by
  unfold State.hotTouch; split <;> rfl
@[simp] theorem State.hotTouch_inbound (s : State) (line : Nat) : (s.hotTouch line).inbound = s.inbound := by
  unfold State.hotTouch; split <;> rfl
@[simp] theorem State.hotTouch_boot (s : State) (line : Nat) : (s.hotTouch line).boot = s.boot := by
  unfold State.hotTouch; split <;> rfl
@[simp] theorem State.hotTouch_imageVersion (s : State) (line : Nat) : (s.hotTouch line).imageVersion = s.imageVersion := by
  unfold State.hotTouch; split <;> rfl
@[simp] theorem State.hotTouch_imageDigest (s : State) (line : Nat) : (s.hotTouch line).imageDigest = s.imageDigest := by
  unfold State.hotTouch; split <;> rfl
@[simp] theorem State.hotTouch_fencePa (s : State) (line : Nat) : (s.hotTouch line).fencePa = s.fencePa := by
  unfold State.hotTouch; split <;> rfl
@[simp] theorem State.hotTouch_roots (s : State) (line : Nat) : (s.hotTouch line).roots = s.roots := by
  unfold State.hotTouch; split <;> rfl
@[simp] theorem State.hotTouch_domains (s : State) (line : Nat) : (s.hotTouch line).domains = s.domains := by
  unfold State.hotTouch; split <;> rfl
@[simp] theorem State.hotTouch_queues (s : State) (line : Nat) : (s.hotTouch line).queues = s.queues := by
  unfold State.hotTouch; split <;> rfl
@[simp] theorem State.hotTouch_taken (s : State) (line : Nat) : (s.hotTouch line).taken = s.taken := by
  unfold State.hotTouch; split <;> rfl
@[simp] theorem State.hotTouch_pending (s : State) (line : Nat) : (s.hotTouch line).pending = s.pending := by
  unfold State.hotTouch; split <;> rfl
@[simp] theorem State.hotTouch_lostCmds (s : State) (line : Nat) : (s.hotTouch line).lostCmds = s.lostCmds := by
  unfold State.hotTouch; split <;> rfl
@[simp] theorem State.hotTouch_statuses (s : State) (line : Nat) : (s.hotTouch line).statuses = s.statuses := by
  unfold State.hotTouch; split <;> rfl
@[simp] theorem State.hotTouch_headless (s : State) (line : Nat) : (s.hotTouch line).headless = s.headless := by
  unfold State.hotTouch; split <;> rfl
@[simp] theorem State.hotTouch_tables (s : State) (line : Nat) : (s.hotTouch line).tables = s.tables := by
  unfold State.hotTouch; split <;> rfl
@[simp] theorem State.hotTouch_frames (s : State) (line : Nat) : (s.hotTouch line).frames = s.frames := by
  unfold State.hotTouch; split <;> rfl
@[simp] theorem State.hotTouch_migrations (s : State) (line : Nat) : (s.hotTouch line).migrations = s.migrations := by
  unfold State.hotTouch; split <;> rfl
@[simp] theorem State.hotTouch_power (s : State) (line : Nat) : (s.hotTouch line).power = s.power := by
  unfold State.hotTouch; split <;> rfl
@[simp] theorem State.hotTouch_reckon (s : State) (line : Nat) : (s.hotTouch line).reckon = s.reckon := by
  unfold State.hotTouch; split <;> rfl
@[simp] theorem State.hotTouch_reports (s : State) (line : Nat) : (s.hotTouch line).reports = s.reports := by
  unfold State.hotTouch; split <;> rfl
@[simp] theorem State.hotTouch_helms (s : State) (line : Nat) : (s.hotTouch line).helms = s.helms := by
  unfold State.hotTouch; split <;> rfl
@[simp] theorem State.hotTouch_helmEntry (s : State) (line : Nat) : (s.hotTouch line).helmEntry = s.helmEntry := by
  unfold State.hotTouch; split <;> rfl
@[simp] theorem State.hotTouch_tracesOff (s : State) (line : Nat) : (s.hotTouch line).tracesOff = s.tracesOff := by
  unfold State.hotTouch; split <;> rfl
@[simp] theorem State.hotTouch_regions (s : State) (line : Nat) : (s.hotTouch line).regions = s.regions := by
  unfold State.hotTouch; split <;> rfl
@[simp] theorem State.hotTouch_dies (s : State) (line : Nat) : (s.hotTouch line).dies = s.dies := by
  unfold State.hotTouch; split <;> rfl
@[simp] theorem State.hotTouch_cores (s : State) (line : Nat) : (s.hotTouch line).cores = s.cores := by
  unfold State.hotTouch; split <;> rfl
@[simp] theorem State.hotTouch_blocks (s : State) (line : Nat) : (s.hotTouch line).blocks = s.blocks := by
  unfold State.hotTouch; split <;> rfl
@[simp] theorem State.hotTouch_engines (s : State) (line : Nat) : (s.hotTouch line).engines = s.engines := by
  unfold State.hotTouch; split <;> rfl
@[simp] theorem State.hotTouch_records (s : State) (line : Nat) : (s.hotTouch line).records = s.records := by
  unfold State.hotTouch; split <;> rfl
@[simp] theorem State.hotTouch_eccBad (s : State) (line : Nat) : (s.hotTouch line).eccBad = s.eccBad := by
  unfold State.hotTouch; split <;> rfl
@[simp] theorem State.hotTouch_eccPending (s : State) (line : Nat) : (s.hotTouch line).eccPending = s.eccPending := by
  unfold State.hotTouch; split <;> rfl
@[simp] theorem State.hotTouch_sweepOwed (s : State) (line : Nat) : (s.hotTouch line).sweepOwed = s.sweepOwed := by
  unfold State.hotTouch; split <;> rfl
@[simp] theorem State.hotTouch_farFaults (s : State) (line : Nat) : (s.hotTouch line).farFaults = s.farFaults := by
  unfold State.hotTouch; split <;> rfl
@[simp] theorem State.hotTouch_nextId (s : State) (line : Nat) : (s.hotTouch line).nextId = s.nextId := by
  unfold State.hotTouch; split <;> rfl
@[simp] theorem State.hotTouch_replies (s : State) (line : Nat) : (s.hotTouch line).replies = s.replies := by
  unfold State.hotTouch; split <;> rfl
@[simp] theorem State.hotTouch_agenda (s : State) (line : Nat) : (s.hotTouch line).agenda = s.agenda := by
  unfold State.hotTouch; split <;> rfl
@[simp] theorem State.hotTouch_cur (s : State) (line : Nat) : (s.hotTouch line).cur = s.cur := by
  unfold State.hotTouch; split <;> rfl
@[simp] theorem State.hotTouch_free (s : State) (line : Nat) : (s.hotTouch line).free = s.free := by
  unfold State.hotTouch; split <;> rfl
@[simp] theorem State.hotTouch_steps (s : State) (line : Nat) : (s.hotTouch line).steps = s.steps := by
  unfold State.hotTouch; split <;> rfl
@[simp] theorem State.hotTouch_badPa (s : State) (line : Nat) : (s.hotTouch line).badPa = s.badPa := by
  unfold State.hotTouch; split <;> rfl
@[simp] theorem State.hotTouch_away (s : State) (line : Nat) : (s.hotTouch line).away = s.away := by
  unfold State.hotTouch; split <;> rfl

@[simp] theorem State.dramAccess_wall (s : State) (line : Nat) : (s.dramAccess line).wall = s.wall := by
  unfold State.dramAccess; split <;> simp
@[simp] theorem State.dramAccess_cycles (s : State) (line : Nat) : (s.dramAccess line).cycles = s.cycles := by
  unfold State.dramAccess; split <;> simp
@[simp] theorem State.dramAccess_dram (s : State) (line : Nat) : (s.dramAccess line).dram = s.dram := by
  unfold State.dramAccess; split <;> simp
@[simp] theorem State.dramAccess_hostMem (s : State) (line : Nat) : (s.dramAccess line).hostMem = s.hostMem := by
  unfold State.dramAccess; split <;> simp
@[simp] theorem State.dramAccess_remote (s : State) (line : Nat) : (s.dramAccess line).remote = s.remote := by
  unfold State.dramAccess; split <;> simp
@[simp] theorem State.dramAccess_map (s : State) (line : Nat) : (s.dramAccess line).map = s.map := by
  unfold State.dramAccess; split <;> simp
@[simp] theorem State.dramAccess_links (s : State) (line : Nat) : (s.dramAccess line).links = s.links := by
  unfold State.dramAccess; split <;> simp
@[simp] theorem State.dramAccess_inbound (s : State) (line : Nat) : (s.dramAccess line).inbound = s.inbound := by
  unfold State.dramAccess; split <;> simp
@[simp] theorem State.dramAccess_boot (s : State) (line : Nat) : (s.dramAccess line).boot = s.boot := by
  unfold State.dramAccess; split <;> simp
@[simp] theorem State.dramAccess_imageVersion (s : State) (line : Nat) : (s.dramAccess line).imageVersion = s.imageVersion := by
  unfold State.dramAccess; split <;> simp
@[simp] theorem State.dramAccess_imageDigest (s : State) (line : Nat) : (s.dramAccess line).imageDigest = s.imageDigest := by
  unfold State.dramAccess; split <;> simp
@[simp] theorem State.dramAccess_fencePa (s : State) (line : Nat) : (s.dramAccess line).fencePa = s.fencePa := by
  unfold State.dramAccess; split <;> simp
@[simp] theorem State.dramAccess_roots (s : State) (line : Nat) : (s.dramAccess line).roots = s.roots := by
  unfold State.dramAccess; split <;> simp
@[simp] theorem State.dramAccess_domains (s : State) (line : Nat) : (s.dramAccess line).domains = s.domains := by
  unfold State.dramAccess; split <;> simp
@[simp] theorem State.dramAccess_queues (s : State) (line : Nat) : (s.dramAccess line).queues = s.queues := by
  unfold State.dramAccess; split <;> simp
@[simp] theorem State.dramAccess_taken (s : State) (line : Nat) : (s.dramAccess line).taken = s.taken := by
  unfold State.dramAccess; split <;> simp
@[simp] theorem State.dramAccess_pending (s : State) (line : Nat) : (s.dramAccess line).pending = s.pending := by
  unfold State.dramAccess; split <;> simp
@[simp] theorem State.dramAccess_lostCmds (s : State) (line : Nat) : (s.dramAccess line).lostCmds = s.lostCmds := by
  unfold State.dramAccess; split <;> simp
@[simp] theorem State.dramAccess_statuses (s : State) (line : Nat) : (s.dramAccess line).statuses = s.statuses := by
  unfold State.dramAccess; split <;> simp
@[simp] theorem State.dramAccess_headless (s : State) (line : Nat) : (s.dramAccess line).headless = s.headless := by
  unfold State.dramAccess; split <;> simp
@[simp] theorem State.dramAccess_tables (s : State) (line : Nat) : (s.dramAccess line).tables = s.tables := by
  unfold State.dramAccess; split <;> simp
@[simp] theorem State.dramAccess_frames (s : State) (line : Nat) : (s.dramAccess line).frames = s.frames := by
  unfold State.dramAccess; split <;> simp
@[simp] theorem State.dramAccess_migrations (s : State) (line : Nat) : (s.dramAccess line).migrations = s.migrations := by
  unfold State.dramAccess; split <;> simp
@[simp] theorem State.dramAccess_power (s : State) (line : Nat) : (s.dramAccess line).power = s.power := by
  unfold State.dramAccess; split <;> simp
@[simp] theorem State.dramAccess_reckon (s : State) (line : Nat) : (s.dramAccess line).reckon = s.reckon := by
  unfold State.dramAccess; split <;> simp
@[simp] theorem State.dramAccess_reports (s : State) (line : Nat) : (s.dramAccess line).reports = s.reports := by
  unfold State.dramAccess; split <;> simp
@[simp] theorem State.dramAccess_helms (s : State) (line : Nat) : (s.dramAccess line).helms = s.helms := by
  unfold State.dramAccess; split <;> simp
@[simp] theorem State.dramAccess_helmEntry (s : State) (line : Nat) : (s.dramAccess line).helmEntry = s.helmEntry := by
  unfold State.dramAccess; split <;> simp
@[simp] theorem State.dramAccess_tracesOff (s : State) (line : Nat) : (s.dramAccess line).tracesOff = s.tracesOff := by
  unfold State.dramAccess; split <;> simp
@[simp] theorem State.dramAccess_regions (s : State) (line : Nat) : (s.dramAccess line).regions = s.regions := by
  unfold State.dramAccess; split <;> simp
@[simp] theorem State.dramAccess_dies (s : State) (line : Nat) : (s.dramAccess line).dies = s.dies := by
  unfold State.dramAccess; split <;> simp
@[simp] theorem State.dramAccess_cores (s : State) (line : Nat) : (s.dramAccess line).cores = s.cores := by
  unfold State.dramAccess; split <;> simp
@[simp] theorem State.dramAccess_blocks (s : State) (line : Nat) : (s.dramAccess line).blocks = s.blocks := by
  unfold State.dramAccess; split <;> simp
@[simp] theorem State.dramAccess_engines (s : State) (line : Nat) : (s.dramAccess line).engines = s.engines := by
  unfold State.dramAccess; split <;> simp
@[simp] theorem State.dramAccess_records (s : State) (line : Nat) : (s.dramAccess line).records = s.records := by
  unfold State.dramAccess; split <;> simp
@[simp] theorem State.dramAccess_eccBad (s : State) (line : Nat) : (s.dramAccess line).eccBad = s.eccBad := by
  unfold State.dramAccess; split <;> simp
@[simp] theorem State.dramAccess_eccPending (s : State) (line : Nat) : (s.dramAccess line).eccPending = s.eccPending := by
  unfold State.dramAccess; split <;> simp
@[simp] theorem State.dramAccess_sweepOwed (s : State) (line : Nat) : (s.dramAccess line).sweepOwed = s.sweepOwed := by
  unfold State.dramAccess; split <;> simp
@[simp] theorem State.dramAccess_farFaults (s : State) (line : Nat) : (s.dramAccess line).farFaults = s.farFaults := by
  unfold State.dramAccess; split <;> simp
@[simp] theorem State.dramAccess_nextId (s : State) (line : Nat) : (s.dramAccess line).nextId = s.nextId := by
  unfold State.dramAccess; split <;> simp
@[simp] theorem State.dramAccess_replies (s : State) (line : Nat) : (s.dramAccess line).replies = s.replies := by
  unfold State.dramAccess; split <;> simp
@[simp] theorem State.dramAccess_agenda (s : State) (line : Nat) : (s.dramAccess line).agenda = s.agenda := by
  unfold State.dramAccess; split <;> simp
@[simp] theorem State.dramAccess_cur (s : State) (line : Nat) : (s.dramAccess line).cur = s.cur := by
  unfold State.dramAccess; split <;> simp
@[simp] theorem State.dramAccess_free (s : State) (line : Nat) : (s.dramAccess line).free = s.free := by
  unfold State.dramAccess; split <;> simp
@[simp] theorem State.dramAccess_steps (s : State) (line : Nat) : (s.dramAccess line).steps = s.steps := by
  unfold State.dramAccess; split <;> simp
@[simp] theorem State.dramAccess_badPa (s : State) (line : Nat) : (s.dramAccess line).badPa = s.badPa := by
  unfold State.dramAccess; split <;> simp

@[simp] theorem Group.vSet_slot (g : Group) (n : Nat) (m : Mask) (f : Nat → Word) : (g.vSet n m f).slot = g.slot := rfl
@[simp] theorem Group.vSet_splits (g : Group) (n : Nat) (m : Mask) (f : Nat → Word) : (g.vSet n m f).splits = g.splits := rfl
@[simp] theorem Group.vSet_s (g : Group) (n : Nat) (m : Mask) (f : Nat → Word) : (g.vSet n m f).s = g.s := rfl
@[simp] theorem Group.vSet_k (g : Group) (n : Nat) (m : Mask) (f : Nat → Word) : (g.vSet n m f).k = g.k := rfl
@[simp] theorem Group.vSet_x (g : Group) (n : Nat) (m : Mask) (f : Nat → Word) : (g.vSet n m f).x = g.x := rfl
@[simp] theorem Group.vSet_flags (g : Group) (n : Nat) (m : Mask) (f : Nat → Word) : (g.vSet n m f).flags = g.flags := rfl
@[simp] theorem Group.vSet_vb (g : Group) (n : Nat) (m : Mask) (f : Nat → Word) : (g.vSet n m f).vb = g.vb := rfl
@[simp] theorem Group.vSet_regcnt (g : Group) (n : Nat) (m : Mask) (f : Nat → Word) : (g.vSet n m f).regcnt = g.regcnt := rfl
@[simp] theorem Group.vSet_rgncnt (g : Group) (n : Nat) (m : Mask) (f : Nat → Word) : (g.vSet n m f).rgncnt = g.rgncnt := rfl
@[simp] theorem Group.vSet_rgnpc (g : Group) (n : Nat) (m : Mask) (f : Nat → Word) : (g.vSet n m f).rgnpc = g.rgnpc := rfl
@[simp] theorem Group.vSet_rgnOpen (g : Group) (n : Nat) (m : Mask) (f : Nat → Word) : (g.vSet n m f).rgnOpen = g.rgnOpen := rfl
@[simp] theorem Group.vSet_level (g : Group) (n : Nat) (m : Mask) (f : Nat → Word) : (g.vSet n m f).level = g.level := rfl
@[simp] theorem Group.vSet_debug (g : Group) (n : Nat) (m : Mask) (f : Nat → Word) : (g.vSet n m f).debug = g.debug := rfl
@[simp] theorem Group.vSet_frames (g : Group) (n : Nat) (m : Mask) (f : Nat → Word) : (g.vSet n m f).frames = g.frames := rfl
@[simp] theorem Group.vSet_trap (g : Group) (n : Nat) (m : Mask) (f : Nat → Word) : (g.vSet n m f).trap = g.trap := rfl
@[simp] theorem Group.vSet_freshS (g : Group) (n : Nat) (m : Mask) (f : Nat → Word) : (g.vSet n m f).freshS = g.freshS := rfl
@[simp] theorem Group.vSet_gates (g : Group) (n : Nat) (m : Mask) (f : Nat → Word) : (g.vSet n m f).gates = g.gates := rfl
@[simp] theorem Group.vSet_gatestat (g : Group) (n : Nat) (m : Mask) (f : Nat → Word) : (g.vSet n m f).gatestat = g.gatestat := rfl
@[simp] theorem Group.vSet_ctx (g : Group) (n : Nat) (m : Mask) (f : Nat → Word) : (g.vSet n m f).ctx = g.ctx := rfl
@[simp] theorem Group.vSet_calleeScr (g : Group) (n : Nat) (m : Mask) (f : Nat → Word) : (g.vSet n m f).calleeScr = g.calleeScr := rfl
@[simp] theorem Group.vSet_calleeSize (g : Group) (n : Nat) (m : Mask) (f : Nat → Word) : (g.vSet n m f).calleeSize = g.calleeSize := rfl
@[simp] theorem Group.vSet_latches (g : Group) (n : Nat) (m : Mask) (f : Nat → Word) : (g.vSet n m f).latches = g.latches := rfl
@[simp] theorem Group.vSet_mq (g : Group) (n : Nat) (m : Mask) (f : Nat → Word) : (g.vSet n m f).mq = g.mq := rfl
@[simp] theorem Group.vSet_batches (g : Group) (n : Nat) (m : Mask) (f : Nat → Word) : (g.vSet n m f).batches = g.batches := rfl
@[simp] theorem Group.vSet_nextBatch (g : Group) (n : Nat) (m : Mask) (f : Nat → Word) : (g.vSet n m f).nextBatch = g.nextBatch := rfl
@[simp] theorem Group.vSet_loads (g : Group) (n : Nat) (m : Mask) (f : Nat → Word) : (g.vSet n m f).loads = g.loads := rfl
@[simp] theorem Group.vSet_tmovs (g : Group) (n : Nat) (m : Mask) (f : Nat → Word) : (g.vSet n m f).tmovs = g.tmovs := rfl
@[simp] theorem Group.vSet_unacked (g : Group) (n : Nat) (m : Mask) (f : Nat → Word) : (g.vSet n m f).unacked = g.unacked := rfl
@[simp] theorem Group.vSet_relSig (g : Group) (n : Nat) (m : Mask) (f : Nat → Word) : (g.vSet n m f).relSig = g.relSig := rfl
@[simp] theorem Group.vSet_acqSig (g : Group) (n : Nat) (m : Mask) (f : Nat → Word) : (g.vSet n m f).acqSig = g.acqSig := rfl
@[simp] theorem Group.vSet_relPending (g : Group) (n : Nat) (m : Mask) (f : Nat → Word) : (g.vSet n m f).relPending = g.relPending := rfl
@[simp] theorem Group.vSet_efaults (g : Group) (n : Nat) (m : Mask) (f : Nat → Word) : (g.vSet n m f).efaults = g.efaults := rfl
@[simp] theorem Group.vSet_lastBar (g : Group) (n : Nat) (m : Mask) (f : Nat → Word) : (g.vSet n m f).lastBar = g.lastBar := rfl
@[simp] theorem Group.vSet_async (g : Group) (n : Nat) (m : Mask) (f : Nat → Word) : (g.vSet n m f).async = g.async := rfl
@[simp] theorem Group.vSet_step (g : Group) (n : Nat) (m : Mask) (f : Nat → Word) : (g.vSet n m f).step = g.step := rfl
@[simp] theorem Group.vSet_yielded (g : Group) (n : Nat) (m : Mask) (f : Nat → Word) : (g.vSet n m f).yielded = g.yielded := rfl
@[simp] theorem Group.vSet_deadline (g : Group) (n : Nat) (m : Mask) (f : Nat → Word) : (g.vSet n m f).deadline = g.deadline := rfl
@[simp] theorem Group.vSet_preempting (g : Group) (n : Nat) (m : Mask) (f : Nat → Word) : (g.vSet n m f).preempting = g.preempting := rfl
@[simp] theorem Group.vSet_restart (g : Group) (n : Nat) (m : Mask) (f : Nat → Word) : (g.vSet n m f).restart = g.restart := rfl
@[simp] theorem Group.vSet_ended (g : Group) (n : Nat) (m : Mask) (f : Nat → Word) : (g.vSet n m f).ended = g.ended := rfl

@[simp] theorem Group.sSet_slot (g : Group) (n : Nat) (w : Word) : (g.sSet n w).slot = g.slot := rfl
@[simp] theorem Group.sSet_splits (g : Group) (n : Nat) (w : Word) : (g.sSet n w).splits = g.splits := rfl
@[simp] theorem Group.sSet_v (g : Group) (n : Nat) (w : Word) : (g.sSet n w).v = g.v := rfl
@[simp] theorem Group.sSet_fe (g : Group) (n : Nat) (w : Word) : (g.sSet n w).fe = g.fe := rfl
@[simp] theorem Group.sSet_k (g : Group) (n : Nat) (w : Word) : (g.sSet n w).k = g.k := rfl
@[simp] theorem Group.sSet_x (g : Group) (n : Nat) (w : Word) : (g.sSet n w).x = g.x := rfl
@[simp] theorem Group.sSet_flags (g : Group) (n : Nat) (w : Word) : (g.sSet n w).flags = g.flags := rfl
@[simp] theorem Group.sSet_vb (g : Group) (n : Nat) (w : Word) : (g.sSet n w).vb = g.vb := rfl
@[simp] theorem Group.sSet_regcnt (g : Group) (n : Nat) (w : Word) : (g.sSet n w).regcnt = g.regcnt := rfl
@[simp] theorem Group.sSet_rgncnt (g : Group) (n : Nat) (w : Word) : (g.sSet n w).rgncnt = g.rgncnt := rfl
@[simp] theorem Group.sSet_rgnpc (g : Group) (n : Nat) (w : Word) : (g.sSet n w).rgnpc = g.rgnpc := rfl
@[simp] theorem Group.sSet_rgnOpen (g : Group) (n : Nat) (w : Word) : (g.sSet n w).rgnOpen = g.rgnOpen := rfl
@[simp] theorem Group.sSet_level (g : Group) (n : Nat) (w : Word) : (g.sSet n w).level = g.level := rfl
@[simp] theorem Group.sSet_debug (g : Group) (n : Nat) (w : Word) : (g.sSet n w).debug = g.debug := rfl
@[simp] theorem Group.sSet_frames (g : Group) (n : Nat) (w : Word) : (g.sSet n w).frames = g.frames := rfl
@[simp] theorem Group.sSet_trap (g : Group) (n : Nat) (w : Word) : (g.sSet n w).trap = g.trap := rfl
@[simp] theorem Group.sSet_gates (g : Group) (n : Nat) (w : Word) : (g.sSet n w).gates = g.gates := rfl
@[simp] theorem Group.sSet_gatestat (g : Group) (n : Nat) (w : Word) : (g.sSet n w).gatestat = g.gatestat := rfl
@[simp] theorem Group.sSet_ctx (g : Group) (n : Nat) (w : Word) : (g.sSet n w).ctx = g.ctx := rfl
@[simp] theorem Group.sSet_calleeScr (g : Group) (n : Nat) (w : Word) : (g.sSet n w).calleeScr = g.calleeScr := rfl
@[simp] theorem Group.sSet_calleeSize (g : Group) (n : Nat) (w : Word) : (g.sSet n w).calleeSize = g.calleeSize := rfl
@[simp] theorem Group.sSet_latches (g : Group) (n : Nat) (w : Word) : (g.sSet n w).latches = g.latches := rfl
@[simp] theorem Group.sSet_mq (g : Group) (n : Nat) (w : Word) : (g.sSet n w).mq = g.mq := rfl
@[simp] theorem Group.sSet_batches (g : Group) (n : Nat) (w : Word) : (g.sSet n w).batches = g.batches := rfl
@[simp] theorem Group.sSet_nextBatch (g : Group) (n : Nat) (w : Word) : (g.sSet n w).nextBatch = g.nextBatch := rfl
@[simp] theorem Group.sSet_loads (g : Group) (n : Nat) (w : Word) : (g.sSet n w).loads = g.loads := rfl
@[simp] theorem Group.sSet_tmovs (g : Group) (n : Nat) (w : Word) : (g.sSet n w).tmovs = g.tmovs := rfl
@[simp] theorem Group.sSet_unacked (g : Group) (n : Nat) (w : Word) : (g.sSet n w).unacked = g.unacked := rfl
@[simp] theorem Group.sSet_relSig (g : Group) (n : Nat) (w : Word) : (g.sSet n w).relSig = g.relSig := rfl
@[simp] theorem Group.sSet_acqSig (g : Group) (n : Nat) (w : Word) : (g.sSet n w).acqSig = g.acqSig := rfl
@[simp] theorem Group.sSet_relPending (g : Group) (n : Nat) (w : Word) : (g.sSet n w).relPending = g.relPending := rfl
@[simp] theorem Group.sSet_efaults (g : Group) (n : Nat) (w : Word) : (g.sSet n w).efaults = g.efaults := rfl
@[simp] theorem Group.sSet_lastBar (g : Group) (n : Nat) (w : Word) : (g.sSet n w).lastBar = g.lastBar := rfl
@[simp] theorem Group.sSet_async (g : Group) (n : Nat) (w : Word) : (g.sSet n w).async = g.async := rfl
@[simp] theorem Group.sSet_step (g : Group) (n : Nat) (w : Word) : (g.sSet n w).step = g.step := rfl
@[simp] theorem Group.sSet_yielded (g : Group) (n : Nat) (w : Word) : (g.sSet n w).yielded = g.yielded := rfl
@[simp] theorem Group.sSet_deadline (g : Group) (n : Nat) (w : Word) : (g.sSet n w).deadline = g.deadline := rfl
@[simp] theorem Group.sSet_preempting (g : Group) (n : Nat) (w : Word) : (g.sSet n w).preempting = g.preempting := rfl
@[simp] theorem Group.sSet_restart (g : Group) (n : Nat) (w : Word) : (g.sSet n w).restart = g.restart := rfl
@[simp] theorem Group.sSet_ended (g : Group) (n : Nat) (w : Word) : (g.sSet n w).ended = g.ended := rfl

@[simp] theorem Group.kSet_slot (g : Group) (n : Nat) (m v : Mask) : (g.kSet n m v).slot = g.slot := rfl
@[simp] theorem Group.kSet_splits (g : Group) (n : Nat) (m v : Mask) : (g.kSet n m v).splits = g.splits := rfl
@[simp] theorem Group.kSet_v (g : Group) (n : Nat) (m v : Mask) : (g.kSet n m v).v = g.v := rfl
@[simp] theorem Group.kSet_fe (g : Group) (n : Nat) (m v : Mask) : (g.kSet n m v).fe = g.fe := rfl
@[simp] theorem Group.kSet_s (g : Group) (n : Nat) (m v : Mask) : (g.kSet n m v).s = g.s := rfl
@[simp] theorem Group.kSet_x (g : Group) (n : Nat) (m v : Mask) : (g.kSet n m v).x = g.x := rfl
@[simp] theorem Group.kSet_flags (g : Group) (n : Nat) (m v : Mask) : (g.kSet n m v).flags = g.flags := rfl
@[simp] theorem Group.kSet_vb (g : Group) (n : Nat) (m v : Mask) : (g.kSet n m v).vb = g.vb := rfl
@[simp] theorem Group.kSet_regcnt (g : Group) (n : Nat) (m v : Mask) : (g.kSet n m v).regcnt = g.regcnt := rfl
@[simp] theorem Group.kSet_rgncnt (g : Group) (n : Nat) (m v : Mask) : (g.kSet n m v).rgncnt = g.rgncnt := rfl
@[simp] theorem Group.kSet_rgnpc (g : Group) (n : Nat) (m v : Mask) : (g.kSet n m v).rgnpc = g.rgnpc := rfl
@[simp] theorem Group.kSet_rgnOpen (g : Group) (n : Nat) (m v : Mask) : (g.kSet n m v).rgnOpen = g.rgnOpen := rfl
@[simp] theorem Group.kSet_level (g : Group) (n : Nat) (m v : Mask) : (g.kSet n m v).level = g.level := rfl
@[simp] theorem Group.kSet_debug (g : Group) (n : Nat) (m v : Mask) : (g.kSet n m v).debug = g.debug := rfl
@[simp] theorem Group.kSet_frames (g : Group) (n : Nat) (m v : Mask) : (g.kSet n m v).frames = g.frames := rfl
@[simp] theorem Group.kSet_trap (g : Group) (n : Nat) (m v : Mask) : (g.kSet n m v).trap = g.trap := rfl
@[simp] theorem Group.kSet_freshS (g : Group) (n : Nat) (m v : Mask) : (g.kSet n m v).freshS = g.freshS := rfl
@[simp] theorem Group.kSet_gates (g : Group) (n : Nat) (m v : Mask) : (g.kSet n m v).gates = g.gates := rfl
@[simp] theorem Group.kSet_gatestat (g : Group) (n : Nat) (m v : Mask) : (g.kSet n m v).gatestat = g.gatestat := rfl
@[simp] theorem Group.kSet_ctx (g : Group) (n : Nat) (m v : Mask) : (g.kSet n m v).ctx = g.ctx := rfl
@[simp] theorem Group.kSet_calleeScr (g : Group) (n : Nat) (m v : Mask) : (g.kSet n m v).calleeScr = g.calleeScr := rfl
@[simp] theorem Group.kSet_calleeSize (g : Group) (n : Nat) (m v : Mask) : (g.kSet n m v).calleeSize = g.calleeSize := rfl
@[simp] theorem Group.kSet_latches (g : Group) (n : Nat) (m v : Mask) : (g.kSet n m v).latches = g.latches := rfl
@[simp] theorem Group.kSet_mq (g : Group) (n : Nat) (m v : Mask) : (g.kSet n m v).mq = g.mq := rfl
@[simp] theorem Group.kSet_batches (g : Group) (n : Nat) (m v : Mask) : (g.kSet n m v).batches = g.batches := rfl
@[simp] theorem Group.kSet_nextBatch (g : Group) (n : Nat) (m v : Mask) : (g.kSet n m v).nextBatch = g.nextBatch := rfl
@[simp] theorem Group.kSet_loads (g : Group) (n : Nat) (m v : Mask) : (g.kSet n m v).loads = g.loads := rfl
@[simp] theorem Group.kSet_tmovs (g : Group) (n : Nat) (m v : Mask) : (g.kSet n m v).tmovs = g.tmovs := rfl
@[simp] theorem Group.kSet_unacked (g : Group) (n : Nat) (m v : Mask) : (g.kSet n m v).unacked = g.unacked := rfl
@[simp] theorem Group.kSet_relSig (g : Group) (n : Nat) (m v : Mask) : (g.kSet n m v).relSig = g.relSig := rfl
@[simp] theorem Group.kSet_acqSig (g : Group) (n : Nat) (m v : Mask) : (g.kSet n m v).acqSig = g.acqSig := rfl
@[simp] theorem Group.kSet_relPending (g : Group) (n : Nat) (m v : Mask) : (g.kSet n m v).relPending = g.relPending := rfl
@[simp] theorem Group.kSet_efaults (g : Group) (n : Nat) (m v : Mask) : (g.kSet n m v).efaults = g.efaults := rfl
@[simp] theorem Group.kSet_lastBar (g : Group) (n : Nat) (m v : Mask) : (g.kSet n m v).lastBar = g.lastBar := rfl
@[simp] theorem Group.kSet_async (g : Group) (n : Nat) (m v : Mask) : (g.kSet n m v).async = g.async := rfl
@[simp] theorem Group.kSet_step (g : Group) (n : Nat) (m v : Mask) : (g.kSet n m v).step = g.step := rfl
@[simp] theorem Group.kSet_yielded (g : Group) (n : Nat) (m v : Mask) : (g.kSet n m v).yielded = g.yielded := rfl
@[simp] theorem Group.kSet_deadline (g : Group) (n : Nat) (m v : Mask) : (g.kSet n m v).deadline = g.deadline := rfl
@[simp] theorem Group.kSet_preempting (g : Group) (n : Nat) (m v : Mask) : (g.kSet n m v).preempting = g.preempting := rfl
@[simp] theorem Group.kSet_restart (g : Group) (n : Nat) (m v : Mask) : (g.kSet n m v).restart = g.restart := rfl
@[simp] theorem Group.kSet_ended (g : Group) (n : Nat) (m v : Mask) : (g.kSet n m v).ended = g.ended := rfl

@[simp] theorem Group.setPred_slot (g : Group) (n : Nat) (m : Mask) (f : Nat → Bool) : (g.setPred n m f).slot = g.slot := rfl
@[simp] theorem Group.setPred_splits (g : Group) (n : Nat) (m : Mask) (f : Nat → Bool) : (g.setPred n m f).splits = g.splits := rfl
@[simp] theorem Group.setPred_v (g : Group) (n : Nat) (m : Mask) (f : Nat → Bool) : (g.setPred n m f).v = g.v := rfl
@[simp] theorem Group.setPred_fe (g : Group) (n : Nat) (m : Mask) (f : Nat → Bool) : (g.setPred n m f).fe = g.fe := rfl
@[simp] theorem Group.setPred_s (g : Group) (n : Nat) (m : Mask) (f : Nat → Bool) : (g.setPred n m f).s = g.s := rfl
@[simp] theorem Group.setPred_x (g : Group) (n : Nat) (m : Mask) (f : Nat → Bool) : (g.setPred n m f).x = g.x := rfl
@[simp] theorem Group.setPred_flags (g : Group) (n : Nat) (m : Mask) (f : Nat → Bool) : (g.setPred n m f).flags = g.flags := rfl
@[simp] theorem Group.setPred_vb (g : Group) (n : Nat) (m : Mask) (f : Nat → Bool) : (g.setPred n m f).vb = g.vb := rfl
@[simp] theorem Group.setPred_regcnt (g : Group) (n : Nat) (m : Mask) (f : Nat → Bool) : (g.setPred n m f).regcnt = g.regcnt := rfl
@[simp] theorem Group.setPred_rgncnt (g : Group) (n : Nat) (m : Mask) (f : Nat → Bool) : (g.setPred n m f).rgncnt = g.rgncnt := rfl
@[simp] theorem Group.setPred_rgnpc (g : Group) (n : Nat) (m : Mask) (f : Nat → Bool) : (g.setPred n m f).rgnpc = g.rgnpc := rfl
@[simp] theorem Group.setPred_rgnOpen (g : Group) (n : Nat) (m : Mask) (f : Nat → Bool) : (g.setPred n m f).rgnOpen = g.rgnOpen := rfl
@[simp] theorem Group.setPred_level (g : Group) (n : Nat) (m : Mask) (f : Nat → Bool) : (g.setPred n m f).level = g.level := rfl
@[simp] theorem Group.setPred_debug (g : Group) (n : Nat) (m : Mask) (f : Nat → Bool) : (g.setPred n m f).debug = g.debug := rfl
@[simp] theorem Group.setPred_frames (g : Group) (n : Nat) (m : Mask) (f : Nat → Bool) : (g.setPred n m f).frames = g.frames := rfl
@[simp] theorem Group.setPred_trap (g : Group) (n : Nat) (m : Mask) (f : Nat → Bool) : (g.setPred n m f).trap = g.trap := rfl
@[simp] theorem Group.setPred_freshS (g : Group) (n : Nat) (m : Mask) (f : Nat → Bool) : (g.setPred n m f).freshS = g.freshS := rfl
@[simp] theorem Group.setPred_gates (g : Group) (n : Nat) (m : Mask) (f : Nat → Bool) : (g.setPred n m f).gates = g.gates := rfl
@[simp] theorem Group.setPred_gatestat (g : Group) (n : Nat) (m : Mask) (f : Nat → Bool) : (g.setPred n m f).gatestat = g.gatestat := rfl
@[simp] theorem Group.setPred_ctx (g : Group) (n : Nat) (m : Mask) (f : Nat → Bool) : (g.setPred n m f).ctx = g.ctx := rfl
@[simp] theorem Group.setPred_calleeScr (g : Group) (n : Nat) (m : Mask) (f : Nat → Bool) : (g.setPred n m f).calleeScr = g.calleeScr := rfl
@[simp] theorem Group.setPred_calleeSize (g : Group) (n : Nat) (m : Mask) (f : Nat → Bool) : (g.setPred n m f).calleeSize = g.calleeSize := rfl
@[simp] theorem Group.setPred_latches (g : Group) (n : Nat) (m : Mask) (f : Nat → Bool) : (g.setPred n m f).latches = g.latches := rfl
@[simp] theorem Group.setPred_mq (g : Group) (n : Nat) (m : Mask) (f : Nat → Bool) : (g.setPred n m f).mq = g.mq := rfl
@[simp] theorem Group.setPred_batches (g : Group) (n : Nat) (m : Mask) (f : Nat → Bool) : (g.setPred n m f).batches = g.batches := rfl
@[simp] theorem Group.setPred_nextBatch (g : Group) (n : Nat) (m : Mask) (f : Nat → Bool) : (g.setPred n m f).nextBatch = g.nextBatch := rfl
@[simp] theorem Group.setPred_loads (g : Group) (n : Nat) (m : Mask) (f : Nat → Bool) : (g.setPred n m f).loads = g.loads := rfl
@[simp] theorem Group.setPred_tmovs (g : Group) (n : Nat) (m : Mask) (f : Nat → Bool) : (g.setPred n m f).tmovs = g.tmovs := rfl
@[simp] theorem Group.setPred_unacked (g : Group) (n : Nat) (m : Mask) (f : Nat → Bool) : (g.setPred n m f).unacked = g.unacked := rfl
@[simp] theorem Group.setPred_relSig (g : Group) (n : Nat) (m : Mask) (f : Nat → Bool) : (g.setPred n m f).relSig = g.relSig := rfl
@[simp] theorem Group.setPred_acqSig (g : Group) (n : Nat) (m : Mask) (f : Nat → Bool) : (g.setPred n m f).acqSig = g.acqSig := rfl
@[simp] theorem Group.setPred_relPending (g : Group) (n : Nat) (m : Mask) (f : Nat → Bool) : (g.setPred n m f).relPending = g.relPending := rfl
@[simp] theorem Group.setPred_efaults (g : Group) (n : Nat) (m : Mask) (f : Nat → Bool) : (g.setPred n m f).efaults = g.efaults := rfl
@[simp] theorem Group.setPred_lastBar (g : Group) (n : Nat) (m : Mask) (f : Nat → Bool) : (g.setPred n m f).lastBar = g.lastBar := rfl
@[simp] theorem Group.setPred_async (g : Group) (n : Nat) (m : Mask) (f : Nat → Bool) : (g.setPred n m f).async = g.async := rfl
@[simp] theorem Group.setPred_step (g : Group) (n : Nat) (m : Mask) (f : Nat → Bool) : (g.setPred n m f).step = g.step := rfl
@[simp] theorem Group.setPred_yielded (g : Group) (n : Nat) (m : Mask) (f : Nat → Bool) : (g.setPred n m f).yielded = g.yielded := rfl
@[simp] theorem Group.setPred_deadline (g : Group) (n : Nat) (m : Mask) (f : Nat → Bool) : (g.setPred n m f).deadline = g.deadline := rfl
@[simp] theorem Group.setPred_preempting (g : Group) (n : Nat) (m : Mask) (f : Nat → Bool) : (g.setPred n m f).preempting = g.preempting := rfl
@[simp] theorem Group.setPred_restart (g : Group) (n : Nat) (m : Mask) (f : Nat → Bool) : (g.setPred n m f).restart = g.restart := rfl
@[simp] theorem Group.setPred_ended (g : Group) (n : Nat) (m : Mask) (f : Nat → Bool) : (g.setPred n m f).ended = g.ended := rfl

@[simp] theorem Group.modSplit_slot (g : Group) (n : Nat) (f : Split → Split) : (g.modSplit n f).slot = g.slot := rfl
@[simp] theorem Group.modSplit_v (g : Group) (n : Nat) (f : Split → Split) : (g.modSplit n f).v = g.v := rfl
@[simp] theorem Group.modSplit_fe (g : Group) (n : Nat) (f : Split → Split) : (g.modSplit n f).fe = g.fe := rfl
@[simp] theorem Group.modSplit_s (g : Group) (n : Nat) (f : Split → Split) : (g.modSplit n f).s = g.s := rfl
@[simp] theorem Group.modSplit_k (g : Group) (n : Nat) (f : Split → Split) : (g.modSplit n f).k = g.k := rfl
@[simp] theorem Group.modSplit_x (g : Group) (n : Nat) (f : Split → Split) : (g.modSplit n f).x = g.x := rfl
@[simp] theorem Group.modSplit_flags (g : Group) (n : Nat) (f : Split → Split) : (g.modSplit n f).flags = g.flags := rfl
@[simp] theorem Group.modSplit_vb (g : Group) (n : Nat) (f : Split → Split) : (g.modSplit n f).vb = g.vb := rfl
@[simp] theorem Group.modSplit_regcnt (g : Group) (n : Nat) (f : Split → Split) : (g.modSplit n f).regcnt = g.regcnt := rfl
@[simp] theorem Group.modSplit_rgncnt (g : Group) (n : Nat) (f : Split → Split) : (g.modSplit n f).rgncnt = g.rgncnt := rfl
@[simp] theorem Group.modSplit_rgnpc (g : Group) (n : Nat) (f : Split → Split) : (g.modSplit n f).rgnpc = g.rgnpc := rfl
@[simp] theorem Group.modSplit_rgnOpen (g : Group) (n : Nat) (f : Split → Split) : (g.modSplit n f).rgnOpen = g.rgnOpen := rfl
@[simp] theorem Group.modSplit_level (g : Group) (n : Nat) (f : Split → Split) : (g.modSplit n f).level = g.level := rfl
@[simp] theorem Group.modSplit_debug (g : Group) (n : Nat) (f : Split → Split) : (g.modSplit n f).debug = g.debug := rfl
@[simp] theorem Group.modSplit_frames (g : Group) (n : Nat) (f : Split → Split) : (g.modSplit n f).frames = g.frames := rfl
@[simp] theorem Group.modSplit_trap (g : Group) (n : Nat) (f : Split → Split) : (g.modSplit n f).trap = g.trap := rfl
@[simp] theorem Group.modSplit_freshS (g : Group) (n : Nat) (f : Split → Split) : (g.modSplit n f).freshS = g.freshS := rfl
@[simp] theorem Group.modSplit_gates (g : Group) (n : Nat) (f : Split → Split) : (g.modSplit n f).gates = g.gates := rfl
@[simp] theorem Group.modSplit_gatestat (g : Group) (n : Nat) (f : Split → Split) : (g.modSplit n f).gatestat = g.gatestat := rfl
@[simp] theorem Group.modSplit_ctx (g : Group) (n : Nat) (f : Split → Split) : (g.modSplit n f).ctx = g.ctx := rfl
@[simp] theorem Group.modSplit_calleeScr (g : Group) (n : Nat) (f : Split → Split) : (g.modSplit n f).calleeScr = g.calleeScr := rfl
@[simp] theorem Group.modSplit_calleeSize (g : Group) (n : Nat) (f : Split → Split) : (g.modSplit n f).calleeSize = g.calleeSize := rfl
@[simp] theorem Group.modSplit_latches (g : Group) (n : Nat) (f : Split → Split) : (g.modSplit n f).latches = g.latches := rfl
@[simp] theorem Group.modSplit_mq (g : Group) (n : Nat) (f : Split → Split) : (g.modSplit n f).mq = g.mq := rfl
@[simp] theorem Group.modSplit_batches (g : Group) (n : Nat) (f : Split → Split) : (g.modSplit n f).batches = g.batches := rfl
@[simp] theorem Group.modSplit_nextBatch (g : Group) (n : Nat) (f : Split → Split) : (g.modSplit n f).nextBatch = g.nextBatch := rfl
@[simp] theorem Group.modSplit_loads (g : Group) (n : Nat) (f : Split → Split) : (g.modSplit n f).loads = g.loads := rfl
@[simp] theorem Group.modSplit_tmovs (g : Group) (n : Nat) (f : Split → Split) : (g.modSplit n f).tmovs = g.tmovs := rfl
@[simp] theorem Group.modSplit_unacked (g : Group) (n : Nat) (f : Split → Split) : (g.modSplit n f).unacked = g.unacked := rfl
@[simp] theorem Group.modSplit_relSig (g : Group) (n : Nat) (f : Split → Split) : (g.modSplit n f).relSig = g.relSig := rfl
@[simp] theorem Group.modSplit_acqSig (g : Group) (n : Nat) (f : Split → Split) : (g.modSplit n f).acqSig = g.acqSig := rfl
@[simp] theorem Group.modSplit_relPending (g : Group) (n : Nat) (f : Split → Split) : (g.modSplit n f).relPending = g.relPending := rfl
@[simp] theorem Group.modSplit_efaults (g : Group) (n : Nat) (f : Split → Split) : (g.modSplit n f).efaults = g.efaults := rfl
@[simp] theorem Group.modSplit_lastBar (g : Group) (n : Nat) (f : Split → Split) : (g.modSplit n f).lastBar = g.lastBar := rfl
@[simp] theorem Group.modSplit_async (g : Group) (n : Nat) (f : Split → Split) : (g.modSplit n f).async = g.async := rfl
@[simp] theorem Group.modSplit_step (g : Group) (n : Nat) (f : Split → Split) : (g.modSplit n f).step = g.step := rfl
@[simp] theorem Group.modSplit_yielded (g : Group) (n : Nat) (f : Split → Split) : (g.modSplit n f).yielded = g.yielded := rfl
@[simp] theorem Group.modSplit_deadline (g : Group) (n : Nat) (f : Split → Split) : (g.modSplit n f).deadline = g.deadline := rfl
@[simp] theorem Group.modSplit_preempting (g : Group) (n : Nat) (f : Split → Split) : (g.modSplit n f).preempting = g.preempting := rfl
@[simp] theorem Group.modSplit_restart (g : Group) (n : Nat) (f : Split → Split) : (g.modSplit n f).restart = g.restart := rfl
@[simp] theorem Group.modSplit_ended (g : Group) (n : Nat) (f : Split → Split) : (g.modSplit n f).ended = g.ended := rfl

@[simp] theorem Group.dst_slot (g : Group) (d : BitVec 6) (m : Mask) (f : Nat → Word) :
    (g.dst d m f).slot = g.slot := by unfold Group.dst; split <;> rfl
@[simp] theorem Group.dst64_slot (g : Group) (d : BitVec 6) (m : Mask) (f : Nat → DWord) :
    (g.dst64 d m f).slot = g.slot := by unfold Group.dst64; split <;> rfl
@[simp] theorem Group.dst_splits (g : Group) (d : BitVec 6) (m : Mask) (f : Nat → Word) :
    (g.dst d m f).splits = g.splits := by unfold Group.dst; split <;> rfl
@[simp] theorem Group.dst64_splits (g : Group) (d : BitVec 6) (m : Mask) (f : Nat → DWord) :
    (g.dst64 d m f).splits = g.splits := by unfold Group.dst64; split <;> rfl
@[simp] theorem Group.dst_k (g : Group) (d : BitVec 6) (m : Mask) (f : Nat → Word) :
    (g.dst d m f).k = g.k := by unfold Group.dst; split <;> rfl
@[simp] theorem Group.dst64_k (g : Group) (d : BitVec 6) (m : Mask) (f : Nat → DWord) :
    (g.dst64 d m f).k = g.k := by unfold Group.dst64; split <;> rfl
@[simp] theorem Group.dst_x (g : Group) (d : BitVec 6) (m : Mask) (f : Nat → Word) :
    (g.dst d m f).x = g.x := by unfold Group.dst; split <;> rfl
@[simp] theorem Group.dst64_x (g : Group) (d : BitVec 6) (m : Mask) (f : Nat → DWord) :
    (g.dst64 d m f).x = g.x := by unfold Group.dst64; split <;> rfl
@[simp] theorem Group.dst_flags (g : Group) (d : BitVec 6) (m : Mask) (f : Nat → Word) :
    (g.dst d m f).flags = g.flags := by unfold Group.dst; split <;> rfl
@[simp] theorem Group.dst64_flags (g : Group) (d : BitVec 6) (m : Mask) (f : Nat → DWord) :
    (g.dst64 d m f).flags = g.flags := by unfold Group.dst64; split <;> rfl
@[simp] theorem Group.dst_vb (g : Group) (d : BitVec 6) (m : Mask) (f : Nat → Word) :
    (g.dst d m f).vb = g.vb := by unfold Group.dst; split <;> rfl
@[simp] theorem Group.dst64_vb (g : Group) (d : BitVec 6) (m : Mask) (f : Nat → DWord) :
    (g.dst64 d m f).vb = g.vb := by unfold Group.dst64; split <;> rfl
@[simp] theorem Group.dst_regcnt (g : Group) (d : BitVec 6) (m : Mask) (f : Nat → Word) :
    (g.dst d m f).regcnt = g.regcnt := by unfold Group.dst; split <;> rfl
@[simp] theorem Group.dst64_regcnt (g : Group) (d : BitVec 6) (m : Mask) (f : Nat → DWord) :
    (g.dst64 d m f).regcnt = g.regcnt := by unfold Group.dst64; split <;> rfl
@[simp] theorem Group.dst_rgncnt (g : Group) (d : BitVec 6) (m : Mask) (f : Nat → Word) :
    (g.dst d m f).rgncnt = g.rgncnt := by unfold Group.dst; split <;> rfl
@[simp] theorem Group.dst64_rgncnt (g : Group) (d : BitVec 6) (m : Mask) (f : Nat → DWord) :
    (g.dst64 d m f).rgncnt = g.rgncnt := by unfold Group.dst64; split <;> rfl
@[simp] theorem Group.dst_rgnpc (g : Group) (d : BitVec 6) (m : Mask) (f : Nat → Word) :
    (g.dst d m f).rgnpc = g.rgnpc := by unfold Group.dst; split <;> rfl
@[simp] theorem Group.dst64_rgnpc (g : Group) (d : BitVec 6) (m : Mask) (f : Nat → DWord) :
    (g.dst64 d m f).rgnpc = g.rgnpc := by unfold Group.dst64; split <;> rfl
@[simp] theorem Group.dst_rgnOpen (g : Group) (d : BitVec 6) (m : Mask) (f : Nat → Word) :
    (g.dst d m f).rgnOpen = g.rgnOpen := by unfold Group.dst; split <;> rfl
@[simp] theorem Group.dst64_rgnOpen (g : Group) (d : BitVec 6) (m : Mask) (f : Nat → DWord) :
    (g.dst64 d m f).rgnOpen = g.rgnOpen := by unfold Group.dst64; split <;> rfl
@[simp] theorem Group.dst_level (g : Group) (d : BitVec 6) (m : Mask) (f : Nat → Word) :
    (g.dst d m f).level = g.level := by unfold Group.dst; split <;> rfl
@[simp] theorem Group.dst64_level (g : Group) (d : BitVec 6) (m : Mask) (f : Nat → DWord) :
    (g.dst64 d m f).level = g.level := by unfold Group.dst64; split <;> rfl
@[simp] theorem Group.dst_debug (g : Group) (d : BitVec 6) (m : Mask) (f : Nat → Word) :
    (g.dst d m f).debug = g.debug := by unfold Group.dst; split <;> rfl
@[simp] theorem Group.dst64_debug (g : Group) (d : BitVec 6) (m : Mask) (f : Nat → DWord) :
    (g.dst64 d m f).debug = g.debug := by unfold Group.dst64; split <;> rfl
@[simp] theorem Group.dst_frames (g : Group) (d : BitVec 6) (m : Mask) (f : Nat → Word) :
    (g.dst d m f).frames = g.frames := by unfold Group.dst; split <;> rfl
@[simp] theorem Group.dst64_frames (g : Group) (d : BitVec 6) (m : Mask) (f : Nat → DWord) :
    (g.dst64 d m f).frames = g.frames := by unfold Group.dst64; split <;> rfl
@[simp] theorem Group.dst_trap (g : Group) (d : BitVec 6) (m : Mask) (f : Nat → Word) :
    (g.dst d m f).trap = g.trap := by unfold Group.dst; split <;> rfl
@[simp] theorem Group.dst64_trap (g : Group) (d : BitVec 6) (m : Mask) (f : Nat → DWord) :
    (g.dst64 d m f).trap = g.trap := by unfold Group.dst64; split <;> rfl
@[simp] theorem Group.dst_gates (g : Group) (d : BitVec 6) (m : Mask) (f : Nat → Word) :
    (g.dst d m f).gates = g.gates := by unfold Group.dst; split <;> rfl
@[simp] theorem Group.dst64_gates (g : Group) (d : BitVec 6) (m : Mask) (f : Nat → DWord) :
    (g.dst64 d m f).gates = g.gates := by unfold Group.dst64; split <;> rfl
@[simp] theorem Group.dst_gatestat (g : Group) (d : BitVec 6) (m : Mask) (f : Nat → Word) :
    (g.dst d m f).gatestat = g.gatestat := by unfold Group.dst; split <;> rfl
@[simp] theorem Group.dst64_gatestat (g : Group) (d : BitVec 6) (m : Mask) (f : Nat → DWord) :
    (g.dst64 d m f).gatestat = g.gatestat := by unfold Group.dst64; split <;> rfl
@[simp] theorem Group.dst_ctx (g : Group) (d : BitVec 6) (m : Mask) (f : Nat → Word) :
    (g.dst d m f).ctx = g.ctx := by unfold Group.dst; split <;> rfl
@[simp] theorem Group.dst64_ctx (g : Group) (d : BitVec 6) (m : Mask) (f : Nat → DWord) :
    (g.dst64 d m f).ctx = g.ctx := by unfold Group.dst64; split <;> rfl
@[simp] theorem Group.dst_calleeScr (g : Group) (d : BitVec 6) (m : Mask) (f : Nat → Word) :
    (g.dst d m f).calleeScr = g.calleeScr := by unfold Group.dst; split <;> rfl
@[simp] theorem Group.dst64_calleeScr (g : Group) (d : BitVec 6) (m : Mask) (f : Nat → DWord) :
    (g.dst64 d m f).calleeScr = g.calleeScr := by unfold Group.dst64; split <;> rfl
@[simp] theorem Group.dst_calleeSize (g : Group) (d : BitVec 6) (m : Mask) (f : Nat → Word) :
    (g.dst d m f).calleeSize = g.calleeSize := by unfold Group.dst; split <;> rfl
@[simp] theorem Group.dst64_calleeSize (g : Group) (d : BitVec 6) (m : Mask) (f : Nat → DWord) :
    (g.dst64 d m f).calleeSize = g.calleeSize := by unfold Group.dst64; split <;> rfl
@[simp] theorem Group.dst_latches (g : Group) (d : BitVec 6) (m : Mask) (f : Nat → Word) :
    (g.dst d m f).latches = g.latches := by unfold Group.dst; split <;> rfl
@[simp] theorem Group.dst64_latches (g : Group) (d : BitVec 6) (m : Mask) (f : Nat → DWord) :
    (g.dst64 d m f).latches = g.latches := by unfold Group.dst64; split <;> rfl
@[simp] theorem Group.dst_mq (g : Group) (d : BitVec 6) (m : Mask) (f : Nat → Word) :
    (g.dst d m f).mq = g.mq := by unfold Group.dst; split <;> rfl
@[simp] theorem Group.dst64_mq (g : Group) (d : BitVec 6) (m : Mask) (f : Nat → DWord) :
    (g.dst64 d m f).mq = g.mq := by unfold Group.dst64; split <;> rfl
@[simp] theorem Group.dst_batches (g : Group) (d : BitVec 6) (m : Mask) (f : Nat → Word) :
    (g.dst d m f).batches = g.batches := by unfold Group.dst; split <;> rfl
@[simp] theorem Group.dst64_batches (g : Group) (d : BitVec 6) (m : Mask) (f : Nat → DWord) :
    (g.dst64 d m f).batches = g.batches := by unfold Group.dst64; split <;> rfl
@[simp] theorem Group.dst_nextBatch (g : Group) (d : BitVec 6) (m : Mask) (f : Nat → Word) :
    (g.dst d m f).nextBatch = g.nextBatch := by unfold Group.dst; split <;> rfl
@[simp] theorem Group.dst64_nextBatch (g : Group) (d : BitVec 6) (m : Mask) (f : Nat → DWord) :
    (g.dst64 d m f).nextBatch = g.nextBatch := by unfold Group.dst64; split <;> rfl
@[simp] theorem Group.dst_loads (g : Group) (d : BitVec 6) (m : Mask) (f : Nat → Word) :
    (g.dst d m f).loads = g.loads := by unfold Group.dst; split <;> rfl
@[simp] theorem Group.dst64_loads (g : Group) (d : BitVec 6) (m : Mask) (f : Nat → DWord) :
    (g.dst64 d m f).loads = g.loads := by unfold Group.dst64; split <;> rfl
@[simp] theorem Group.dst_tmovs (g : Group) (d : BitVec 6) (m : Mask) (f : Nat → Word) :
    (g.dst d m f).tmovs = g.tmovs := by unfold Group.dst; split <;> rfl
@[simp] theorem Group.dst64_tmovs (g : Group) (d : BitVec 6) (m : Mask) (f : Nat → DWord) :
    (g.dst64 d m f).tmovs = g.tmovs := by unfold Group.dst64; split <;> rfl
@[simp] theorem Group.dst_unacked (g : Group) (d : BitVec 6) (m : Mask) (f : Nat → Word) :
    (g.dst d m f).unacked = g.unacked := by unfold Group.dst; split <;> rfl
@[simp] theorem Group.dst64_unacked (g : Group) (d : BitVec 6) (m : Mask) (f : Nat → DWord) :
    (g.dst64 d m f).unacked = g.unacked := by unfold Group.dst64; split <;> rfl
@[simp] theorem Group.dst_relSig (g : Group) (d : BitVec 6) (m : Mask) (f : Nat → Word) :
    (g.dst d m f).relSig = g.relSig := by unfold Group.dst; split <;> rfl
@[simp] theorem Group.dst64_relSig (g : Group) (d : BitVec 6) (m : Mask) (f : Nat → DWord) :
    (g.dst64 d m f).relSig = g.relSig := by unfold Group.dst64; split <;> rfl
@[simp] theorem Group.dst_acqSig (g : Group) (d : BitVec 6) (m : Mask) (f : Nat → Word) :
    (g.dst d m f).acqSig = g.acqSig := by unfold Group.dst; split <;> rfl
@[simp] theorem Group.dst64_acqSig (g : Group) (d : BitVec 6) (m : Mask) (f : Nat → DWord) :
    (g.dst64 d m f).acqSig = g.acqSig := by unfold Group.dst64; split <;> rfl
@[simp] theorem Group.dst_relPending (g : Group) (d : BitVec 6) (m : Mask) (f : Nat → Word) :
    (g.dst d m f).relPending = g.relPending := by unfold Group.dst; split <;> rfl
@[simp] theorem Group.dst64_relPending (g : Group) (d : BitVec 6) (m : Mask) (f : Nat → DWord) :
    (g.dst64 d m f).relPending = g.relPending := by unfold Group.dst64; split <;> rfl
@[simp] theorem Group.dst_efaults (g : Group) (d : BitVec 6) (m : Mask) (f : Nat → Word) :
    (g.dst d m f).efaults = g.efaults := by unfold Group.dst; split <;> rfl
@[simp] theorem Group.dst64_efaults (g : Group) (d : BitVec 6) (m : Mask) (f : Nat → DWord) :
    (g.dst64 d m f).efaults = g.efaults := by unfold Group.dst64; split <;> rfl
@[simp] theorem Group.dst_lastBar (g : Group) (d : BitVec 6) (m : Mask) (f : Nat → Word) :
    (g.dst d m f).lastBar = g.lastBar := by unfold Group.dst; split <;> rfl
@[simp] theorem Group.dst64_lastBar (g : Group) (d : BitVec 6) (m : Mask) (f : Nat → DWord) :
    (g.dst64 d m f).lastBar = g.lastBar := by unfold Group.dst64; split <;> rfl
@[simp] theorem Group.dst_async (g : Group) (d : BitVec 6) (m : Mask) (f : Nat → Word) :
    (g.dst d m f).async = g.async := by unfold Group.dst; split <;> rfl
@[simp] theorem Group.dst64_async (g : Group) (d : BitVec 6) (m : Mask) (f : Nat → DWord) :
    (g.dst64 d m f).async = g.async := by unfold Group.dst64; split <;> rfl
@[simp] theorem Group.dst_step (g : Group) (d : BitVec 6) (m : Mask) (f : Nat → Word) :
    (g.dst d m f).step = g.step := by unfold Group.dst; split <;> rfl
@[simp] theorem Group.dst64_step (g : Group) (d : BitVec 6) (m : Mask) (f : Nat → DWord) :
    (g.dst64 d m f).step = g.step := by unfold Group.dst64; split <;> rfl
@[simp] theorem Group.dst_yielded (g : Group) (d : BitVec 6) (m : Mask) (f : Nat → Word) :
    (g.dst d m f).yielded = g.yielded := by unfold Group.dst; split <;> rfl
@[simp] theorem Group.dst64_yielded (g : Group) (d : BitVec 6) (m : Mask) (f : Nat → DWord) :
    (g.dst64 d m f).yielded = g.yielded := by unfold Group.dst64; split <;> rfl
@[simp] theorem Group.dst_deadline (g : Group) (d : BitVec 6) (m : Mask) (f : Nat → Word) :
    (g.dst d m f).deadline = g.deadline := by unfold Group.dst; split <;> rfl
@[simp] theorem Group.dst64_deadline (g : Group) (d : BitVec 6) (m : Mask) (f : Nat → DWord) :
    (g.dst64 d m f).deadline = g.deadline := by unfold Group.dst64; split <;> rfl
@[simp] theorem Group.dst_preempting (g : Group) (d : BitVec 6) (m : Mask) (f : Nat → Word) :
    (g.dst d m f).preempting = g.preempting := by unfold Group.dst; split <;> rfl
@[simp] theorem Group.dst64_preempting (g : Group) (d : BitVec 6) (m : Mask) (f : Nat → DWord) :
    (g.dst64 d m f).preempting = g.preempting := by unfold Group.dst64; split <;> rfl
@[simp] theorem Group.dst_restart (g : Group) (d : BitVec 6) (m : Mask) (f : Nat → Word) :
    (g.dst d m f).restart = g.restart := by unfold Group.dst; split <;> rfl
@[simp] theorem Group.dst64_restart (g : Group) (d : BitVec 6) (m : Mask) (f : Nat → DWord) :
    (g.dst64 d m f).restart = g.restart := by unfold Group.dst64; split <;> rfl
@[simp] theorem Group.dst_ended (g : Group) (d : BitVec 6) (m : Mask) (f : Nat → Word) :
    (g.dst d m f).ended = g.ended := by unfold Group.dst; split <;> rfl
@[simp] theorem Group.dst64_ended (g : Group) (d : BitVec 6) (m : Mask) (f : Nat → DWord) :
    (g.dst64 d m f).ended = g.ended := by unfold Group.dst64; split <;> rfl

end Sys2Proof.Machine
end

