-- ==== Sys2Proof/Laws/Access.lean ====
section
/-! SUPPORT. Reading after writing: lists changed at one place, blocks, groups, splits and dies, and the registers
of a group. -/

namespace Sys2Proof.Laws

open Sys2Proof Sys2Proof.Machine

@[simp] theorem length_modAt {α : Type} (l : List α) (i : Nat) (f : α → α) : (modAt l i f).length = l.length := by
  unfold modAt; split <;> simp

theorem get_modAt {α : Type} (l : List α) (i j : Nat) (f : α → α) :
    (modAt l i f)[j]? = if i = j then l[j]?.map f else l[j]? := by
  unfold modAt
  split
  · rename_i a h
    rcases eq_or_ne i j with rfl | hij
    · obtain ⟨hi, rfl⟩ := List.getElem?_eq_some_iff.1 h
      simp [hi]
    · simp [List.getElem?_set_ne hij, hij]
  · rename_i h
    split
    · rename_i hij
      subst hij
      simp [h]
    · rfl

theorem getD_modAt {α : Type} (l : List α) (i j : Nat) (f : α → α) (d : α) (h : j < l.length) :
    (modAt l i f).getD j d = if i = j then f (l.getD j d) else l.getD j d := by
  simp only [List.getD_eq_getElem?_getD, get_modAt]
  split <;> simp [h]

theorem block_modBlock (s : State) (b c : Nat) (f : Block → Block) :
    (s.modBlock b f).blocks[c]? = if b = c then s.blocks[c]?.map f else s.blocks[c]? :=
  get_modAt _ _ _ _

theorem group_modGroup (s : State) (r q : GRef) (f : Group → Group) :
    (s.modGroup r f).group? q = if r = q then (s.group? q).map f else s.group? q := by
  obtain ⟨rb, rg⟩ := r
  obtain ⟨qb, qg⟩ := q
  simp only [State.group?, State.modGroup, State.modBlock, get_modAt, GRef.mk.injEq]
  rcases eq_or_ne rb qb with rfl | hb
  · cases s.blocks[rb]? with
    | none => simp
    | some b =>
      simp only [if_pos, Option.map_some, Option.bind_some, Block.modGroup, get_modAt, true_and]
  · simp [hb]

theorem group_putGroup (s : State) (r : GRef) (g k : Group) (h : s.group? r = some k) :
    (s.putGroup r g).group? r = some g := by
  simp [State.putGroup, group_modGroup, h]

theorem group_modBlock_ne (s : State) (b : Nat) (q : GRef) (f : Block → Block) (h : b ≠ q.blk) :
    (s.modBlock b f).group? q = s.group? q := by
  simp [State.group?, block_modBlock, h]

theorem split_modSplit (s : State) (r : SRef) (f : Split → Split) (g : Group) (h : s.group? r.gref = some g)
    (hs : r.sp < g.splits.length) : (s.modSplit r f).split? r = (s.split? r).map f := by
  have e : (⟨r.blk, r.grp⟩ : GRef) = r.gref := rfl
  have hg : (s.modSplit r f).group? r.gref = some (g.modSplit r.sp f) := by
    simp [State.modSplit, group_modGroup, h]
  simp only [State.split?, e, h, hg, Option.bind_some, Group.modSplit]
  rw [getD_modAt _ _ _ _ _ hs, if_pos rfl]

theorem die_modDie (s : State) (d e : Nat) (f : Die → Die) (h : e < s.dies.length) :
    (s.modDie d f).die e = if d = e then f (s.die e) else s.die e :=
  getD_modAt _ _ _ _ _ h

/-! ## Registers -/

theorem sGet_sSet (g : Group) (n m : Nat) (w : Word) (h : m < g.s.length) :
    (g.sSet n w).sGet m = if n = m then w else g.sGet m := by
  simp only [Group.sGet, Group.sSet, List.getD_eq_getElem?_getD, List.getElem?_set]
  split
  · rename_i e
    subst e
    simp [h]
  · rfl

theorem kGet_kSet (g : Group) (n m : Nat) (a v : Mask) (hn : 1 ≤ n) (hm : 1 ≤ m) (h : m ≤ g.k.length) :
    (g.kSet n a v).kGet m = if n = m then (g.kGet m &&& ~~~a) ||| (v &&& a) else g.kGet m := by
  have e : (m == 0) = false := by simp; omega
  have hl : m - 1 < g.k.length := by omega
  simp only [Group.kGet, Group.kSet, e, Bool.false_eq_true, if_false, getD_modAt _ _ _ _ _ hl]
  rcases eq_or_ne n m with rfl | hne
  · simp
  · have : n - 1 ≠ m - 1 := by omega
    simp [hne, this]

/-- A v register after a write of some of its lanes (R42, R67). -/
theorem vGet_vSet (g : Group) (n m L : Nat) (a : Mask) (f : Nat → Word) (h : m < g.v.length) (hL : L < 32) :
    (g.vSet n a f).vGet m L = if n = m ∧ a.getLsbD L = true then f L else g.vGet m L := by
  simp only [Group.vGet, Group.vSet, putRow, getD_modAt _ _ _ _ _ h]
  rcases eq_or_ne n m with rfl | hne
  · have e : (lanes.map (fun j => if a.getLsbD j = true then f j else (g.v.getD n []).getD j 0)).getD L 0 =
        if a.getLsbD L = true then f L else (g.v.getD n []).getD L 0 := by
      have r : lanes = List.range 32 := rfl
      rw [r, List.getD_eq_getElem?_getD, List.getElem?_map, List.getElem?_range hL]
      rfl
    simp only [if_true, true_and]
    exact e
  · simp [hne]

/-! ## The return from a handler -/

/-- A resume puts the level down by one and gives back FLAGS, the tables and the trap registers that the frame
keeps (R367, R370). -/
theorem resume_frame (g : Group) (f : HFrame) (fs : List HFrame) (pc : DWord) (m : Mask) (h : g.frames = f :: fs) :
    (g.resume pc m).level = g.level - 1 ∧ (g.resume pc m).flags = f.flags ∧ (g.resume pc m).frames = fs ∧
    (g.resume pc m).debug = f.debug ∧ (g.resume pc m).trap = f.regs ∧ (g.resume pc m).ctx.htab = f.htab ∧
    (g.resume pc m).ctx.hcount = f.hcount ∧ (g.resume pc m).v = g.v := by
  simp only [Group.resume, h]
  cases f.pend with
  | none => simp [Group.modSplit, Group.kSet]
  | some u =>
    obtain ⟨a, p⟩ := u
    by_cases c : m = 0#32 <;> by_cases c' : a = pcOf pc <;>
      simp [c, c', Group.modSplit, Group.kSet, Group.endPending]

/-- Without a frame a resume changes nothing. -/
theorem resume_none (g : Group) (pc : DWord) (m : Mask) (h : g.frames = []) : g.resume pc m = g := by
  simp [Group.resume, h]

end Sys2Proof.Laws
end

