-- ==== Sys2Proof/Laws/Issue.lean ====
section
/-! SUPPORT. What the issue of a unit answers, by what its body answers (04 R83): one lemma per answer, which
later proofs cite instead of unfolding `State.issue`. -/

namespace Sys2Proof.Laws

open Sys2Proof Sys2Proof.Machine Sys2Proof.Safety

variable {s t : State} {u : Iss → Issue} {body : Iss → Res} {i : Iss}

theorem issue_eq (h : Ready s u i) (hb : ∀ t, body i ≠ .done t) (hm : ∀ t, body i ≠ .moved t)
    (hw : ∀ w t, body i ≠ .block w t) :
    s.issue u body = s.finish i (body i) ((u i).mem && (u i).sig.dst) := by
  have h1 := Option.isNone_iff_eq_none.1 h.checks
  have h2 := Option.isNone_iff_eq_none.1 h.waits
  simp only [State.issue, h.issuing, h1, h2]

/-- A unit whose body is complete. -/
theorem issue_done (h : Ready s u i) (hb : body i = .done t) (hp : Populated (ended s i (u i) t)) :
    s.issue u body = .next (ended s i (u i) t) := by
  have h1 := Option.isNone_iff_eq_none.1 h.checks
  have h2 := Option.isNone_iff_eq_none.1 h.waits
  simp only [State.issue, h.issuing, h1, h2, hb, State.finish, State.settleRes]
  simp only [Populated, ended, writesV] at hp ⊢
  simp only [hp.1, hp.2]

/-- A unit whose body has placed its split. -/
theorem issue_moved (h : Ready s u i) (hb : body i = .moved t) (hp : Populated (moved i (u i) t)) :
    s.issue u body = .next (moved i (u i) t) := by
  have h1 := Option.isNone_iff_eq_none.1 h.checks
  have h2 := Option.isNone_iff_eq_none.1 h.waits
  simp only [State.issue, h.issuing, h1, h2, hb, State.finish, State.settleRes]
  simp only [Populated, moved] at hp ⊢
  simp only [hp.1, hp.2]

/-- A unit whose body stands at a blocking point. -/
theorem issue_block {w : Wake} (h : Ready s u i) (hb : body i = .block w t)
    (hp : Populated (waiting s i w t)) : s.issue u body = .next (waiting s i w t) := by
  have h1 := Option.isNone_iff_eq_none.1 h.checks
  have h2 := Option.isNone_iff_eq_none.1 h.waits
  simp only [State.issue, h.issuing, h1, h2, hb, State.finish, State.settleRes]
  simp only [Populated, waiting] at hp ⊢
  simp only [hp.1, hp.2]

/-- A unit whose body traps before any effect. -/
theorem issue_trap {q : TrapInfo} (h : Ready s u i) (hb : body i = .trap q)
    (hp : Populated (trapped s i q)) : s.issue u body = .next (trapped s i q) := by
  have h1 := Option.isNone_iff_eq_none.1 h.checks
  have h2 := Option.isNone_iff_eq_none.1 h.waits
  simp only [State.issue, h.issuing, h1, h2, hb, State.finish, State.settleRes]
  simp only [Populated, trapped] at hp ⊢
  simp only [hp.1, hp.2]

/-- A unit that acts on the registers of its group alone. -/
theorem regs_done {f : Iss → Group} (h : Ready s u i)
    (hp : Populated (ended s i (u i) (s.putGroup i.r.gref (f i)))) :
    s.regs u f = .next (ended s i (u i) (s.putGroup i.r.gref (f i))) :=
  issue_done h rfl hp

/-- A unit refused by one of its checks traps with what the check says. -/
theorem issue_refused {q : TrapInfo} (h : s.iss? = some i) (hr : (u i).refuse i = some (.trap q))
    (hp : Populated (trapped s i q)) : s.issue u body = .next (trapped s i q) := by
  simp only [State.issue, h, hr, State.finish, State.settleRes]
  simp only [Populated, trapped] at hp ⊢
  simp only [hp.1, hp.2]

/-- A step of the device that is enabled. -/
theorem stepIf_next {name : String} {ok : Bool} (h : ok = true) (hp : Populated t) :
    stepIf name ok t = .next t := by
  simp [stepIf, h, hp.1, hp.2]

/-- A step of the device that is not enabled. -/
theorem stepIf_off {name : String} {ok : Bool} (h : ok = false) :
    stepIf name ok t = .fault (.notEnabled name) := by
  simp [stepIf, h]

end Sys2Proof.Laws
end

