-- ==== Sys2Proof/Laws/Memory.lean ====
section
/-! SUPPORT. Every operation on a byte memory keeps its canonical form, and the memories after reset have it. -/

namespace Sys2Proof.Laws

open Sys2Proof Sys2Proof.Machine

theorem wfFrom_cons (lo : Option Nat) (c : Host.Cell) (cs : List Host.Cell) :
    Memory.wfFrom lo (c :: cs) = true ↔ (∀ l, lo = some l → l < c.1) ∧ c.2 ≠ Memory.default ∧
      Memory.wfFrom (some c.1) cs = true := by
  cases lo <;> simp [Memory.wfFrom, and_assoc]

/-- A lower bound may be lowered. -/
theorem wfFrom_mono {lo lo' : Option Nat} {m : List Host.Cell} (h : Memory.wfFrom lo m = true)
    (hl : ∀ l, lo' = some l → ∃ k, lo = some k ∧ l ≤ k) : Memory.wfFrom lo' m = true := by
  cases m with
  | nil => rfl
  | cons c cs =>
    rw [wfFrom_cons] at h ⊢
    refine ⟨fun l e => ?_, h.2⟩
    obtain ⟨k, hk, hle⟩ := hl l e
    exact Nat.lt_of_le_of_lt hle (h.1 k hk)

theorem wfFrom_set {m : List Host.Cell} {a : Nat} {b : Byte} : ∀ {lo : Option Nat},
    Memory.wfFrom lo m = true → (∀ l, lo = some l → l < a) →
    Memory.wfFrom lo (Memory.set m a b) = true := by
  induction m with
  | nil =>
    intro lo _ hl
    simp only [Memory.set]
    split
    · rfl
    · rename_i hb
      exact (wfFrom_cons _ _ _).2 ⟨hl, by simpa using hb, rfl⟩
  | cons c cs ih =>
    intro lo h hl
    have hc := (wfFrom_cons _ _ _).1 h
    simp only [Memory.set]
    split
    · rename_i e
      have e : c.1 = a := by simpa using e
      split
      · exact wfFrom_mono hc.2.2 (fun l hk => ⟨c.1, rfl, by have := hc.1 l hk; omega⟩)
      · rename_i hb
        exact (wfFrom_cons _ _ _).2 ⟨hl, by simpa using hb, e ▸ hc.2.2⟩
    · split
      · rename_i hlt
        split
        · exact h
        · rename_i hb
          refine (wfFrom_cons _ _ _).2 ⟨hl, by simpa using hb, (wfFrom_cons _ _ _).2 ⟨?_, hc.2⟩⟩
          intro l hk; cases hk; exact hlt
      · rename_i hne hlt
        have hne : c.1 ≠ a := by simpa using hne
        refine (wfFrom_cons _ _ _).2 ⟨hc.1, hc.2.1, ih hc.2.2 ?_⟩
        intro l hk; cases hk; omega

theorem wf_set {m : List Host.Cell} (a : Nat) (b : Byte) (h : Memory.wf m = true) :
    Memory.wf (Memory.set m a b) = true := wfFrom_set h (fun _ e => nomatch e)

theorem wf_write {bs : List Byte} : ∀ {m : List Host.Cell} (a : Nat), Memory.wf m = true →
    Memory.wf (Memory.write m a bs) = true := by
  induction bs with
  | nil => exact fun _ h => h
  | cons b bs ih => exact fun a h => ih (a + 1) (wf_set a b h)

theorem wf_writeMasked {bs : List Byte} {k : BitVec 128} : ∀ {m : List Host.Cell} (a n : Nat),
    Memory.wf m = true → Memory.wf (Memory.writeMasked m a k n bs) = true := by
  induction bs with
  | nil => exact fun _ _ h => h
  | cons b bs ih =>
    intro m a n h
    refine ih a (n + 1) ?_
    split
    · exact wf_set _ _ h
    · exact h

theorem wfFrom_filter {p : Host.Cell → Bool} {m : List Host.Cell} : ∀ {lo : Option Nat},
    Memory.wfFrom lo m = true → Memory.wfFrom lo (m.filter p) = true := by
  induction m with
  | nil => exact fun h => h
  | cons c cs ih =>
    intro lo h
    have hc := (wfFrom_cons _ _ _).1 h
    rw [List.filter_cons]
    split
    · exact (wfFrom_cons _ _ _).2 ⟨hc.1, hc.2.1, ih hc.2.2⟩
    · exact ih (wfFrom_mono hc.2.2 (fun l hk => ⟨c.1, rfl, Nat.le_of_lt (hc.1 l hk)⟩))

theorem wf_filter {p : Host.Cell → Bool} {m : List Host.Cell} (h : Memory.wf m = true) :
    Memory.wf (m.filter p) = true := wfFrom_filter h

theorem wf_below {m : List Host.Cell} (n : Nat) (h : Memory.wf m = true) :
    Memory.wf (Memory.below m n) = true := wf_filter h

/-- The memories after reset. -/
theorem wf_reset : Memory.wf State.reset.dram = true ∧ Memory.wf State.reset.hostMem = true ∧
    Memory.wf State.reset.remote = true := ⟨rfl, rfl, rfl⟩

end Sys2Proof.Laws
end

