-- ==== Sys2Proof/Laws/Keep.lean ====
section
/-! SUPPORT. The operations of the coherence system that write a memory keep its canonical form: the home copy,
recalls, and physical reads and writes. -/

namespace Sys2Proof.Laws

open Sys2Proof Sys2Proof.Machine Sys2Proof.Safety

/-- A state with the same memories keeps the invariant. -/
theorem keep_same {s t : State} (h : MemInv s) (hd : t.dram = s.dram) (hh : t.hostMem = s.hostMem)
    (hr : t.remote = s.remote) : MemInv t := by
  unfold MemInv at *
  rw [hd, hh, hr]
  exact h

/-- What each step of a fold keeps, the fold keeps. -/
theorem keep_fold {α : Type} {f : State → α → State} (hf : ∀ s a, MemInv s → MemInv (f s a)) :
    ∀ (l : List α) (s : State), MemInv s → MemInv (l.foldl f s)
  | [], _, h => h
  | a :: l, s, h => keep_fold hf l _ (hf s a h)

theorem keep_dram {s : State} (h : MemInv s) {m : List Host.Cell} (hm : Memory.wf m = true) :
    MemInv { s with dram := m } := ⟨hm, h.2⟩

theorem keep_hostMem {s : State} (h : MemInv s) {m : List Host.Cell} (hm : Memory.wf m = true) :
    MemInv { s with hostMem := m } := ⟨h.1, hm, h.2.2⟩

theorem keep_remote {s : State} (h : MemInv s) {m : List Host.Cell} (hm : Memory.wf m = true) :
    MemInv { s with remote := m } := ⟨h.1, h.2.1, hm⟩

theorem keep_modDie {s : State} (h : MemInv s) (d : Nat) (f : Die → Die) : MemInv (s.modDie d f) :=
  keep_same h rfl rfl rfl

theorem keep_modCore {s : State} (h : MemInv s) (c : CoreId) (f : Core → Core) : MemInv (s.modCore c f) :=
  keep_same h (by simp) (by simp) (by simp)

theorem keep_hotTouch {s : State} (h : MemInv s) (line : Nat) : MemInv (s.hotTouch line) := by
  unfold State.hotTouch
  split <;> exact h

theorem keep_dramAccess {s : State} (h : MemInv s) (line : Nat) : MemInv (s.dramAccess line) := by
  unfold State.dramAccess
  split
  · exact keep_hotTouch (s := s.unreached _) h line
  · exact keep_hotTouch h line

theorem keep_ask {s : State} (h : MemInv s) (d : Nat) : MemInv (s.ask d) := by
  unfold State.ask
  split <;> exact h

theorem keep_homeTake {s : State} (h : MemInv s) (line : Nat) (data : List Byte) (mask : BitVec 128) :
    MemInv (s.homeTake line data mask) := by
  unfold State.homeTake
  split
  · split
    · exact keep_modDie h _ _
    · exact keep_dram (keep_dramAccess h line) (wf_writeMasked _ _ h.1)
  · exact h

theorem keep_sink {s : State} (h : MemInv s) (d line : Nat) (data : List Byte) (mask : BitVec 128) :
    MemInv (s.sink d line data mask) := by
  unfold State.sink
  split
  · exact keep_modDie h _ _
  · exact keep_homeTake h _ _ _

theorem keep_mapStash {s : State} (h : MemInv s) (c : CoreId) (line : Nat) (f : StashLine → Option StashLine) :
    MemInv (s.mapStash c line f) := keep_same h rfl rfl rfl

theorem keep_recall {s : State} (h : MemInv s) (c : CoreId) (line : Nat) (drop : Bool) :
    MemInv (s.recall c line drop) := by
  have a : ∀ s : State, MemInv s → MemInv (match s.l1? c line with
      | some x => if x.st == Mesi.m then s.sink c.die line x.data x.mask else s
      | none => s) := by
    intro s h
    split
    · split
      · exact keep_sink h _ _ _ _
      · exact h
    · exact h
  have b : ∀ (s : State) (x : StashLine), MemInv s →
      MemInv (if x.st == Mesi.m then s.sink c.die line x.data x.mask else s) := by
    intro s x h
    split
    · exact keep_sink h _ _ _ _
    · exact h
  unfold State.recall
  dsimp only
  split
  · exact keep_mapStash (keep_modCore (keep_fold b _ _ (a s h)) _ _) _ _ _
  · exact keep_mapStash (keep_modCore (keep_fold b _ _ (a s h)) _ _) _ _ _

theorem keep_recallAll {s : State} (h : MemInv s) (d line : Nat) (drop : Bool) (e : Option CoreId) :
    MemInv (s.recallAll d line drop e) :=
  keep_fold (fun _ _ h => keep_recall h _ _ _) _ _ h

theorem keep_recallDie {s : State} (h : MemInv s) (d line : Nat) (drop : Bool) :
    MemInv (s.recallDie d line drop) := keep_modDie (keep_recallAll h d line drop none) _ _

theorem keep_homeRead {s : State} (h : MemInv s) (line : Nat) : MemInv (s.homeRead line).2 := by
  unfold State.homeRead
  split
  · dsimp only
    split
    · exact keep_recallDie (keep_ask h _) _ _ _
    · exact keep_dramAccess (keep_recallDie (keep_ask h _) _ _ _) _
  · exact h

theorem keep_homeWrite {s : State} (h : MemInv s) (line : Nat) (data : List Byte) (mask : BitVec 128) :
    MemInv (s.homeWrite line data mask) := by
  unfold State.homeWrite
  split
  · exact keep_homeTake (keep_recallDie (keep_ask h _) _ _ _) _ _ _
  · exact h

theorem keep_homeClean {s : State} (h : MemInv s) (line : Nat) : MemInv (s.homeClean line) := by
  unfold State.homeClean
  split
  · split
    · split
      · exact h
      · exact keep_modDie (keep_dram (keep_dramAccess h line) (wf_writeMasked _ _ h.1)) _ _
    · exact h
  · exact h

theorem keep_physWriteN : ∀ (n : Nat) {s : State} (pa : Nat) (bs : List Byte), MemInv s →
    MemInv (s.physWriteN pa bs n)
  | 0, _, _, _, h => h
  | n + 1, s, pa, bs, h => by
    unfold State.physWriteN
    split
    · exact h
    · dsimp only
      refine keep_physWriteN n _ _ ?_
      split
      · split
        · exact keep_hostMem h (wf_write _ h.2.1)
        · exact keep_homeWrite h _ _ _
      · exact keep_same h rfl rfl rfl

/-- A write of a control structure keeps every memory in its canonical form. -/
theorem keep_physWrite {s : State} (h : MemInv s) (pa : Nat) (bs : List Byte) : MemInv (s.physWrite pa bs) :=
  keep_physWriteN _ pa bs h

theorem keep_physReadN : ∀ (n : Nat) {s : State} (pa len : Nat), MemInv s → MemInv (s.physReadN pa len n).2
  | 0, _, _, _, h => h
  | n + 1, s, pa, len, h => by
    unfold State.physReadN
    split
    · exact h
    · dsimp only
      refine keep_physReadN n _ _ ?_
      split
      · split
        · exact h
        · exact keep_homeRead h _
      · exact keep_same h rfl rfl rfl

theorem keep_physRead {s : State} (h : MemInv s) (pa len : Nat) : MemInv (s.physRead pa len).2 :=
  keep_physReadN _ pa len h

end Sys2Proof.Laws
end

