-- ==== Sys2Proof/Laws/Words.lean ====
section
/-! SUPPORT. The fields of a packed word are the fields that were packed, and its opcode is the opcode (04 R61,
R62); what a well-formed instruction with a kind says of its kind bits. -/

namespace Sys2Proof.Laws

open Sys2Proof

theorem unR (o : BitVec 8) (x : RF) : unpackR (packR o x) = x := by
  cases x; simp only [unpackR, packR, RF.mk.injEq]
  refine ⟨?_, ?_, ?_, ?_, ?_, ?_⟩ <;>
    (apply BitVec.eq_of_getLsbD_eq; intro i hi; rw [BitVec.getLsbD_extractLsb']
     repeat rw [BitVec.getLsbD_append]
     rw [decide_eq_true hi, Bool.true_and]
     repeat rw [if_neg (by omega)]
     try rw [if_pos (by omega)]
     first | rfl | (congr 1; omega))

theorem unI (o : BitVec 8) (x : IF) : unpackI (packI o x) = x := by
  cases x; simp only [unpackI, packI, IF.mk.injEq]
  refine ⟨?_, ?_, ?_⟩ <;>
    (apply BitVec.eq_of_getLsbD_eq; intro i hi; rw [BitVec.getLsbD_extractLsb']
     repeat rw [BitVec.getLsbD_append]
     rw [decide_eq_true hi, Bool.true_and]
     repeat rw [if_neg (by omega)]
     try rw [if_pos (by omega)]
     first | rfl | (congr 1; omega))

theorem unK (o : BitVec 8) (x : KF) : unpackK (packK o x) = x := by
  cases x; simp only [unpackK, packK, KF.mk.injEq]
  refine ⟨?_, ?_⟩ <;>
    (apply BitVec.eq_of_getLsbD_eq; intro i hi; rw [BitVec.getLsbD_extractLsb']
     repeat rw [BitVec.getLsbD_append]
     rw [decide_eq_true hi, Bool.true_and]
     repeat rw [if_neg (by omega)]
     try rw [if_pos (by omega)]
     first | rfl | (congr 1; omega))

theorem unB (o : BitVec 8) (x : BF) : unpackB (packB o x) = x := by
  cases x; simp only [unpackB, packB, BF.mk.injEq]
  refine ⟨?_, ?_, ?_⟩ <;>
    (apply BitVec.eq_of_getLsbD_eq; intro i hi; rw [BitVec.getLsbD_extractLsb']
     repeat rw [BitVec.getLsbD_append]
     rw [decide_eq_true hi, Bool.true_and]
     repeat rw [if_neg (by omega)]
     try rw [if_pos (by omega)]
     first | rfl | (congr 1; omega))

theorem unM (o : BitVec 8) (x : MF) : unpackM (packM o x) = x := by
  cases x; simp only [unpackM, packM, MF.mk.injEq]
  refine ⟨?_, ?_, ?_, ?_, ?_, ?_, ?_⟩ <;>
    (apply BitVec.eq_of_getLsbD_eq; intro i hi; rw [BitVec.getLsbD_extractLsb']
     repeat rw [BitVec.getLsbD_append]
     rw [decide_eq_true hi, Bool.true_and]
     repeat rw [if_neg (by omega)]
     try rw [if_pos (by omega)]
     first | rfl | (congr 1; omega))

theorem unE (o : BitVec 8) (x : EF) : unpackE (packE o x) = x := by
  cases x; simp only [unpackE, packE, EF.mk.injEq]
  refine ⟨?_, ?_, ?_, ?_⟩ <;>
    (apply BitVec.eq_of_getLsbD_eq; intro i hi; rw [BitVec.getLsbD_extractLsb']
     repeat rw [BitVec.getLsbD_append]
     rw [decide_eq_true hi, Bool.true_and]
     repeat rw [if_neg (by omega)]
     try rw [if_pos (by omega)]
     first | rfl | (congr 1; omega))

theorem opR (o : BitVec 8) (x : RF) : opcodeOf (packR o x) = o.toNat := by
  cases x; unfold opcodeOf packR; congr 1
  apply BitVec.eq_of_getLsbD_eq; intro i hi; rw [BitVec.getLsbD_extractLsb']
  repeat rw [BitVec.getLsbD_append]
  rw [decide_eq_true hi, Bool.true_and]
  repeat rw [if_neg (by omega)]
  congr 1; omega

theorem opI (o : BitVec 8) (x : IF) : opcodeOf (packI o x) = o.toNat := by
  cases x; unfold opcodeOf packI; congr 1
  apply BitVec.eq_of_getLsbD_eq; intro i hi; rw [BitVec.getLsbD_extractLsb']
  repeat rw [BitVec.getLsbD_append]
  rw [decide_eq_true hi, Bool.true_and]
  repeat rw [if_neg (by omega)]
  congr 1; omega

theorem opK (o : BitVec 8) (x : KF) : opcodeOf (packK o x) = o.toNat := by
  cases x; unfold opcodeOf packK; congr 1
  apply BitVec.eq_of_getLsbD_eq; intro i hi; rw [BitVec.getLsbD_extractLsb']
  repeat rw [BitVec.getLsbD_append]
  rw [decide_eq_true hi, Bool.true_and]
  repeat rw [if_neg (by omega)]
  congr 1; omega

theorem opB (o : BitVec 8) (x : BF) : opcodeOf (packB o x) = o.toNat := by
  cases x; unfold opcodeOf packB; congr 1
  apply BitVec.eq_of_getLsbD_eq; intro i hi; rw [BitVec.getLsbD_extractLsb']
  repeat rw [BitVec.getLsbD_append]
  rw [decide_eq_true hi, Bool.true_and]
  repeat rw [if_neg (by omega)]
  congr 1; omega

theorem opM (o : BitVec 8) (x : MF) : opcodeOf (packM o x) = o.toNat := by
  cases x; unfold opcodeOf packM; congr 1
  apply BitVec.eq_of_getLsbD_eq; intro i hi; rw [BitVec.getLsbD_extractLsb']
  repeat rw [BitVec.getLsbD_append]
  rw [decide_eq_true hi, Bool.true_and]
  repeat rw [if_neg (by omega)]
  congr 1; omega

theorem opE (o : BitVec 8) (x : EF) : opcodeOf (packE o x) = o.toNat := by
  cases x; unfold opcodeOf packE; congr 1
  apply BitVec.eq_of_getLsbD_eq; intro i hi; rw [BitVec.getLsbD_extractLsb']
  repeat rw [BitVec.getLsbD_append]
  rw [decide_eq_true hi, Bool.true_and]
  repeat rw [if_neg (by omega)]
  congr 1; omega

/-- An opcode without kinds decodes to its one instruction, with the fields of its format. -/
theorem ofR {o : BitVec 8} {f : RF → Instr} (h : ∀ w, decodeOp o.toNat w = .ok (f (unpackR w))) (x : RF) :
    decodeWord (packR o x) = .ok (f x) := by rw [decodeWord, opR, h, unR]
theorem ofI {o : BitVec 8} {f : IF → Instr} (h : ∀ w, decodeOp o.toNat w = .ok (f (unpackI w))) (x : IF) :
    decodeWord (packI o x) = .ok (f x) := by rw [decodeWord, opI, h, unI]
theorem ofK {o : BitVec 8} {f : KF → Instr} (h : ∀ w, decodeOp o.toNat w = .ok (f (unpackK w))) (x : KF) :
    decodeWord (packK o x) = .ok (f x) := by rw [decodeWord, opK, h, unK]
theorem ofB {o : BitVec 8} {f : BF → Instr} (h : ∀ w, decodeOp o.toNat w = .ok (f (unpackB w))) (x : BF) :
    decodeWord (packB o x) = .ok (f x) := by rw [decodeWord, opB, h, unB]
theorem ofM {o : BitVec 8} {f : MF → Instr} (h : ∀ w, decodeOp o.toNat w = .ok (f (unpackM w))) (x : MF) :
    decodeWord (packM o x) = .ok (f x) := by rw [decodeWord, opM, h, unM]
theorem ofE {o : BitVec 8} {f : EF → Instr} (h : ∀ w, decodeOp o.toNat w = .ok (f (unpackE w))) (x : EF) :
    decodeWord (packE o x) = .ok (f x) := by rw [decodeWord, opE, h, unE]

/-- An opcode with kinds decodes to the instruction whose kind bits stand in the word. -/
theorem kindR {o : BitVec 8} {f : RF → Instr} {x : RF}
    (h : ∀ w, unpackR w = x → decodeOp o.toNat w = .ok (f x)) : decodeWord (packR o x) = .ok (f x) := by
  rw [decodeWord, opR, h _ (unR o x)]
theorem kindE {o : BitVec 8} {f : EF → Instr} {x : EF}
    (h : ∀ w, unpackE w = x → decodeOp o.toNat w = .ok (f x)) : decodeWord (packE o x) = .ok (f x) := by
  rw [decodeWord, opE, h _ (unE o x)]

/-- Kind bits of one value have no other. -/
theorem kindNe {α : Type} [DecidableEq α] {v a b : α} (h : (v == a) = true) (n : a ≠ b) : ¬ (v == b) = true :=
  fun k => n ((eq_of_beq h).symm.trans (eq_of_beq k))

/-- A well-formed instruction keeps the conditions of its description on b and on its other fields. -/
theorem kinds {i : Instr} (h : WellFormed i = true) :
    (Machine.sigOf i).bR.ok Machine.Limits.max (Machine.sigOf i).b = true ∧ (Machine.sigOf i).other = true := by
  simp only [WellFormed, Machine.OpSig.bad, Option.isNone_iff_eq_none] at h
  revert h
  repeat' split
  all_goals simp_all

end Sys2Proof.Laws
end

