-- ==== Sys2Proof/Laws/PerInstr.lean ====
section
/-! SUPPORT. For every instruction: the word that the encoder gives for it, where it is well formed, decodes to
it (04 R62, R80). -/

namespace Sys2Proof.Laws.Encoding

open Sys2Proof Sys2Proof.Laws

/-- The word of a well-formed instruction decodes to it. -/
def Statement (i : Instr) : Prop :=
  ∀ w : Word, WellFormed i = true → encode i = some w → decodeWord w = .ok i
theorem iadd32 (x : RF) : Statement (.iadd32 x) :=
  fun _ _ h => Option.some.inj h ▸ ofR (fun _ => rfl) x
theorem iadd64 (x : RF) : Statement (.iadd64 x) :=
  fun _ _ h => Option.some.inj h ▸ ofR (fun _ => rfl) x
theorem isub32 (x : RF) : Statement (.isub32 x) :=
  fun _ _ h => Option.some.inj h ▸ ofR (fun _ => rfl) x
theorem isub64 (x : RF) : Statement (.isub64 x) :=
  fun _ _ h => Option.some.inj h ▸ ofR (fun _ => rfl) x
theorem iaddc32 (x : RF) : Statement (.iaddc32 x) :=
  fun _ _ h => Option.some.inj h ▸ ofR (fun _ => rfl) x
theorem isubb32 (x : RF) : Statement (.isubb32 x) :=
  fun _ _ h => Option.some.inj h ▸ ofR (fun _ => rfl) x
theorem imul32 (x : RF) : Statement (.imul32 x) :=
  fun _ _ h => Option.some.inj h ▸ ofR (fun _ => rfl) x
theorem imul64 (x : RF) : Statement (.imul64 x) :=
  fun _ _ h => Option.some.inj h ▸ ofR (fun _ => rfl) x
theorem imulhS32 (x : RF) : Statement (.imulhS32 x) :=
  fun _ _ h => Option.some.inj h ▸ ofR (fun _ => rfl) x
theorem imulhN32 (x : RF) : Statement (.imulhN32 x) :=
  fun _ _ h => Option.some.inj h ▸ ofR (fun _ => rfl) x
theorem imad32 (x : RF) : Statement (.imad32 x) :=
  fun _ _ h => Option.some.inj h ▸ ofR (fun _ => rfl) x
theorem imad64 (x : RF) : Statement (.imad64 x) :=
  fun _ _ h => Option.some.inj h ▸ ofR (fun _ => rfl) x
theorem iminS32 (x : RF) : Statement (.iminS32 x) :=
  fun _ _ h => Option.some.inj h ▸ ofR (fun _ => rfl) x
theorem iminN32 (x : RF) : Statement (.iminN32 x) :=
  fun _ _ h => Option.some.inj h ▸ ofR (fun _ => rfl) x
theorem imaxS32 (x : RF) : Statement (.imaxS32 x) :=
  fun _ _ h => Option.some.inj h ▸ ofR (fun _ => rfl) x
theorem imaxN32 (x : RF) : Statement (.imaxN32 x) :=
  fun _ _ h => Option.some.inj h ▸ ofR (fun _ => rfl) x
theorem iabs (x : RF) : Statement (.iabs x) :=
  fun _ _ h => Option.some.inj h ▸ ofR (fun _ => rfl) x
theorem ineg (x : RF) : Statement (.ineg x) :=
  fun _ _ h => Option.some.inj h ▸ ofR (fun _ => rfl) x
theorem andW (x : RF) : Statement (.andW x) :=
  fun _ _ h => Option.some.inj h ▸ ofR (fun _ => rfl) x
theorem orW (x : RF) : Statement (.orW x) :=
  fun _ _ h => Option.some.inj h ▸ ofR (fun _ => rfl) x
theorem xorW (x : RF) : Statement (.xorW x) :=
  fun _ _ h => Option.some.inj h ▸ ofR (fun _ => rfl) x
theorem andn (x : RF) : Statement (.andn x) :=
  fun _ _ h => Option.some.inj h ▸ ofR (fun _ => rfl) x
theorem orn (x : RF) : Statement (.orn x) :=
  fun _ _ h => Option.some.inj h ▸ ofR (fun _ => rfl) x
theorem notW (x : RF) : Statement (.notW x) :=
  fun _ _ h => Option.some.inj h ▸ ofR (fun _ => rfl) x
theorem shl32 (x : RF) : Statement (.shl32 x) :=
  fun _ _ h => Option.some.inj h ▸ ofR (fun _ => rfl) x
theorem shr32 (x : RF) : Statement (.shr32 x) :=
  fun _ _ h => Option.some.inj h ▸ ofR (fun _ => rfl) x
theorem sar32 (x : RF) : Statement (.sar32 x) :=
  fun _ _ h => Option.some.inj h ▸ ofR (fun _ => rfl) x
theorem rol32 (x : RF) : Statement (.rol32 x) :=
  fun _ _ h => Option.some.inj h ▸ ofR (fun _ => rfl) x
theorem shl64 (x : RF) : Statement (.shl64 x) :=
  fun _ _ h => Option.some.inj h ▸ ofR (fun _ => rfl) x
theorem shr64 (x : RF) : Statement (.shr64 x) :=
  fun _ _ h => Option.some.inj h ▸ ofR (fun _ => rfl) x
theorem sar64 (x : RF) : Statement (.sar64 x) :=
  fun _ _ h => Option.some.inj h ▸ ofR (fun _ => rfl) x
theorem fsh (x : RF) : Statement (.fsh x) :=
  fun _ _ h => Option.some.inj h ▸ ofR (fun _ => rfl) x
theorem popc (x : RF) : Statement (.popc x) :=
  fun _ _ h => Option.some.inj h ▸ ofR (fun _ => rfl) x
theorem clz (x : RF) : Statement (.clz x) :=
  fun _ _ h => Option.some.inj h ▸ ofR (fun _ => rfl) x
theorem ctz (x : RF) : Statement (.ctz x) :=
  fun _ _ h => Option.some.inj h ▸ ofR (fun _ => rfl) x
theorem brev (x : RF) : Statement (.brev x) :=
  fun _ _ h => Option.some.inj h ▸ ofR (fun _ => rfl) x
theorem bfxS (x : RF) : Statement (.bfxS x) :=
  fun _ _ h => Option.some.inj h ▸ ofR (fun _ => rfl) x
theorem bfxN (x : RF) : Statement (.bfxN x) :=
  fun _ _ h => Option.some.inj h ▸ ofR (fun _ => rfl) x
theorem bfi (x : RF) : Statement (.bfi x) :=
  fun _ _ h => Option.some.inj h ▸ ofR (fun _ => rfl) x
theorem bperm (x : RF) : Statement (.bperm x) :=
  fun _ _ h => Option.some.inj h ▸ ofR (fun _ => rfl) x
theorem sel (x : RF) : Statement (.sel x) :=
  fun _ _ h => Option.some.inj h ▸ ofR (fun _ => rfl) x
theorem icmp32 (x : RF) : Statement (.icmp32 x) :=
  fun _ _ h => Option.some.inj h ▸ ofR (fun _ => rfl) x
theorem icmp64 (x : RF) : Statement (.icmp64 x) :=
  fun _ _ h => Option.some.inj h ▸ ofR (fun _ => rfl) x
theorem kop (x : RF) : Statement (.kop x) :=
  fun _ _ h => Option.some.inj h ▸ ofR (fun _ => rfl) x
theorem kmovKv (x : RF) : Statement (.kmovKv x) :=
  fun _ _ h => Option.some.inj h ▸ ofR (fun _ => rfl) x
theorem kmovVk (x : RF) : Statement (.kmovVk x) :=
  fun _ _ h => Option.some.inj h ▸ ofR (fun _ => rfl) x
theorem mov (x : RF) : Statement (.mov x) :=
  fun _ _ h => Option.some.inj h ▸ ofR (fun _ => rfl) x
theorem mov64 (x : RF) : Statement (.mov64 x) :=
  fun _ _ h => Option.some.inj h ▸ ofR (fun _ => rfl) x
theorem iaddi32 (x : IF) : Statement (.iaddi32 x) :=
  fun _ _ h => Option.some.inj h ▸ ofI (fun _ => rfl) x
theorem iaddi64 (x : IF) : Statement (.iaddi64 x) :=
  fun _ _ h => Option.some.inj h ▸ ofI (fun _ => rfl) x
theorem andi (x : IF) : Statement (.andi x) :=
  fun _ _ h => Option.some.inj h ▸ ofI (fun _ => rfl) x
theorem ori (x : IF) : Statement (.ori x) :=
  fun _ _ h => Option.some.inj h ▸ ofI (fun _ => rfl) x
theorem xori (x : IF) : Statement (.xori x) :=
  fun _ _ h => Option.some.inj h ▸ ofI (fun _ => rfl) x
theorem shli (x : IF) : Statement (.shli x) :=
  fun _ _ h => Option.some.inj h ▸ ofI (fun _ => rfl) x
theorem shri (x : IF) : Statement (.shri x) :=
  fun _ _ h => Option.some.inj h ▸ ofI (fun _ => rfl) x
theorem sari (x : IF) : Statement (.sari x) :=
  fun _ _ h => Option.some.inj h ▸ ofI (fun _ => rfl) x
theorem icmpi32 (x : IF) : Statement (.icmpi32 x) :=
  fun _ _ h => Option.some.inj h ▸ ofI (fun _ => rfl) x
theorem imuli32 (x : IF) : Statement (.imuli32 x) :=
  fun _ _ h => Option.some.inj h ▸ ofI (fun _ => rfl) x
theorem lea2 (x : RF) : Statement (.lea2 x) :=
  fun _ _ h => Option.some.inj h ▸ ofR (fun _ => rfl) x
theorem lea4 (x : RF) : Statement (.lea4 x) :=
  fun _ _ h => Option.some.inj h ▸ ofR (fun _ => rfl) x
theorem lea8 (x : RF) : Statement (.lea8 x) :=
  fun _ _ h => Option.some.inj h ▸ ofR (fun _ => rfl) x
theorem lea16 (x : RF) : Statement (.lea16 x) :=
  fun _ _ h => Option.some.inj h ▸ ofR (fun _ => rfl) x
theorem movi (x : KF) : Statement (.movi x) :=
  fun _ _ h => Option.some.inj h ▸ ofK (fun _ => rfl) x
theorem movhi (x : KF) : Statement (.movhi x) :=
  fun _ _ h => Option.some.inj h ▸ ofK (fun _ => rfl) x
theorem faddF64 (x : RF) : Statement (.faddF64 x) :=
  fun _ _ h => Option.some.inj h ▸ ofR (fun _ => rfl) x
theorem faddF32 (x : RF) : Statement (.faddF32 x) :=
  fun _ _ h => Option.some.inj h ▸ ofR (fun _ => rfl) x
theorem faddH2 (x : RF) : Statement (.faddH2 x) :=
  fun _ _ h => Option.some.inj h ▸ ofR (fun _ => rfl) x
theorem faddBh2 (x : RF) : Statement (.faddBh2 x) :=
  fun _ _ h => Option.some.inj h ▸ ofR (fun _ => rfl) x
theorem fsubF64 (x : RF) : Statement (.fsubF64 x) :=
  fun _ _ h => Option.some.inj h ▸ ofR (fun _ => rfl) x
theorem fsubF32 (x : RF) : Statement (.fsubF32 x) :=
  fun _ _ h => Option.some.inj h ▸ ofR (fun _ => rfl) x
theorem fsubH2 (x : RF) : Statement (.fsubH2 x) :=
  fun _ _ h => Option.some.inj h ▸ ofR (fun _ => rfl) x
theorem fsubBh2 (x : RF) : Statement (.fsubBh2 x) :=
  fun _ _ h => Option.some.inj h ▸ ofR (fun _ => rfl) x
theorem fmulF64 (x : RF) : Statement (.fmulF64 x) :=
  fun _ _ h => Option.some.inj h ▸ ofR (fun _ => rfl) x
theorem fmulF32 (x : RF) : Statement (.fmulF32 x) :=
  fun _ _ h => Option.some.inj h ▸ ofR (fun _ => rfl) x
theorem fmulH2 (x : RF) : Statement (.fmulH2 x) :=
  fun _ _ h => Option.some.inj h ▸ ofR (fun _ => rfl) x
theorem fmulBh2 (x : RF) : Statement (.fmulBh2 x) :=
  fun _ _ h => Option.some.inj h ▸ ofR (fun _ => rfl) x
theorem ffmaF64 (x : RF) : Statement (.ffmaF64 x) :=
  fun _ _ h => Option.some.inj h ▸ ofR (fun _ => rfl) x
theorem ffmaF32 (x : RF) : Statement (.ffmaF32 x) :=
  fun _ _ h => Option.some.inj h ▸ ofR (fun _ => rfl) x
theorem ffmaH2 (x : RF) : Statement (.ffmaH2 x) :=
  fun _ _ h => Option.some.inj h ▸ ofR (fun _ => rfl) x
theorem ffmaBh2 (x : RF) : Statement (.ffmaBh2 x) :=
  fun _ _ h => Option.some.inj h ▸ ofR (fun _ => rfl) x
theorem fminF64 (x : RF) : Statement (.fminF64 x) :=
  fun _ _ h => Option.some.inj h ▸ ofR (fun _ => rfl) x
theorem fminF32 (x : RF) : Statement (.fminF32 x) :=
  fun _ _ h => Option.some.inj h ▸ ofR (fun _ => rfl) x
theorem fminH2 (x : RF) : Statement (.fminH2 x) :=
  fun _ _ h => Option.some.inj h ▸ ofR (fun _ => rfl) x
theorem fminBh2 (x : RF) : Statement (.fminBh2 x) :=
  fun _ _ h => Option.some.inj h ▸ ofR (fun _ => rfl) x
theorem fmaxF64 (x : RF) : Statement (.fmaxF64 x) :=
  fun _ _ h => Option.some.inj h ▸ ofR (fun _ => rfl) x
theorem fmaxF32 (x : RF) : Statement (.fmaxF32 x) :=
  fun _ _ h => Option.some.inj h ▸ ofR (fun _ => rfl) x
theorem fmaxH2 (x : RF) : Statement (.fmaxH2 x) :=
  fun _ _ h => Option.some.inj h ▸ ofR (fun _ => rfl) x
theorem fmaxBh2 (x : RF) : Statement (.fmaxBh2 x) :=
  fun _ _ h => Option.some.inj h ▸ ofR (fun _ => rfl) x
theorem fminnF64 (x : RF) : Statement (.fminnF64 x) :=
  fun _ _ h => Option.some.inj h ▸ ofR (fun _ => rfl) x
theorem fminnF32 (x : RF) : Statement (.fminnF32 x) :=
  fun _ _ h => Option.some.inj h ▸ ofR (fun _ => rfl) x
theorem fminnH2 (x : RF) : Statement (.fminnH2 x) :=
  fun _ _ h => Option.some.inj h ▸ ofR (fun _ => rfl) x
theorem fminnBh2 (x : RF) : Statement (.fminnBh2 x) :=
  fun _ _ h => Option.some.inj h ▸ ofR (fun _ => rfl) x
theorem fmaxnF64 (x : RF) : Statement (.fmaxnF64 x) :=
  fun _ _ h => Option.some.inj h ▸ ofR (fun _ => rfl) x
theorem fmaxnF32 (x : RF) : Statement (.fmaxnF32 x) :=
  fun _ _ h => Option.some.inj h ▸ ofR (fun _ => rfl) x
theorem fmaxnH2 (x : RF) : Statement (.fmaxnH2 x) :=
  fun _ _ h => Option.some.inj h ▸ ofR (fun _ => rfl) x
theorem fmaxnBh2 (x : RF) : Statement (.fmaxnBh2 x) :=
  fun _ _ h => Option.some.inj h ▸ ofR (fun _ => rfl) x
theorem fcmpF64 (x : RF) : Statement (.fcmpF64 x) :=
  fun _ _ h => Option.some.inj h ▸ ofR (fun _ => rfl) x
theorem fcmpF32 (x : RF) : Statement (.fcmpF32 x) :=
  fun _ _ h => Option.some.inj h ▸ ofR (fun _ => rfl) x
theorem fcmpH2 (x : RF) : Statement (.fcmpH2 x) :=
  fun _ _ h => Option.some.inj h ▸ ofR (fun _ => rfl) x
theorem fcmpBh2 (x : RF) : Statement (.fcmpBh2 x) :=
  fun _ _ h => Option.some.inj h ▸ ofR (fun _ => rfl) x
theorem fabs (x : RF) : Statement (.fabs x) :=
  fun _ _ h => Option.some.inj h ▸ ofR (fun _ => rfl) x
theorem fneg (x : RF) : Statement (.fneg x) :=
  fun _ _ h => Option.some.inj h ▸ ofR (fun _ => rfl) x
theorem fcpysF32 (x : RF) : Statement (.fcpysF32 x) :=
  fun _ _ h => Option.some.inj h ▸ ofR (fun _ => rfl) x
theorem fcpysF64 (x : RF) : Statement (.fcpysF64 x) :=
  fun _ _ h => Option.some.inj h ▸ ofR (fun _ => rfl) x
theorem fclass (x : RF) : Statement (.fclass x) :=
  fun _ _ h => Option.some.inj h ▸ ofR (fun _ => rfl) x
theorem frnd (x : RF) : Statement (.frnd x) :=
  fun _ _ h => Option.some.inj h ▸ ofR (fun _ => rfl) x
theorem fdivF32 (x : RF) : Statement (.fdivF32 x) :=
  fun _ _ h => Option.some.inj h ▸ ofR (fun _ => rfl) x
theorem fdivF64 (x : RF) : Statement (.fdivF64 x) :=
  fun _ _ h => Option.some.inj h ▸ ofR (fun _ => rfl) x
theorem fsqrtF32 (x : RF) : Statement (.fsqrtF32 x) :=
  fun _ _ h => Option.some.inj h ▸ ofR (fun _ => rfl) x
theorem fsqrtF64 (x : RF) : Statement (.fsqrtF64 x) :=
  fun _ _ h => Option.some.inj h ▸ ofR (fun _ => rfl) x
theorem frcpF32 (x : RF) : Statement (.frcpF32 x) :=
  fun _ _ h => Option.some.inj h ▸ ofR (fun _ => rfl) x
theorem frsqF32 (x : RF) : Statement (.frsqF32 x) :=
  fun _ _ h => Option.some.inj h ▸ ofR (fun _ => rfl) x
theorem fex2F32 (x : RF) : Statement (.fex2F32 x) :=
  fun _ _ h => Option.some.inj h ▸ ofR (fun _ => rfl) x
theorem flg2F32 (x : RF) : Statement (.flg2F32 x) :=
  fun _ _ h => Option.some.inj h ▸ ofR (fun _ => rfl) x
theorem fsinF32 (x : RF) : Statement (.fsinF32 x) :=
  fun _ _ h => Option.some.inj h ▸ ofR (fun _ => rfl) x
theorem fcosF32 (x : RF) : Statement (.fcosF32 x) :=
  fun _ _ h => Option.some.inj h ▸ ofR (fun _ => rfl) x
theorem fldxF32 (x : RF) : Statement (.fldxF32 x) :=
  fun _ _ h => Option.some.inj h ▸ ofR (fun _ => rfl) x
theorem fldxF64 (x : RF) : Statement (.fldxF64 x) :=
  fun _ _ h => Option.some.inj h ▸ ofR (fun _ => rfl) x
theorem ffrxF32Frac (x : RF) : Statement (.ffrxF32Frac x) := fun w hw h => by
  have k : (x.b == 0) = true := (kinds hw).1
  cases h
  exact kindR (f := .ffrxF32Frac) (fun w e => by subst e; exact if_pos k)
theorem ffrxF32Exp (x : RF) : Statement (.ffrxF32Exp x) := fun w hw h => by
  have k : (x.b == 1) = true := (kinds hw).1
  cases h
  exact kindR (f := .ffrxF32Exp) (fun w e => by subst e; exact (if_neg (kindNe k (by decide))).trans <| if_pos k)
theorem ffrxF64Frac (x : RF) : Statement (.ffrxF64Frac x) := fun w hw h => by
  have k : (x.b == 0) = true := (kinds hw).1
  cases h
  exact kindR (f := .ffrxF64Frac) (fun w e => by subst e; exact if_pos k)
theorem ffrxF64Exp (x : RF) : Statement (.ffrxF64Exp x) := fun w hw h => by
  have k : (x.b == 1) = true := (kinds hw).1
  cases h
  exact kindR (f := .ffrxF64Exp) (fun w e => by subst e; exact (if_neg (kindNe k (by decide))).trans <| if_pos k)
theorem cvtff (x : RF) : Statement (.cvtff x) :=
  fun _ _ h => Option.some.inj h ▸ ofR (fun _ => rfl) x
theorem cvtfi (x : RF) : Statement (.cvtfi x) :=
  fun _ _ h => Option.some.inj h ▸ ofR (fun _ => rfl) x
theorem cvtif (x : RF) : Statement (.cvtif x) :=
  fun _ _ h => Option.some.inj h ▸ ofR (fun _ => rfl) x
theorem pk8 (x : RF) : Statement (.pk8 x) :=
  fun _ _ h => Option.some.inj h ▸ ofR (fun _ => rfl) x
theorem unpk8 (x : RF) : Statement (.unpk8 x) :=
  fun _ _ h => Option.some.inj h ▸ ofR (fun _ => rfl) x
theorem pkbs (x : RF) : Statement (.pkbs x) :=
  fun _ _ h => Option.some.inj h ▸ ofR (fun _ => rfl) x
theorem fdot2H2 (x : RF) : Statement (.fdot2H2 x) :=
  fun _ _ h => Option.some.inj h ▸ ofR (fun _ => rfl) x
theorem fdot2Bh2 (x : RF) : Statement (.fdot2Bh2 x) :=
  fun _ _ h => Option.some.inj h ▸ ofR (fun _ => rfl) x
theorem shflIdx (x : RF) : Statement (.shflIdx x) :=
  fun _ _ h => Option.some.inj h ▸ ofR (fun _ => rfl) x
theorem shflUp (x : RF) : Statement (.shflUp x) :=
  fun _ _ h => Option.some.inj h ▸ ofR (fun _ => rfl) x
theorem shflDown (x : RF) : Statement (.shflDown x) :=
  fun _ _ h => Option.some.inj h ▸ ofR (fun _ => rfl) x
theorem shflXor (x : RF) : Statement (.shflXor x) :=
  fun _ _ h => Option.some.inj h ▸ ofR (fun _ => rfl) x
theorem voteAll (x : RF) : Statement (.voteAll x) :=
  fun _ _ h => Option.some.inj h ▸ ofR (fun _ => rfl) x
theorem voteAny (x : RF) : Statement (.voteAny x) :=
  fun _ _ h => Option.some.inj h ▸ ofR (fun _ => rfl) x
theorem voteEq (x : RF) : Statement (.voteEq x) :=
  fun _ _ h => Option.some.inj h ▸ ofR (fun _ => rfl) x
theorem voteBallot (x : RF) : Statement (.voteBallot x) :=
  fun _ _ h => Option.some.inj h ▸ ofR (fun _ => rfl) x
theorem redux (x : RF) : Statement (.redux x) :=
  fun _ _ h => Option.some.inj h ▸ ofR (fun _ => rfl) x
theorem matchSet (x : RF) : Statement (.matchSet x) := fun w hw h => by
  have k : (x.b == 0) = true := (kinds hw).1
  cases h
  exact kindR (f := .matchSet) (fun w e => by subst e; exact if_pos k)
theorem matchLead (x : RF) : Statement (.matchLead x) := fun w hw h => by
  have k : (x.b == 1) = true := (kinds hw).1
  cases h
  exact kindR (f := .matchLead) (fun w e => by subst e; exact (if_neg (kindNe k (by decide))).trans <| if_pos k)
theorem laneb (x : RF) : Statement (.laneb x) :=
  fun _ _ h => Option.some.inj h ▸ ofR (fun _ => rfl) x
theorem bra (x : BF) : Statement (.bra x) :=
  fun _ _ h => Option.some.inj h ▸ ofB (fun _ => rfl) x
theorem brau (x : BF) : Statement (.brau x) :=
  fun _ _ h => Option.some.inj h ▸ ofB (fun _ => rfl) x
theorem brx (x : RF) : Statement (.brx x) :=
  fun _ _ h => Option.some.inj h ▸ ofR (fun _ => rfl) x
theorem call (x : BF) : Statement (.call x) :=
  fun _ _ h => Option.some.inj h ▸ ofB (fun _ => rfl) x
theorem callx (x : RF) : Statement (.callx x) :=
  fun _ _ h => Option.some.inj h ▸ ofR (fun _ => rfl) x
theorem ret (x : RF) : Statement (.ret x) :=
  fun _ _ h => Option.some.inj h ▸ ofR (fun _ => rfl) x
theorem bdec (x : BF) : Statement (.bdec x) :=
  fun _ _ h => Option.some.inj h ▸ ofB (fun _ => rfl) x
theorem yield (x : RF) : Statement (.yield x) :=
  fun _ _ h => Option.some.inj h ▸ ofR (fun _ => rfl) x
theorem exit (x : RF) : Statement (.exit x) :=
  fun _ _ h => Option.some.inj h ▸ ofR (fun _ => rfl) x
theorem nop (x : RF) : Statement (.nop x) :=
  fun _ _ h => Option.some.inj h ▸ ofR (fun _ => rfl) x
theorem trap (x : EF) : Statement (.trap x) :=
  fun _ _ h => Option.some.inj h ▸ ofE (fun _ => rfl) x
theorem brk (x : EF) : Statement (.brk x) :=
  fun _ _ h => Option.some.inj h ▸ ofE (fun _ => rfl) x
theorem ld8s (x : MF) : Statement (.ld8s x) :=
  fun _ _ h => Option.some.inj h ▸ ofM (fun _ => rfl) x
theorem ld8n (x : MF) : Statement (.ld8n x) :=
  fun _ _ h => Option.some.inj h ▸ ofM (fun _ => rfl) x
theorem ld16s (x : MF) : Statement (.ld16s x) :=
  fun _ _ h => Option.some.inj h ▸ ofM (fun _ => rfl) x
theorem ld16n (x : MF) : Statement (.ld16n x) :=
  fun _ _ h => Option.some.inj h ▸ ofM (fun _ => rfl) x
theorem ld32 (x : MF) : Statement (.ld32 x) :=
  fun _ _ h => Option.some.inj h ▸ ofM (fun _ => rfl) x
theorem ld64 (x : MF) : Statement (.ld64 x) :=
  fun _ _ h => Option.some.inj h ▸ ofM (fun _ => rfl) x
theorem ld128 (x : MF) : Statement (.ld128 x) :=
  fun _ _ h => Option.some.inj h ▸ ofM (fun _ => rfl) x
theorem st8 (x : MF) : Statement (.st8 x) :=
  fun _ _ h => Option.some.inj h ▸ ofM (fun _ => rfl) x
theorem st16 (x : MF) : Statement (.st16 x) :=
  fun _ _ h => Option.some.inj h ▸ ofM (fun _ => rfl) x
theorem st32 (x : MF) : Statement (.st32 x) :=
  fun _ _ h => Option.some.inj h ▸ ofM (fun _ => rfl) x
theorem st64 (x : MF) : Statement (.st64 x) :=
  fun _ _ h => Option.some.inj h ▸ ofM (fun _ => rfl) x
theorem st128 (x : MF) : Statement (.st128 x) :=
  fun _ _ h => Option.some.inj h ▸ ofM (fun _ => rfl) x
theorem pf (x : MF) : Statement (.pf x) :=
  fun _ _ h => Option.some.inj h ▸ ofM (fun _ => rfl) x
theorem rwb (x : MF) : Statement (.rwb x) :=
  fun _ _ h => Option.some.inj h ▸ ofM (fun _ => rfl) x
theorem rinv (x : MF) : Statement (.rinv x) :=
  fun _ _ h => Option.some.inj h ▸ ofM (fun _ => rfl) x
theorem amoAdd32 (x : MF) : Statement (.amoAdd32 x) :=
  fun _ _ h => Option.some.inj h ▸ ofM (fun _ => rfl) x
theorem amoAdd64 (x : MF) : Statement (.amoAdd64 x) :=
  fun _ _ h => Option.some.inj h ▸ ofM (fun _ => rfl) x
theorem amoFaddF32 (x : MF) : Statement (.amoFaddF32 x) :=
  fun _ _ h => Option.some.inj h ▸ ofM (fun _ => rfl) x
theorem amoFaddBh2 (x : MF) : Statement (.amoFaddBh2 x) :=
  fun _ _ h => Option.some.inj h ▸ ofM (fun _ => rfl) x
theorem amoMinS32 (x : MF) : Statement (.amoMinS32 x) :=
  fun _ _ h => Option.some.inj h ▸ ofM (fun _ => rfl) x
theorem amoMinN32 (x : MF) : Statement (.amoMinN32 x) :=
  fun _ _ h => Option.some.inj h ▸ ofM (fun _ => rfl) x
theorem amoMaxS32 (x : MF) : Statement (.amoMaxS32 x) :=
  fun _ _ h => Option.some.inj h ▸ ofM (fun _ => rfl) x
theorem amoMaxN32 (x : MF) : Statement (.amoMaxN32 x) :=
  fun _ _ h => Option.some.inj h ▸ ofM (fun _ => rfl) x
theorem amoAnd32 (x : MF) : Statement (.amoAnd32 x) :=
  fun _ _ h => Option.some.inj h ▸ ofM (fun _ => rfl) x
theorem amoOr32 (x : MF) : Statement (.amoOr32 x) :=
  fun _ _ h => Option.some.inj h ▸ ofM (fun _ => rfl) x
theorem amoXor32 (x : MF) : Statement (.amoXor32 x) :=
  fun _ _ h => Option.some.inj h ▸ ofM (fun _ => rfl) x
theorem amoXchg32 (x : MF) : Statement (.amoXchg32 x) :=
  fun _ _ h => Option.some.inj h ▸ ofM (fun _ => rfl) x
theorem amoXchg64 (x : MF) : Statement (.amoXchg64 x) :=
  fun _ _ h => Option.some.inj h ▸ ofM (fun _ => rfl) x
theorem amoCas32 (x : MF) : Statement (.amoCas32 x) :=
  fun _ _ h => Option.some.inj h ▸ ofM (fun _ => rfl) x
theorem amoCas64 (x : MF) : Statement (.amoCas64 x) :=
  fun _ _ h => Option.some.inj h ▸ ofM (fun _ => rfl) x
theorem amoIncN32 (x : MF) : Statement (.amoIncN32 x) :=
  fun _ _ h => Option.some.inj h ▸ ofM (fun _ => rfl) x
theorem fenceAcq (x : EF) : Statement (.fenceAcq x) := fun w hw h => by
  have k : Machine.fenceOk x.m 4 = true := (kinds hw).2
  replace k := (Bool.and_eq_true_iff.1 k).1
  cases h
  exact kindE (f := .fenceAcq) (fun w e => by subst e; exact if_pos k)
theorem fenceRel (x : EF) : Statement (.fenceRel x) := fun w hw h => by
  have k : Machine.fenceOk x.m 2 = true := (kinds hw).2
  replace k := (Bool.and_eq_true_iff.1 k).1
  cases h
  exact kindE (f := .fenceRel) (fun w e => by subst e; exact (if_neg (kindNe k (by decide))).trans <| if_pos k)
theorem fenceAr (x : EF) : Statement (.fenceAr x) := fun w hw h => by
  have k : Machine.fenceOk x.m 6 = true := (kinds hw).2
  replace k := (Bool.and_eq_true_iff.1 k).1
  cases h
  exact kindE (f := .fenceAr) (fun w e => by subst e; exact (if_neg (kindNe k (by decide))).trans <| (if_neg (kindNe k (by decide))).trans <| if_pos k)
theorem fenceSc (x : EF) : Statement (.fenceSc x) := fun w hw h => by
  have k : Machine.fenceOk x.m 7 = true := (kinds hw).2
  replace k := (Bool.and_eq_true_iff.1 k).1
  cases h
  exact kindE (f := .fenceSc) (fun w e => by subst e; exact (if_neg (kindNe k (by decide))).trans <| (if_neg (kindNe k (by decide))).trans <| (if_neg (kindNe k (by decide))).trans <| if_pos k)
theorem bar (x : EF) : Statement (.bar x) :=
  fun _ _ h => Option.some.inj h ▸ ofE (fun _ => rfl) x
theorem bara (x : EF) : Statement (.bara x) :=
  fun _ _ h => Option.some.inj h ▸ ofE (fun _ => rfl) x
theorem barw (x : EF) : Statement (.barw x) :=
  fun _ _ h => Option.some.inj h ▸ ofE (fun _ => rfl) x
theorem mbini (x : EF) : Statement (.mbini x) :=
  fun _ _ h => Option.some.inj h ▸ ofE (fun _ => rfl) x
theorem mbarv (x : EF) : Statement (.mbarv x) :=
  fun _ _ h => Option.some.inj h ▸ ofE (fun _ => rfl) x
theorem mbwait (x : EF) : Statement (.mbwait x) :=
  fun _ _ h => Option.some.inj h ▸ ofE (fun _ => rfl) x
theorem mbtst (x : EF) : Statement (.mbtst x) :=
  fun _ _ h => Option.some.inj h ▸ ofE (fun _ => rfl) x
theorem dyield (x : EF) : Statement (.dyield x) :=
  fun _ _ h => Option.some.inj h ▸ ofE (fun _ => rfl) x
theorem regreq (x : EF) : Statement (.regreq x) :=
  fun _ _ h => Option.some.inj h ▸ ofE (fun _ => rfl) x
theorem regrel (x : EF) : Statement (.regrel x) :=
  fun _ _ h => Option.some.inj h ▸ ofE (fun _ => rfl) x
theorem feq (x : EF) : Statement (.feq x) :=
  fun _ _ h => Option.some.inj h ▸ ofE (fun _ => rfl) x
theorem hbind (x : EF) : Statement (.hbind x) :=
  fun _ _ h => Option.some.inj h ▸ ofE (fun _ => rfl) x
theorem hqry (x : EF) : Statement (.hqry x) :=
  fun _ _ h => Option.some.inj h ▸ ofE (fun _ => rfl) x
theorem smap (x : EF) : Statement (.smap x) :=
  fun _ _ h => Option.some.inj h ▸ ofE (fun _ => rfl) x
theorem sunmap (x : EF) : Statement (.sunmap x) :=
  fun _ _ h => Option.some.inj h ▸ ofE (fun _ => rfl) x
theorem cpy (x : EF) : Statement (.cpy x) :=
  fun _ _ h => Option.some.inj h ▸ ofE (fun _ => rfl) x
theorem cpq (x : EF) : Statement (.cpq x) :=
  fun _ _ h => Option.some.inj h ▸ ofE (fun _ => rfl) x
theorem tld (x : EF) : Statement (.tld x) :=
  fun _ _ h => Option.some.inj h ▸ ofE (fun _ => rfl) x
theorem tst (x : EF) : Statement (.tst x) :=
  fun _ _ h => Option.some.inj h ▸ ofE (fun _ => rfl) x
theorem tzero (x : EF) : Statement (.tzero x) :=
  fun _ _ h => Option.some.inj h ▸ ofE (fun _ => rfl) x
theorem tmovFromTile (x : EF) : Statement (.tmovFromTile x) := fun w hw h => by
  have k : (x.m.toNat / 4 == 0) = true := (kinds hw).2
  cases h
  exact kindE (f := .tmovFromTile) (fun w e => by subst e; exact if_pos k)
theorem tmovToTile (x : EF) : Statement (.tmovToTile x) := fun w hw h => by
  have k : (x.m.toNat / 4 == 8) = true := (kinds hw).2
  cases h
  exact kindE (f := .tmovToTile) (fun w e => by subst e; exact (if_neg (kindNe k (by decide))).trans <| if_pos k)
theorem mma (x : EF) : Statement (.mma x) :=
  fun _ _ h => Option.some.inj h ▸ ofE (fun _ => rfl) x
theorem mlut (x : EF) : Statement (.mlut x) :=
  fun _ _ h => Option.some.inj h ▸ ofE (fun _ => rfl) x
theorem mgath (x : EF) : Statement (.mgath x) :=
  fun _ _ h => Option.some.inj h ▸ ofE (fun _ => rfl) x
theorem mfence (x : EF) : Statement (.mfence x) :=
  fun _ _ h => Option.some.inj h ▸ ofE (fun _ => rfl) x
theorem mwait (x : EF) : Statement (.mwait x) :=
  fun _ _ h => Option.some.inj h ▸ ofE (fun _ => rfl) x
theorem rowcpy (x : EF) : Statement (.rowcpy x) :=
  fun _ _ h => Option.some.inj h ▸ ofE (fun _ => rfl) x
theorem rowfill (x : EF) : Statement (.rowfill x) :=
  fun _ _ h => Option.some.inj h ▸ ofE (fun _ => rfl) x
theorem rowop (x : EF) : Statement (.rowop x) :=
  fun _ _ h => Option.some.inj h ▸ ofE (fun _ => rfl) x
theorem gang (x : EF) : Statement (.gang x) :=
  fun _ _ h => Option.some.inj h ▸ ofE (fun _ => rfl) x
theorem regn (x : EF) : Statement (.regn x) :=
  fun _ _ h => Option.some.inj h ▸ ofE (fun _ => rfl) x
theorem srr (x : EF) : Statement (.srr x) :=
  fun _ _ h => Option.some.inj h ▸ ofE (fun _ => rfl) x
theorem srw (x : EF) : Statement (.srw x) :=
  fun _ _ h => Option.some.inj h ▸ ofE (fun _ => rfl) x
theorem tret (x : EF) : Statement (.tret x) := fun w hw h => by
  have k : (x.m == 0) = true := (kinds hw).2
  cases h
  exact kindE (f := .tret) (fun w e => by subst e; exact if_pos k)
theorem tretKill (x : EF) : Statement (.tretKill x) := fun w hw h => by
  have k : (x.m == 1) = true := (kinds hw).2
  cases h
  exact kindE (f := .tretKill) (fun w e => by subst e; exact (if_neg (kindNe k (by decide))).trans <| if_pos k)
theorem gcall (x : EF) : Statement (.gcall x) :=
  fun _ _ h => Option.some.inj h ▸ ofE (fun _ => rfl) x
theorem gcallStoreGrant : ∀ a, Statement (.gcallStoreGrant a) :=
  fun _ => fun _ _ h => nomatch h
theorem gret (x : EF) : Statement (.gret x) :=
  fun _ _ h => Option.some.inj h ▸ ofE (fun _ => rfl) x
theorem gqry (x : EF) : Statement (.gqry x) :=
  fun _ _ h => Option.some.inj h ▸ ofE (fun _ => rfl) x
theorem fork (x : EF) : Statement (.fork x) :=
  fun _ _ h => Option.some.inj h ▸ ofE (fun _ => rfl) x
theorem join (x : EF) : Statement (.join x) :=
  fun _ _ h => Option.some.inj h ▸ ofE (fun _ => rfl) x
theorem tlbiVa (x : EF) : Statement (.tlbiVa x) := fun w hw h => by
  have k : (x.m == 0) = true := (kinds hw).2
  cases h
  exact kindE (f := .tlbiVa) (fun w e => by subst e; exact if_pos k)
theorem tlbiAsid (x : EF) : Statement (.tlbiAsid x) := fun w hw h => by
  have k : (x.m == 1) = true := (kinds hw).2
  cases h
  exact kindE (f := .tlbiAsid) (fun w e => by subst e; exact (if_neg (kindNe k (by decide))).trans <| if_pos k)
theorem tlbiAll (x : EF) : Statement (.tlbiAll x) := fun w hw h => by
  have k : (x.m == 2) = true := (kinds hw).2
  cases h
  exact kindE (f := .tlbiAll) (fun w e => by subst e; exact (if_neg (kindNe k (by decide))).trans <| (if_neg (kindNe k (by decide))).trans <| if_pos k)
theorem cmaintClean (x : EF) : Statement (.cmaintClean x) := fun w hw h => by
  have k : (x.m == 0) = true := (kinds hw).2
  cases h
  exact kindE (f := .cmaintClean) (fun w e => by subst e; exact if_pos k)
theorem cmaintFlush (x : EF) : Statement (.cmaintFlush x) := fun w hw h => by
  have k : (x.m == 1) = true := (kinds hw).2
  cases h
  exact kindE (f := .cmaintFlush) (fun w e => by subst e; exact (if_neg (kindNe k (by decide))).trans <| if_pos k)
theorem cmaintSweep (x : EF) : Statement (.cmaintSweep x) := fun w hw h => by
  have k : (x.m == 2) = true := (kinds hw).2
  cases h
  exact kindE (f := .cmaintSweep) (fun w e => by subst e; exact (if_neg (kindNe k (by decide))).trans <| (if_neg (kindNe k (by decide))).trans <| if_pos k)
theorem dresume (x : EF) : Statement (.dresume x) := fun w hw h => by
  have k : (x.m == 0) = true := (kinds hw).2
  cases h
  exact kindE (f := .dresume) (fun w e => by subst e; exact if_pos k)
theorem dresumeStep (x : EF) : Statement (.dresumeStep x) := fun w hw h => by
  have k : (x.m == 1) = true := (kinds hw).2
  cases h
  exact kindE (f := .dresumeStep) (fun w e => by subst e; exact (if_neg (kindNe k (by decide))).trans <| if_pos k)
theorem loadDataReturn : ∀ a b, Statement (.loadDataReturn a b) :=
  fun _ _ => fun _ _ h => nomatch h
theorem remotePendingTimeout : ∀ a, Statement (.remotePendingTimeout a) :=
  fun _ => fun _ _ h => nomatch h
theorem barPhaseResume : ∀ a b, Statement (.barPhaseResume a b) :=
  fun _ _ => fun _ _ h => nomatch h
theorem mbwaitWake : ∀ a, Statement (.mbwaitWake a) :=
  fun _ => fun _ _ h => nomatch h
theorem dyieldWake : ∀ a, Statement (.dyieldWake a) :=
  fun _ => fun _ _ h => nomatch h
theorem dyieldLimitExpiry : ∀ a, Statement (.dyieldLimitExpiry a) :=
  fun _ => fun _ _ h => nomatch h
theorem regreqGrant : ∀ a, Statement (.regreqGrant a) :=
  fun _ => fun _ _ h => nomatch h
theorem regreqDeadlockEvict : ∀ a, Statement (.regreqDeadlockEvict a) :=
  fun _ => fun _ _ h => nomatch h
theorem faultReplay : ∀ a, Statement (.faultReplay a) :=
  fun _ => fun _ _ h => nomatch h
theorem faultDeliver : ∀ a, Statement (.faultDeliver a) :=
  fun _ => fun _ _ h => nomatch h
theorem breakpointHalt : ∀ a, Statement (.breakpointHalt a) :=
  fun _ => fun _ _ h => nomatch h
theorem matrixBatchComplete : ∀ a, Statement (.matrixBatchComplete a) :=
  fun _ => fun _ _ h => nomatch h
theorem gangRelease : ∀ a b, Statement (.gangRelease a b) :=
  fun _ _ => fun _ _ h => nomatch h
theorem matrixEngineReset : ∀ a, Statement (.matrixEngineReset a) :=
  fun _ => fun _ _ h => nomatch h
theorem tileEccError : ∀ a b, Statement (.tileEccError a b) :=
  fun _ _ => fun _ _ h => nomatch h
theorem drainLimitExpiry : ∀ a, Statement (.drainLimitExpiry a) :=
  fun _ => fun _ _ h => nomatch h
theorem copyRunLanded : ∀ a b, Statement (.copyRunLanded a b) :=
  fun _ _ => fun _ _ h => nomatch h
theorem cpqSlotFree : ∀ a, Statement (.cpqSlotFree a) :=
  fun _ => fun _ _ h => nomatch h
theorem cpqEntryRun : ∀ a b, Statement (.cpqEntryRun a b) :=
  fun _ _ => fun _ _ h => nomatch h
theorem cpqFlagAtomic : ∀ a b, Statement (.cpqFlagAtomic a b) :=
  fun _ _ => fun _ _ h => nomatch h
theorem rowWritten : ∀ a, Statement (.rowWritten a) :=
  fun _ => fun _ _ h => nomatch h
theorem eccRecomputeDone : ∀ a, Statement (.eccRecomputeDone a) :=
  fun _ => fun _ _ h => nomatch h
theorem gets : ∀ a b, Statement (.gets a b) :=
  fun _ _ => fun _ _ h => nomatch h
theorem getm : ∀ a b, Statement (.getm a b) :=
  fun _ _ => fun _ _ h => nomatch h
theorem upg : ∀ a b, Statement (.upg a b) :=
  fun _ _ => fun _ _ h => nomatch h
theorem putm : ∀ a b, Statement (.putm a b) :=
  fun _ _ => fun _ _ h => nomatch h
theorem pute : ∀ a b, Statement (.pute a b) :=
  fun _ _ => fun _ _ h => nomatch h
theorem l2Eviction : ∀ a b, Statement (.l2Eviction a b) :=
  fun _ _ => fun _ _ h => nomatch h
theorem earlyDifference : ∀ a b, Statement (.earlyDifference a b) :=
  fun _ _ => fun _ _ h => nomatch h
theorem deviceReleaseRun : ∀ a, Statement (.deviceReleaseRun a) :=
  fun _ => fun _ _ h => nomatch h
theorem diffRecordMerge : ∀ a b, Statement (.diffRecordMerge a b) :=
  fun _ _ => fun _ _ h => nomatch h
theorem mergeAck : ∀ a, Statement (.mergeAck a) :=
  fun _ => fun _ _ h => nomatch h
theorem coherenceSweep : Statement (.coherenceSweep) :=
  fun _ _ h => nomatch h
theorem linkSleep : ∀ a, Statement (.linkSleep a) :=
  fun _ => fun _ _ h => nomatch h
theorem linkWake : ∀ a, Statement (.linkWake a) :=
  fun _ => fun _ _ h => nomatch h
theorem linkTrainingFailure : ∀ a b, Statement (.linkTrainingFailure a b) :=
  fun _ _ => fun _ _ h => nomatch h
theorem dieLostTimeout : ∀ a, Statement (.dieLostTimeout a) :=
  fun _ => fun _ _ h => nomatch h
theorem dieRejoin : ∀ a, Statement (.dieRejoin a) :=
  fun _ => fun _ _ h => nomatch h
theorem blockDispatch : ∀ a b c, Statement (.blockDispatch a b c) :=
  fun _ _ _ => fun _ _ h => nomatch h
theorem blockSave : ∀ a, Statement (.blockSave a) :=
  fun _ => fun _ _ h => nomatch h
theorem blockRestore : ∀ a b c, Statement (.blockRestore a b c) :=
  fun _ _ _ => fun _ _ h => nomatch h
theorem joinWake : ∀ a, Statement (.joinWake a) :=
  fun _ => fun _ _ h => nomatch h
theorem regionComplete : ∀ a, Statement (.regionComplete a) :=
  fun _ => fun _ _ h => nomatch h
theorem preemptDeadline : ∀ a, Statement (.preemptDeadline a) :=
  fun _ => fun _ _ h => nomatch h
theorem handlerDeadlineKill : ∀ a, Statement (.handlerDeadlineKill a) :=
  fun _ => fun _ _ h => nomatch h
theorem doorbellWrite : ∀ a b, Statement (.doorbellWrite a b) :=
  fun _ _ => fun _ _ h => nomatch h
theorem launch : ∀ a, Statement (.launch a) :=
  fun _ => fun _ _ h => nomatch h
theorem preempt : ∀ a, Statement (.preempt a) :=
  fun _ => fun _ _ h => nomatch h
theorem resume : ∀ a, Statement (.resume a) :=
  fun _ => fun _ _ h => nomatch h
theorem kill : ∀ a, Statement (.kill a) :=
  fun _ => fun _ _ h => nomatch h
theorem map : ∀ a, Statement (.map a) :=
  fun _ => fun _ _ h => nomatch h
theorem unmap : ∀ a, Statement (.unmap a) :=
  fun _ => fun _ _ h => nomatch h
theorem migrate : ∀ a, Statement (.migrate a) :=
  fun _ => fun _ _ h => nomatch h
theorem dieReset : ∀ a, Statement (.dieReset a) :=
  fun _ => fun _ _ h => nomatch h
theorem linkPower : ∀ a, Statement (.linkPower a) :=
  fun _ => fun _ _ h => nomatch h
theorem attest : ∀ a, Statement (.attest a) :=
  fun _ => fun _ _ h => nomatch h
theorem traceCfg : ∀ a, Statement (.traceCfg a) :=
  fun _ => fun _ _ h => nomatch h
theorem replayCfg : ∀ a, Statement (.replayCfg a) :=
  fun _ => fun _ _ h => nomatch h
theorem powerCap : ∀ a, Statement (.powerCap a) :=
  fun _ => fun _ _ h => nomatch h
theorem query : ∀ a, Statement (.query a) :=
  fun _ => fun _ _ h => nomatch h
theorem queryWrite : ∀ a, Statement (.queryWrite a) :=
  fun _ => fun _ _ h => nomatch h
theorem boot : ∀ a b, Statement (.boot a b) :=
  fun _ _ => fun _ _ h => nomatch h
theorem powerArbiterTick : Statement (.powerArbiterTick) :=
  fun _ _ h => nomatch h
theorem soundingReplan : Statement (.soundingReplan) :=
  fun _ _ h => nomatch h
theorem hotnessIntervalEnd : ∀ a, Statement (.hotnessIntervalEnd a) :=
  fun _ => fun _ _ h => nomatch h
theorem unassignedOpcode : ∀ a, Statement (.unassignedOpcode a) :=
  fun _ => fun _ _ h => nomatch h
theorem fetchFault : ∀ a b c, Statement (.fetchFault a b c) :=
  fun _ _ _ => fun _ _ h => nomatch h
theorem tldRunLanded : ∀ a b, Statement (.tldRunLanded a b) :=
  fun _ _ => fun _ _ h => nomatch h
theorem homeSliceAccess : ∀ a, Statement (.homeSliceAccess a) :=
  fun _ => fun _ _ h => nomatch h
theorem storeAcknowledged : ∀ a b, Statement (.storeAcknowledged a b) :=
  fun _ _ => fun _ _ h => nomatch h
theorem linkError : ∀ a, Statement (.linkError a) :=
  fun _ => fun _ _ h => nomatch h

end Sys2Proof.Laws.Encoding
end

