-- ==== Sys2Proof/Tests/Slice0.lean ====
section
/-! SUPPORT. Tests: one state and operands for the hypotheses of every statement, words of the spec's encodings,
ill-formed terms, and single steps whose results the spec gives. -/

namespace Sys2Proof.Tests

open Sys2Proof Sys2Proof.Machine Sys2Proof.Safety Sys2Proof.Claims

/-! ## States -/

/-- The placed block with its group changed, and a unit of one word being issued. -/
def issuing (h : Hints) (f : Group → Group) : State :=
  let s := (State.reset.withFetchWord 32 0).modGroup ⟨0, 0⟩ f
  { s with cur := (s.split? ⟨0, 0, 0⟩).map (fun p => curOf ⟨0, 0, 0⟩ p 1 h) }

/-- A format-R instruction without guard, hold and trap. -/
def r (d a b : BitVec 6) : RF := ⟨d, a, b, 0, 0, 0⟩

/-- A state meets the hypotheses of a statement about a unit: it is ready, `pre` holds, and no access of the
step meets an unpopulated address. -/
def Meets (s : State) (u : Iss → Issue) (pre : State → Iss → Prop) (t : State → Iss → State) : Prop :=
  ∃ i, Ready s u i ∧ pre s i ∧ Populated (t s i)

/-- The states that the statements give: complete, moved, waiting, trapped. -/
def ends (u : Iss → Issue) (f : State → Iss → State) : State → Iss → State :=
  fun s i => ended s i (u i) (f s i)
def goes (u : Iss → Issue) (f : State → Iss → State) : State → Iss → State := fun s i => moved i (u i) (f s i)
def waits (w : Iss → Wake) (f : State → Iss → State) : State → Iss → State :=
  fun s i => waiting s i (w i) (f s i)
/-- The trap of a statement. -/
def traps (q : Iss → TrapInfo) : State → Iss → State := fun s i => trapped s i (q i)

theorem meets {s : State} {u : Iss → Issue} {pre : State → Iss → Prop} {t : State → Iss → State}
    [p : ∀ s i, Decidable (pre s i)]
    (h : (match s.iss? with
      | none => false
      | some i => ((u i).refuse i).isNone && ((u i).stall i).isNone && decide (pre s i) &&
          (t s i).badPa.isNone && (t s i).away.isNone) = true) : Meets s u pre t := by
  split at h
  · cases h
  · rename_i i hi
    simp only [Bool.and_eq_true, decide_eq_true_eq, Option.isNone_iff_eq_none] at h
    exact ⟨i, ⟨hi, by simp [h.1.1.1.1], by simp [h.1.1.1.2]⟩, h.1.1.2, h.1.2, h.2⟩

/-- A state with bytes in the scratchpad of its block, and in DRAM. -/
def inScr (a : Nat) (bs : List Byte) (s : State) : State :=
  s.modBlock 0 (fun b => { b with scr := Memory.write b.scr a bs })
def inDram (a : Nat) (bs : List Byte) (s : State) : State := { s with dram := Memory.write s.dram a bs }

/-- A valid barrier object with a count of 1 at 64 in the scratchpad. -/
def withObject (s : State) : State := inScr 64 (bytesOfNat 4 1 ++ bytesOfNat 4 1 ++ [0, 0, 1, 0, 0, 0, 0, 0]) s

/-- Whether a word is the place of an object. -/
def objAligned (i : Iss) (w : Word) (k : AccKind) : Bool :=
  w.toNat % 16 == 0 && (match resolveScr i.b i.g i.r.gref w.toInt 16 k with | .ok _ => true | .error _ => false)

/-- Whether `DYIELD` at s4 watches a word of this value in the scratchpad. -/
def watchedAt (s : State) (i : Iss) (w : Word) : Prop :=
  (match s.watched i.r.gref false (i.g.src 52 0).toInt with
    | .ok (l, v) => l == .scr 0 64 && v == w
    | .error _ => false) = true

/-- The placed block with its frame writable, with every right, under a table entry at 0 of its own. -/
def writable (s : State) : State :=
  let l : Leaf := { codeLeaf with w := true, d := true }
  let a : Attr := { placedHandle.attr with w := true, a := true, row := true }
  let s := s.modGroup ⟨0, 0⟩ (fun g => { g with
    x := g.x.set 2 (.handle { placedHandle with attr := a, frame := some { pa := codePage, leaf := l } })
    ctx := { g.ctx with hcount := 1 } })
  inDram 0x20400 (bytesOfNat 8 codePage ++ bytesOfNat 8 65536 ++ [0xF0, 1])
    { s with cores := [{ Core.empty ⟨0, 0, 0⟩ with tlb := [l] }] }

/-- A state whose core has no room to grow a window, and one whose region has no registers left. -/
def crowded (s : State) : State :=
  { s with blocks := s.blocks ++ [{ placedBlock with groups := [], scrSize := storeLimit - 65536 - 24 * 128 }] }
def overBudget (s : State) : State := s.modRegion 0x20000 (fun q => { q with regu := 0 })

/-! ## The hypotheses of the statements are met -/

/-! ## R131 to R145: integer instructions -/

theorem meets_two_source : Meets (issuing {} id)
    (fun _ => issueR (sigOf (.iadd32 (r 1 2 3))) (r 1 2 3))
    (fun _ _ => True)
    (ends (fun _ => issueR (sigOf (.iadd32 (r 1 2 3))) (r 1 2 3)) (onGroup (fun i => i.g.dst 1 (i.part 0) (fun L => i.g.src 2 L + i.g.src 3 L)))) := meets (by decide)

theorem meets_pair : Meets (issuing {} id)
    (fun _ => issueR (sigOf (.iadd64 (r 2 4 6))) (r 2 4 6))
    (fun _ _ => True)
    (ends (fun _ => issueR (sigOf (.iadd64 (r 2 4 6))) (r 2 4 6)) (onGroup (fun i => i.g.dst64 2 (i.part 0) (fun L => i.g.src64 4 L + i.g.src64 6 L)))) := meets (by decide)

theorem meets_shift_pair : Meets (issuing {} id)
    (fun _ => issueR (sigOf (.shl64 (r 2 4 7))) (r 2 4 7))
    (fun _ _ => True)
    (ends (fun _ => issueR (sigOf (.shl64 (r 2 4 7))) (r 2 4 7)) (onGroup (fun i => i.g.dst64 2 (i.part 0) (fun L => i.g.src64 4 L)))) := meets (by decide)

theorem meets_imad_pair : Meets (issuing {} id)
    (fun _ => issueR (sigOf (.imad64 (r 46 4 6))) (r 46 4 6))
    (fun _ _ => True)
    (ends (fun _ => issueR (sigOf (.imad64 (r 46 4 6))) (r 46 4 6)) (onGroup (fun i => i.g.dst64 46 (i.part 0) (fun L => i.g.src64 4 L)))) := meets (by decide)

theorem meets_one_source : Meets (issuing {} id)
    (fun _ => issueR (sigOf (.iabs (r 47 2 0))) (r 47 2 0))
    (fun _ _ => True)
    (ends (fun _ => issueR (sigOf (.iabs (r 47 2 0))) (r 47 2 0)) (onGroup (fun i => i.g.dst 47 (i.part 0) (fun L => i.g.src 2 L)))) := meets (by decide)

theorem meets_mov_pair : Meets (issuing {} id)
    (fun _ => issueR (sigOf (.mov64 (r 2 62 0))) (r 2 62 0))
    (fun _ _ => True)
    (ends (fun _ => issueR (sigOf (.mov64 (r 2 62 0))) (r 2 62 0)) (onGroup (fun i => i.g.dst64 2 (i.part 0) (fun L => i.g.src64 62 L)))) := meets (by decide)

theorem meets_third_source : Meets (issuing {} id)
    (fun _ => issueR (sigOf (.fsh (r 48 49 50))) (r 48 49 50))
    (fun _ _ => True)
    (ends (fun _ => issueR (sigOf (.fsh (r 48 49 50))) (r 48 49 50)) (onGroup (fun i => i.g.dst 48 (i.part 0) (fun L => i.g.src 49 L)))) := meets (by decide)

theorem meets_carry : Meets (issuing {} id)
    (fun _ => issueR (sigOf (.iaddc32 (r 1 2 3))) (r 1 2 3))
    (fun _ _ => True)
    (ends (fun _ => issueR (sigOf (.iaddc32 (r 1 2 3))) (r 1 2 3)) (onGroup (fun i => (i.g.dst 1 (i.part 0) (fun L => i.g.src 2 L)).setPred 7 (carryLanes i (r 1 2 3)) (fun _ => true)))) := meets (by decide)

theorem meets_field_length : Meets (issuing {} (fun g => g.vSet 3 feFull (fun _ => 0x2000)))
    (fun _ => issueR (sigOf (.bfxN (r 1 2 3))) (r 1 2 3))
    (lengthsOk (sigOf (.bfxN (r 1 2 3))) (r 1 2 3))
    (ends (fun _ => issueR (sigOf (.bfxN (r 1 2 3))) (r 1 2 3)) (onGroup (fun i => i.g.dst 1 (i.part 0) (fun L => i.g.src 2 L)))) := meets
    (p := fun _ _ => by dsimp only [lengthsOk]; infer_instance) (by decide)

theorem meets_field_too_long : Meets (issuing {} (fun g => g.vSet 3 feFull (fun _ => 0x2100)))
    (fun _ => issueR (sigOf (.bfxN (r 1 2 3))) (r 1 2 3))
    (fun s i => ¬ lengthsOk (sigOf (.bfxN (r 1 2 3))) (r 1 2 3) s i)
    (traps (fun _ => { cause := cIllegalOperand, opnd := 2 })) := meets
    (p := fun _ _ => by dsimp only [lengthsOk]; infer_instance) (by decide)

theorem meets_sel : Meets (issuing {} id)
    (fun _ => issueR (sigOf (.sel ⟨1, 2, 3, 7, 0, 0⟩)) ⟨1, 2, 3, 7, 0, 0⟩)
    (fun _ _ => True)
    (ends (fun _ => issueR (sigOf (.sel ⟨1, 2, 3, 7, 0, 0⟩)) ⟨1, 2, 3, 7, 0, 0⟩) (onGroup (fun i => i.g.dst 1 i.cur.active (fun L => i.g.src 2 L)))) := meets (by decide)

theorem meets_icmp : Meets (issuing {} id)
    (fun _ => issueR (sigOf (.icmp32 (r 63 2 3))) (r 63 2 3))
    (fun _ _ => True)
    (ends (fun _ => issueR (sigOf (.icmp32 (r 63 2 3))) (r 63 2 3)) (onGroup (fun i => i.g.setPred 7 (i.part 0) (fun _ => true)))) := meets (by decide)

theorem meets_icmp_pair : Meets (issuing {} id)
    (fun _ => issueR (sigOf (.icmp64 (r 1 2 4))) (r 1 2 4))
    (fun _ _ => True)
    (ends (fun _ => issueR (sigOf (.icmp64 (r 1 2 4))) (r 1 2 4)) (onGroup (fun i => i.g.setPred 1 (i.part 0) (fun _ => true)))) := meets (by decide)

theorem meets_icmp_imm : Meets (issuing {} id)
    (fun _ => issueI (sigOf (.icmpi32 ⟨1, 2, 0xFFF⟩)))
    (fun _ _ => True)
    (ends (fun _ => issueI (sigOf (.icmpi32 ⟨1, 2, 0xFFF⟩))) (onGroup (fun i => i.g.setPred 1 i.cur.active (fun _ => true)))) := meets (by decide)

theorem meets_kop : Meets (issuing {} id)
    (fun _ => issueR (sigOf (.kop (r 57 1 7))) (r 57 1 7))
    (fun _ _ => True)
    (ends (fun _ => issueR (sigOf (.kop (r 57 1 7))) (r 57 1 7)) (onGroup (fun i => i.g.setPred 1 (i.part 0) (fun _ => true)))) := meets (by decide)

theorem meets_kmov_kv : Meets (issuing {} id)
    (fun _ => issueR (sigOf (.kmovKv (r 1 63 0))) (r 1 63 0))
    (fun _ _ => True)
    (ends (fun _ => issueR (sigOf (.kmovKv (r 1 63 0))) (r 1 63 0)) (onGroup (fun i => i.g.setPred 1 (i.part 0) (fun _ => true)))) := meets (by decide)

theorem meets_kmov_vk : Meets (issuing {} id)
    (fun _ => issueR (sigOf (.kmovVk (r 63 7 0))) (r 63 7 0))
    (fun _ _ => True)
    (ends (fun _ => issueR (sigOf (.kmovVk (r 63 7 0))) (r 63 7 0)) (onGroup (fun i => i.g.sSet 15 0))) := meets (by decide)

theorem meets_immediate : Meets (issuing {} id)
    (fun _ => issueI (sigOf (.andi ⟨1, 2, 0xFFF⟩)))
    (fun _ _ => True)
    (ends (fun _ => issueI (sigOf (.andi ⟨1, 2, 0xFFF⟩))) (onGroup (fun i => i.g.dst 1 i.cur.active (fun L => i.g.src 2 L)))) := meets (by decide)

theorem meets_immediate_pair : Meets (issuing { ximm := some 0xFFFFFF } id)
    (fun _ => issueI (sigOf (.iaddi64 ⟨2, 4, 0⟩)))
    (fun _ _ => True)
    (ends (fun _ => issueI (sigOf (.iaddi64 ⟨2, 4, 0⟩))) (onGroup (fun i => i.g.dst64 2 i.cur.active (fun L => i.g.src64 4 L)))) := meets (by decide)

theorem meets_shift_imm : Meets (issuing {} id)
    (fun i => { issueI (sigOf (.sari ⟨1, 2, 31⟩)) with field := if 0 ≤ immSigned i.cur.hints ⟨1, 2, 31⟩ ∧ immSigned i.cur.hints ⟨1, 2, 31⟩ ≤ 31 then none else some .other })
    (fun _ _ => True)
    (ends (fun i => { issueI (sigOf (.sari ⟨1, 2, 31⟩)) with field := if 0 ≤ immSigned i.cur.hints ⟨1, 2, 31⟩ ∧ immSigned i.cur.hints ⟨1, 2, 31⟩ ≤ 31 then none else some .other }) (onGroup (fun i => i.g.dst 1 i.cur.active (fun L => i.g.src 2 L)))) := meets (by decide)

theorem meets_movi : Meets (issuing {} id)
    (fun _ => issueI (sigOf (.movi ⟨47, 0x3FFFF⟩)))
    (fun _ i => i.cur.hints.ximm = none)
    (ends (fun _ => issueI (sigOf (.movi ⟨47, 0x3FFFF⟩))) (onGroup (fun i => i.g.dst 47 i.cur.active (fun _ => 0)))) := meets (by decide)

theorem meets_movi_long : Meets (issuing { ximm := some 0x3FFF } id)
    (fun _ => issueI (sigOf (.movi ⟨47, 0⟩)))
    (fun _ i => i.cur.hints.ximm = some 0x3FFF)
    (ends (fun _ => issueI (sigOf (.movi ⟨47, 0⟩))) (onGroup (fun i => i.g.dst 47 i.cur.active (fun _ => 0)))) := meets (by decide)

theorem meets_movhi : Meets (issuing {} id)
    (fun _ => issueI (sgMov ⟨47, 1⟩ true))
    (fun _ i => i.cur.hints.ximm = none)
    (ends (fun _ => issueI (sgMov ⟨47, 1⟩ true)) (onGroup (fun i => i.g.dst 47 i.cur.active (fun _ => 0)))) := meets (by decide)

theorem meets_movhi_pair : Meets (issuing { ximm := some 0x3FFF } id)
    (fun _ => issueI { sgMov ⟨46, 1⟩ false with d := 47 })
    (fun _ i => i.cur.hints.ximm = some 0x3FFF)
    (ends (fun _ => issueI { sgMov ⟨46, 1⟩ false with d := 47 }) (onGroup (fun i => i.g.dst 47 i.cur.active (fun _ => 0)))) := meets (by decide)

/-! ## R147 to R151: lanes -/

theorem meets_shuffle : Meets (issuing {} (fun g => g.vSet 3 feFull (fun _ => 0xBF)))
    (fun i => { issueR (sigOf (.shflUp (r 1 2 3))) (r 1 2 3) with aMask := some (i.shflReads (r 1 2 3) .up) })
    (fun _ i => ∀ L ∈ lanesOf (i.part 0), (i.g.src 3 L).toNat / 32 % 8 ≤ 5)
    (ends (fun i => { issueR (sigOf (.shflUp (r 1 2 3))) (r 1 2 3) with aMask := some (i.shflReads (r 1 2 3) .up) }) (onGroup (fun i => i.g.vSet 1 (i.part 0) (fun _ => 0)))) := meets (by decide +kernel)

theorem meets_shuffle_segment : Meets (issuing {} (fun g => g.vSet 3 feFull (fun _ => 0xC0)))
    (fun i => { issueR (sigOf (.shflUp (r 1 2 3))) (r 1 2 3) with aMask := some (i.shflReads (r 1 2 3) .up) })
    (fun _ i => ¬ (∀ L ∈ lanesOf (i.part 0), (i.g.src 3 L).toNat / 32 % 8 ≤ 5))
    (traps (fun _ => { cause := cIllegalOperand, opnd := 2 })) := meets (by decide +kernel)

theorem meets_vote : Meets (issuing {} id)
    (fun _ => issueR (sigOf (.voteAll (r 7 15 7))) (r 7 15 7))
    (fun _ _ => True)
    (ends (fun _ => issueR (sigOf (.voteAll (r 7 15 7))) (r 7 15 7)) (onGroup (fun i => i.g.setPred 7 (i.part 0) (fun _ => true)))) := meets (by decide)

theorem meets_ballot : Meets (issuing {} id)
    (fun _ => { issueR (sigOf (.voteBallot (r 63 1 0))) (r 63 1 0) with sx := [15] })
    (fun _ _ => True)
    (ends (fun _ => { issueR (sigOf (.voteBallot (r 63 1 0))) (r 63 1 0) with sx := [15] }) (onGroup (fun i => i.g.sSet 15 0))) := meets (by decide)

theorem meets_redux : Meets (issuing {} id)
    (fun _ => issueR (sigOf (.redux (r 63 2 0x3F))) (r 63 2 0x3F))
    (fun _ _ => True)
    (ends (fun _ => issueR (sigOf (.redux (r 63 2 0x3F))) (r 63 2 0x3F)) (onGroup (fun i => i.g.sSet 15 0))) := meets (by decide)

theorem meets_match_set : Meets (issuing {} id)
    (fun _ => issueR (sigOf (.matchSet (r 3 2 0))) (r 3 2 0))
    (fun _ _ => True)
    (ends (fun _ => issueR (sigOf (.matchSet (r 3 2 0))) (r 3 2 0)) (onGroup (fun i => i.g.vSet 3 (i.part 0) (fun _ => 0)))) := meets (by decide)

theorem meets_match_lead : Meets (issuing {} id)
    (fun _ => issueR (sigOf (.matchLead (r 3 2 1))) (r 3 2 1))
    (fun _ _ => True)
    (ends (fun _ => issueR (sigOf (.matchLead (r 3 2 1))) (r 3 2 1)) (onGroup (fun i => i.g.vSet 3 (i.part 0) (fun _ => 0)))) := meets (by decide)

theorem meets_laneb : Meets (issuing {} id)
    (fun i => { issueR (sigOf (.laneb (r 63 2 48))) (r 63 2 48) with aMask := some (maskOf (fun L => L == (i.g.sGet 0).toNat % 32)) })
    (fun _ _ => True)
    (ends (fun i => { issueR (sigOf (.laneb (r 63 2 48))) (r 63 2 48) with aMask := some (maskOf (fun L => L == (i.g.sGet 0).toNat % 32)) }) (onGroup (fun i => i.g.sSet 15 0))) := meets (by decide)

/-! ## R157 to R177: floating point -/

theorem meets_fp_arith : Meets (issuing { xrnd := some 0x63 } id)
    (fun _ => issueF (sigOf (.faddF32 (r 1 2 3))) (r 1 2 3) rnd2)
    (fun _ _ => True)
    (ends (fun _ => issueF (sigOf (.faddF32 (r 1 2 3))) (r 1 2 3) rnd2) (onGroup (fun i => i.g.dst 1 (i.part 0) (fun _ => 0)))) := meets (by decide)

theorem meets_fp_fused : Meets (issuing { xsrc := some 0x7F, xrnd := some 0xE3 } id)
    (issueF3 (sigOf (.ffmaF32 (r 1 2 3))) 1 (r 1 2 3))
    (fun _ _ => True)
    (ends (issueF3 (sigOf (.ffmaF32 (r 1 2 3))) 1 (r 1 2 3)) (onGroup (fun i => i.g.dst 1 (i.part 0) (fun _ => 0)))) := meets (by decide)

theorem meets_fp_dot : Meets (issuing {} id)
    (issueF3 (sigOf (.fdot2H2 (r 1 2 3))) 1 (r 1 2 3))
    (fun _ _ => True)
    (ends (issueF3 (sigOf (.fdot2H2 (r 1 2 3))) 1 (r 1 2 3)) (onGroup (fun i => i.g.dst 1 (i.part 0) (fun _ => 0)))) := meets (by decide)

theorem meets_fp_minmax : Meets (issuing {} id)
    (fun _ => issueF (sigOf (.fminF64 (r 2 4 6))) (r 2 4 6) rndC)
    (fun _ _ => True)
    (ends (fun _ => issueF (sigOf (.fminF64 (r 2 4 6))) (r 2 4 6) rndC) (onGroup (fun i => i.g.dst64 2 (i.part 0) (fun _ => 0)))) := meets (by decide)

theorem meets_fp_compare : Meets (issuing {} id)
    (fun _ => issueF (sigOf (.fcmpH2 (r 62 2 3))) (r 62 2 3) rndC)
    (fun _ _ => True)
    (ends (fun _ => issueF (sigOf (.fcmpH2 (r 62 2 3))) (r 62 2 3) rndC) (onGroup (fun i => i.g.setPred 6 (i.part 0) (fun _ => true)))) := meets (by decide)

theorem meets_fp_abs : Meets (issuing {} id)
    (fun _ => issueF (sigOf (.fabs (r 1 2 3))) (r 1 2 3) (fun _ => false))
    (fun _ _ => True)
    (ends (fun _ => issueF (sigOf (.fabs (r 1 2 3))) (r 1 2 3) (fun _ => false)) (onGroup (fun i => i.g.dst 1 (i.part 0) (fun _ => 0)))) := meets (by decide)

theorem meets_fp_copysign : Meets (issuing {} id)
    (fun _ => issueF (sigOf (.fcpysF64 (r 2 4 6))) (r 2 4 6) (fun _ => false))
    (fun _ _ => True)
    (ends (fun _ => issueF (sigOf (.fcpysF64 (r 2 4 6))) (r 2 4 6) (fun _ => false)) (onGroup (fun i => i.g.dst64 2 (i.part 0) (fun _ => 0)))) := meets (by decide)

theorem meets_fp_class : Meets (issuing {} id)
    (fun _ => issueF (sigOf (.fclass (r 1 2 0))) (r 1 2 0) (fun _ => false))
    (fun _ _ => True)
    (ends (fun _ => issueF (sigOf (.fclass (r 1 2 0))) (r 1 2 0) (fun _ => false)) (onGroup (fun i => i.g.dst 1 (i.part 0) (fun _ => 0)))) := meets (by decide)

theorem meets_fp_round : Meets (issuing {} id)
    (fun _ => issueF (sigOf (.frnd (r 1 2 0x1F))) (r 1 2 0x1F) rndV)
    (fun _ _ => True)
    (ends (fun _ => issueF (sigOf (.frnd (r 1 2 0x1F))) (r 1 2 0x1F) rndV) (onGroup (fun i => i.g.dst 1 (i.part 0) (fun _ => 0)))) := meets (by decide)

theorem meets_fp_sqrt : Meets (issuing {} id)
    (fun _ => issueF (sigOf (.fsqrtF32 (r 1 2 0))) (r 1 2 0) rndA)
    (fun _ _ => True)
    (ends (fun _ => issueF (sigOf (.fsqrtF32 (r 1 2 0))) (r 1 2 0) rndA) (onGroup (fun i => i.g.dst 1 (i.part 0) (fun _ => 0)))) := meets (by decide)

theorem meets_fp_ldx : Meets (issuing {} id)
    (fun _ => issueF (sigOf (.fldxF64 (r 2 4 7))) (r 2 4 7) rndA)
    (fun _ _ => True)
    (ends (fun _ => issueF (sigOf (.fldxF64 (r 2 4 7))) (r 2 4 7) rndA) (onGroup (fun i => i.g.dst64 2 (i.part 0) (fun _ => 0)))) := meets (by decide)

theorem meets_fp_frac : Meets (issuing {} id)
    (fun _ => issueF (sigOf (.ffrxF32Frac (r 1 2 0))) (r 1 2 0) (fun _ => false))
    (fun _ _ => True)
    (ends (fun _ => issueF (sigOf (.ffrxF32Frac (r 1 2 0))) (r 1 2 0) (fun _ => false)) (onGroup (fun i => i.g.dst 1 (i.part 0) (fun _ => 0)))) := meets (by decide)

theorem meets_fp_exp : Meets (issuing {} id)
    (fun _ => issueF (sigOf (.ffrxF64Exp (r 1 2 1))) (r 1 2 1) (fun _ => false))
    (fun _ _ => True)
    (ends (fun _ => issueF (sigOf (.ffrxF64Exp (r 1 2 1))) (r 1 2 1) (fun _ => false)) (onGroup (fun i => i.g.dst 1 (i.part 0) (fun _ => 0)))) := meets (by decide)

theorem meets_fp_approx : Meets (issuing {} id)
    (fun _ => issueF (sigOf (.frcpF32 (r 1 2 0))) (r 1 2 0) rndV)
    (fun _ _ => True)
    (ends (fun _ => issueF (sigOf (.frcpF32 (r 1 2 0))) (r 1 2 0) rndV) (onGroup (fun i => i.g.dst 1 (i.part 0) (fun _ => 0)))) := meets (by decide)

theorem meets_cvt_ff : Meets (issuing {} id)
    (fun _ => issueF (sigOf (.cvtff (r 2 4 0x3A))) (r 2 4 0x3A) rndA)
    (fun _ _ => True)
    (ends (fun _ => issueF (sigOf (.cvtff (r 2 4 0x3A))) (r 2 4 0x3A) rndA) (onGroup (fun i => i.g.dst 2 (i.part 0) (fun _ => 0)))) := meets (by decide)

theorem meets_cvt_fi : Meets (issuing {} id)
    (fun _ => issueF (sigOf (.cvtfi (r 2 4 0xD))) (r 2 4 0xD) rndA)
    (fun _ _ => True)
    (ends (fun _ => issueF (sigOf (.cvtfi (r 2 4 0xD))) (r 2 4 0xD) rndA) (onGroup (fun i => i.g.dst64 2 (i.part 0) (fun _ => 0)))) := meets (by decide)

theorem meets_cvt_if : Meets (issuing {} id)
    (fun _ => issueF (sigOf (.cvtif (r 2 4 0xC))) (r 2 4 0xC) (rndOk true false false false false))
    (fun _ _ => True)
    (ends (fun _ => issueF (sigOf (.cvtif (r 2 4 0xC))) (r 2 4 0xC) (rndOk true false false false false)) (onGroup (fun i => i.g.dst64 2 (i.part 0) (fun _ => 0)))) := meets (by decide)

theorem meets_pk8 : Meets (issuing {} (fun g => g.vSet 3 feFull (fun _ => 0x39F)))
    (issueP (sigOf (.pk8 (r 1 2 3))) (r 1 2 3) true true true)
    (formatsOk (r 1 2 3) (fun n => (b8Of n).isSome))
    (ends (issueP (sigOf (.pk8 (r 1 2 3))) (r 1 2 3) true true true) (onGroup (fun i => i.g.dst 1 (i.part 0) (fun _ => 0)))) := meets
    (p := fun _ _ => by dsimp only [formatsOk]; infer_instance) (by decide)

theorem meets_unpk8 : Meets (issuing {} (fun g => g.vSet 3 feFull (fun _ => 0x304)))
    (issueP (sigOf (.unpk8 (r 1 2 3))) (r 1 2 3) true false false)
    (formatsOk (r 1 2 3) (fun n => (b8Of n).isSome || n == 3 || n == 4))
    (ends (issueP (sigOf (.unpk8 (r 1 2 3))) (r 1 2 3) true false false) (onGroup (fun i => i.g.dst 1 (i.part 0) (fun _ => 0)))) := meets
    (p := fun _ _ => by dsimp only [formatsOk]; infer_instance) (by decide)

theorem meets_pkbs : Meets (issuing {} (fun g => g.vSet 3 feFull (fun _ => 0x3FF81)))
    (issueP (sigOf (.pkbs (r 1 2 3))) (r 1 2 3) false true true)
    (formatsOk (r 1 2 3) (fun n => (b8Of n).isSome))
    (ends (issueP (sigOf (.pkbs (r 1 2 3))) (r 1 2 3) false true true) (onGroup (fun i => i.g.dst 1 (i.part 0) (fun _ => 0)))) := meets
    (p := fun _ _ => by dsimp only [formatsOk]; infer_instance) (by decide)

/-! ## R182 to R194: control -/

theorem meets_branch_not_taken : Meets (issuing {} id)
    (fun _ => issueB (sigOf (.bra ⟨1, 0, 0⟩)) [] true [])
    (fun _ i => takenB i ⟨1, 0, 0⟩ = 0)
    (ends (fun _ => issueB (sigOf (.bra ⟨1, 0, 0⟩)) [] true []) (onGroup (fun i => i.g))) := meets (by decide)

theorem meets_branch_taken : Meets (issuing { xsch := some 0x100 } id)
    (fun _ => issueB (sigOf (.bra ⟨0, 0, 0xFFFFF⟩)) [] false [])
    (fun _ i => takenB i ⟨0, 0, 0xFFFFF⟩ ≠ 0 ∧ takenB i ⟨0, 0, 0xFFFFF⟩ = i.p.mask)
    (goes (fun _ => issueB (sigOf (.bra ⟨0, 0, 0xFFFFF⟩)) [] false []) (fun s i => jump s i i.g (branchTo i ⟨0, 0, 0xFFFFF⟩) (yieldsB i ⟨0, 0, 0xFFFFF⟩))) := meets (by decide)

theorem meets_branch_divides : Meets (issuing { xrcv := some 2 } (fun g => g.kSet 1 feFull 1))
    (fun _ => issueB (sigOf (.bra ⟨1, 0, 1⟩)) [] true [])
    (fun _ i => takenB i ⟨1, 0, 1⟩ ≠ 0 ∧ takenB i ⟨1, 0, 1⟩ ≠ i.p.mask ∧ (i.g.divide i.r.sp (i.cur.next, i.p.mask &&& ~~~takenB i ⟨1, 0, 1⟩) [(branchTo i ⟨1, 0, 1⟩, takenB i ⟨1, 0, 1⟩)] i.ra).isSome)
    (goes (fun _ => issueB (sigOf (.bra ⟨1, 0, 1⟩)) [] true []) (fun s i => split s i ((i.g.divide i.r.sp (i.cur.next, i.p.mask &&& ~~~takenB i ⟨1, 0, 1⟩) [(branchTo i ⟨1, 0, 1⟩, takenB i ⟨1, 0, 1⟩)] i.ra).getD i.g) (branchTo i ⟨1, 0, 1⟩) false)) := meets (by decide)

theorem meets_brau_divided : Meets (issuing {} (fun g => g.kSet 1 feFull 1))
    (fun _ => issueB (sigOf (.brau ⟨1, 0, 1⟩)) [] false [])
    (fun _ i => takenB i ⟨1, 0, 1⟩ ≠ 0 ∧ takenB i ⟨1, 0, 1⟩ ≠ i.p.mask)
    (traps (fun _ => { cause := cSplitLimit, detail := 1 })) := meets (by decide)

theorem meets_bdec_ends : Meets (issuing {} (fun g => g.sSet 7 1))
    (fun _ => issueB (sigOf (.bdec ⟨7, 0, 0⟩)) [] false [7])
    (fun _ i => BitVec.ofInt 32 ((i.g.sGet 7).toNat - 1 : Int) = 0)
    (ends (fun _ => issueB (sigOf (.bdec ⟨7, 0, 0⟩)) [] false [7]) (onGroup (fun i => i.g.sSet 7 0))) := meets (by decide)

theorem meets_bdec_wraps : Meets (issuing {} id)
    (fun _ => issueB (sigOf (.bdec ⟨7, 0, 0⟩)) [] false [7])
    (fun _ i => BitVec.ofInt 32 ((i.g.sGet 7).toNat - 1 : Int) ≠ 0 ∧ i.p.mask ≠ 0)
    (goes (fun _ => issueB (sigOf (.bdec ⟨7, 0, 0⟩)) [] false [7]) (fun s i => jump s i (i.g.sSet 7 (BitVec.allOnes 32)) (branchTo i ⟨7, 0, 0⟩) false)) := meets (by decide)

theorem meets_brx_one : Meets (issuing {} id)
    (fun _ => { sig := sigOf (.brx (r 0 2 0)), acc := accC true, f := some false })
    (fun _ i => (∀ L ∈ lanesOf (i.part 0 &&& i.p.mask), (i.g.src 2 L).toNat % 4 = 0) ∧ i.p.mask ≠ 0 ∧ ∀ L ∈ lanesOf i.p.mask, laneTo i (r 0 2 0) (fun L => i.g.src 2 L) L = 0)
    (goes (fun _ => { sig := sigOf (.brx (r 0 2 0)), acc := accC true, f := some false }) (fun s i => traceTaken ((s.putGroup i.r.gref i.g).goto i 0) i (r 0 2 0) [(0, i.p.mask)])) := meets (by decide)

theorem meets_brx_two : Meets (issuing { xrcv := some 0 } (fun g => g.vSet 2 1 (fun _ => 4)))
    (fun _ => { sig := sigOf (.brx (r 0 2 0)), acc := accC true, f := some false })
    (fun _ i => (∀ L ∈ lanesOf (i.part 0 &&& i.p.mask), (i.g.src 2 L).toNat % 4 = 0) ∧ (i.dests (i.part 0 &&& i.p.mask) (fun L => i.g.src 2 L)).length = 2)
    (goes (fun _ => { sig := sigOf (.brx (r 0 2 0)), acc := accC true, f := some false }) (fun s i => s.modSplit i.r (fun p => { p with lastIssue := s.steps }))) := meets (by decide)

theorem meets_brx_misaligned : Meets (issuing {} (fun g => g.vSet 2 1 (fun _ => 2)))
    (fun _ => { sig := sigOf (.brx (r 0 2 0)), acc := accC true, f := some false })
    (fun _ i => ¬ (∀ L ∈ lanesOf (i.part 0 &&& i.p.mask), (i.g.src 2 L).toNat % 4 = 0))
    (traps (fun _ => { cause := cMisaligned })) := meets (by decide)

theorem meets_yield : Meets (issuing {} id)
    (fun _ => issueC (sigOf (.yield (r 0 0 0))))
    (fun _ _ => True)
    (waits (fun _ => .yielded) (fun s _ => s)) := meets (by decide)

theorem meets_exit : Meets (issuing {} id)
    (fun _ => issueC (sigOf (.exit (r 0 0 0))))
    (fun _ i => i.g.gates = [] ∧ i.g.level = 0)
    (ends (fun _ => issueC (sigOf (.exit (r 0 0 0)))) (fun s i => s.modGroup i.r.gref (fun g => g.exitLanes (i.part 0)))) := meets (by decide)

theorem meets_exit_in_handler : Meets (issuing {} (fun g => { g with level := 1 }))
    (fun _ => issueC (sigOf (.exit (r 0 0 0))))
    (fun _ i => i.g.gates ≠ [] ∨ i.g.level ≠ 0)
    (traps (fun _ => { cause := cProtection, detail := 6 })) := meets (by decide)

theorem meets_nop : Meets (issuing {} id)
    (fun _ => issueC (sigOf (.nop (r 0 0 0))))
    (fun _ _ => True)
    (ends (fun _ => issueC (sigOf (.nop (r 0 0 0)))) (fun s _ => s)) := meets (by decide)

theorem meets_trap : Meets (issuing {} id)
    (fun _ => issueC (sigOf (.trap ⟨0, 0, 0, 63⟩)))
    (fun _ _ => True)
    (goes (fun _ => issueC (sigOf (.trap ⟨0, 0, 0, 63⟩))) (fun s i => (s.goto i i.cur.next).trapAt i.r { cause := cSoft, detail := 63 } i.cur.next)) := meets (by decide)

/-! ## R228 to R241: memory -/

theorem meets_load_scratchpad : Meets (issuing {} id)
    (fun _ => issueMem (sigOf (.ld32 ⟨5, 4, 0, 0, 0, 0, 0⟩)) false)
    (fun s i => alignedAt i (sigOf (.ld32 ⟨5, 4, 0, 0, 0, 0, 0⟩)) ⟨5, 4, 0, 0, 0, 0, 0⟩ 4 ∧ accessible s i (sigOf (.ld32 ⟨5, 4, 0, 0, 0, 0, 0⟩)) ⟨5, 4, 0, 0, 0, 0, 0⟩ 4 .load false)
    (ends (fun _ => issueMem (sigOf (.ld32 ⟨5, 4, 0, 0, 0, 0, 0⟩)) false) (fun s i =>
      let o := orderOf s i ⟨5, 4, 0, 0, 0, 0, 0⟩ .load false
      let q := placesOf s i (sigOf (.ld32 ⟨5, 4, 0, 0, 0, 0, 0⟩)) ⟨5, 4, 0, 0, 0, 0, 0⟩ 4 .load false
      let v := readLanes i 4 o (fun _ => [0]) q.2 (okAll q.1)
      v.2.2.takeEntry i o v.2.1 false)) := meets
    (p := fun _ _ => by dsimp only [alignedAt, accessible]; infer_instance) (by decide)

theorem meets_load_acquire : Meets (issuing {} id)
    (fun _ => issueMem (sigOf (.ld64 ⟨46, 4, 2, 0, 2, 0, 2⟩)) false)
    (fun s i => alignedAt i (sigOf (.ld64 ⟨46, 4, 2, 0, 2, 0, 2⟩)) ⟨46, 4, 2, 0, 2, 0, 2⟩ 8 ∧ accessible s i (sigOf (.ld64 ⟨46, 4, 2, 0, 2, 0, 2⟩)) ⟨46, 4, 2, 0, 2, 0, 2⟩ 8 .load false)
    (ends (fun _ => issueMem (sigOf (.ld64 ⟨46, 4, 2, 0, 2, 0, 2⟩)) false) (fun s i =>
      let o := orderOf s i ⟨46, 4, 2, 0, 2, 0, 2⟩ .load false
      let q := placesOf s i (sigOf (.ld64 ⟨46, 4, 2, 0, 2, 0, 2⟩)) ⟨46, 4, 2, 0, 2, 0, 2⟩ 8 .load false
      let v := readLanes i 8 o (fun _ => [0]) q.2 (okAll q.1)
      v.2.2.takeEntry i o v.2.1 false)) := meets
    (p := fun _ _ => by dsimp only [alignedAt, accessible]; infer_instance) (by decide +kernel)

theorem meets_store_release : Meets (issuing {} id)
    (fun _ => issueMem (sigOf (.st32 ⟨5, 4, 0, 0, 3, 0, 2⟩)) false)
    (fun s i => alignedAt i (sigOf (.st32 ⟨5, 4, 0, 0, 3, 0, 2⟩)) ⟨5, 4, 0, 0, 3, 0, 2⟩ 4 ∧ accessible s i (sigOf (.st32 ⟨5, 4, 0, 0, 3, 0, 2⟩)) ⟨5, 4, 0, 0, 3, 0, 2⟩ 4 .store false ∧ ((orderOf s i ⟨5, 4, 0, 0, 3, 0, 2⟩ .store false).releases = true → (boundAt s i ⟨5, 4, 0, 0, 3, 0, 2⟩ .store).releaseReady i.r = true))
    (ends (fun _ => issueMem (sigOf (.st32 ⟨5, 4, 0, 0, 3, 0, 2⟩)) false) (fun s i =>
      let o := orderOf s i ⟨5, 4, 0, 0, 3, 0, 2⟩ .store false
      let q := placesOf s i (sigOf (.st32 ⟨5, 4, 0, 0, 3, 0, 2⟩)) ⟨5, 4, 0, 0, 3, 0, 2⟩ 4 .store false
      let r := q.2.preRelease i o
      writeLanes i ⟨5, 4, 0, 0, 3, 0, 2⟩ 1 4 o r.1 r.2 (okPrefix q.1))) := meets
    (p := fun _ _ => by dsimp only [alignedAt, accessible]; infer_instance) (by decide)

theorem meets_store_wide : Meets (issuing {} (fun g => g.vSet 4 feFull (fun L => BitVec.ofNat 32 (16 * L))))
    (fun _ => issueMem (sigOf (.st128 ⟨4, 4, 1, 0, 0, 0, 0⟩)) false)
    (fun s i => alignedAt i (sigOf (.st128 ⟨4, 4, 1, 0, 0, 0, 0⟩)) ⟨4, 4, 1, 0, 0, 0, 0⟩ 16 ∧ accessible s i (sigOf (.st128 ⟨4, 4, 1, 0, 0, 0, 0⟩)) ⟨4, 4, 1, 0, 0, 0, 0⟩ 16 .store false ∧ ((orderOf s i ⟨4, 4, 1, 0, 0, 0, 0⟩ .store false).releases = true → (boundAt s i ⟨4, 4, 1, 0, 0, 0, 0⟩ .store).releaseReady i.r = true))
    (ends (fun _ => issueMem (sigOf (.st128 ⟨4, 4, 1, 0, 0, 0, 0⟩)) false) (fun s i =>
      let o := orderOf s i ⟨4, 4, 1, 0, 0, 0, 0⟩ .store false
      let q := placesOf s i (sigOf (.st128 ⟨4, 4, 1, 0, 0, 0, 0⟩)) ⟨4, 4, 1, 0, 0, 0, 0⟩ 16 .store false
      let r := q.2.preRelease i o
      writeLanes i ⟨4, 4, 1, 0, 0, 0, 0⟩ 4 16 o r.1 r.2 (okPrefix q.1))) := meets
    (p := fun _ _ => by dsimp only [alignedAt, accessible]; infer_instance) (by decide)

theorem meets_atomic : Meets (issuing {} id)
    (fun _ => issueMem (sigOf (.amoAdd32 ⟨5, 4, 0, 0, 3, 1, 2⟩)) false)
    (fun s i => alignedAt i (sigOf (.amoAdd32 ⟨5, 4, 0, 0, 3, 1, 2⟩)) ⟨5, 4, 0, 0, 3, 1, 2⟩ 4 ∧ accessible s i (sigOf (.amoAdd32 ⟨5, 4, 0, 0, 3, 1, 2⟩)) ⟨5, 4, 0, 0, 3, 1, 2⟩ 4 .atomic true ∧ (placesOf s i (sigOf (.amoAdd32 ⟨5, 4, 0, 0, 3, 1, 2⟩)) ⟨5, 4, 0, 0, 3, 1, 2⟩ 4 .atomic true).2.anyHeld i (placesOf s i (sigOf (.amoAdd32 ⟨5, 4, 0, 0, 3, 1, 2⟩)) ⟨5, 4, 0, 0, 3, 1, 2⟩ 4 .atomic true).1 = false ∧ ((orderOf s i ⟨5, 4, 0, 0, 3, 1, 2⟩ .atomic true).releases = true → (boundAt s i ⟨5, 4, 0, 0, 3, 1, 2⟩ .atomic).releaseReady i.r = true))
    (ends (fun _ => issueMem (sigOf (.amoAdd32 ⟨5, 4, 0, 0, 3, 1, 2⟩)) false) (fun s i =>
      let o := orderOf s i ⟨5, 4, 0, 0, 3, 1, 2⟩ .atomic true
      let q := placesOf s i (sigOf (.amoAdd32 ⟨5, 4, 0, 0, 3, 1, 2⟩)) ⟨5, 4, 0, 0, 3, 1, 2⟩ 4 .atomic true
      let r := q.2.preRelease i o
      let v := updateLanes i ⟨5, 4, 0, 0, 3, 1, 2⟩ 4 1 (fun _ old d _ => (some (old + d), 0)) o r.1 r.2 (okPrefix q.1)
      v.2.2.2.takeEntry i o v.2.1 false)) := meets
    (p := fun _ _ => by dsimp only [alignedAt, accessible]; infer_instance) (by decide)

theorem meets_misaligned : Meets (issuing {} (fun g => g.vSet 4 feFull (fun L => BitVec.ofNat 32 (2 * L))))
    (fun _ => issueMem (sigOf (.ld32 ⟨5, 4, 0, 0, 0, 0, 0⟩)) false)
    (fun _ i => ¬ alignedAt i (sigOf (.ld32 ⟨5, 4, 0, 0, 0, 0, 0⟩)) ⟨5, 4, 0, 0, 0, 0, 0⟩ 4)
    (traps (fun _ => { cause := cMisaligned })) := meets
    (p := fun _ _ => by dsimp only [alignedAt]; infer_instance) (by decide)

theorem meets_prefetch : Meets (issuing {} id)
    (fun _ => issueMem (sigOf (.pf ⟨0, 4, 2, 0, 0, 0, 3⟩)) false)
    always
    (ends (fun _ => issueMem (sigOf (.pf ⟨0, 4, 2, 0, 0, 0, 3⟩)) false) (fun s _ => s)) := meets
    (p := fun _ _ => by dsimp only [always]; infer_instance) (by decide)

theorem meets_range : Meets (writable (issuing {} (fun g => g.vSet 5 feFull (fun _ => 128))))
    (fun _ => issueMem (sigOf (.rwb ⟨5, 4, 2, 0, 0, 0, 4⟩)) false)
    (fun s i => ((offsetsOf i (sigOf (.rwb ⟨5, 4, 2, 0, 0, 0, 4⟩)) ⟨5, 4, 2, 0, 0, 0, 4⟩).foldl (fun (p : Option MFault × State) q => match p.1 with
      | some _ => p
      | none => p.2.rangeLane i ⟨5, 4, 2, 0, 0, 0, 4⟩ q.2 (i.g.src 5 q.1).toNat false) (none, s)).1 = none)
    (ends (fun _ => issueMem (sigOf (.rwb ⟨5, 4, 2, 0, 0, 0, 4⟩)) false) (fun s i => ((offsetsOf i (sigOf (.rwb ⟨5, 4, 2, 0, 0, 0, 4⟩)) ⟨5, 4, 2, 0, 0, 0, 4⟩).foldl (fun (p : Option MFault × State) q => match p.1 with
      | some _ => p
      | none => p.2.rangeLane i ⟨5, 4, 2, 0, 0, 0, 4⟩ q.2 (i.g.src 5 q.1).toNat false) (none, s)).2)) := meets (by decide)

/-! ## R207 to R221, R247 to R256: synchronization -/

theorem meets_fence_acquire : Meets (issuing {} id)
    (fun _ => issueEng (sigOf (.fenceAcq ⟨0, 0, 0, 0x22⟩)) false)
    (fun _ _ => True)
    (ends (fun _ => issueEng (sigOf (.fenceAcq ⟨0, 0, 0, 0x22⟩)) false) (fun s i => s.acquireAt i.r 2)) := meets (by decide)

theorem meets_fence_release : Meets (issuing {} id)
    (fun _ => issueEng (sigOf (.fenceRel ⟨0, 0, 0, 0x12⟩)) false)
    (fun s i => s.releaseReady i.r = true)
    (ends (fun _ => issueEng (sigOf (.fenceRel ⟨0, 0, 0, 0x12⟩)) false) (fun s i => s.fenceRel i.r.gref 2)) := meets (by decide)

theorem meets_fence_both : Meets (issuing {} id)
    (fun _ => issueEng (sigOf (.fenceAr ⟨0, 0, 0, 0x31⟩)) false)
    (fun s i => s.releaseReady i.r = true)
    (ends (fun _ => issueEng (sigOf (.fenceAr ⟨0, 0, 0, 0x31⟩)) false) (fun s i => (s.fenceRel i.r.gref 1).acquireAt i.r 1)) := meets (by decide)

theorem meets_fence_narrow : Meets (issuing {} id)
    (fun _ => issueEng (sigOf (.fenceSc ⟨0, 0, 0, 0x3B⟩)) false)
    (fun s i => s.releaseReady i.r = true ∧ s.badPa = none ∧ s.away = none ∧ i.b.stashes = [] ∧ i.g.step = none)
    (ends (fun _ => issueEng (sigOf (.fenceSc ⟨0, 0, 0, 0x3B⟩)) false) (fun s i => s.modGroup i.r.gref (fun g => g.holdLoads i.r.sp))) := meets (by decide)

theorem meets_fence_sc_die : Meets (issuing {} id)
    (fun _ => issueEng (sigOf (.fenceSc ⟨0, 0, 0, 0x3B⟩)) false)
    (fun s i => s.releaseReady i.r = true ∧ s.fenceHeld i 3 = false)
    (ends (fun _ => issueEng (sigOf (.fenceSc ⟨0, 0, 0, 0x3B⟩)) false) (fun s i => fencedSc s i 3)) := meets (by decide)

theorem meets_fence_sc_device : Meets (issuing {} id)
    (fun _ => issueEng (sigOf (.fenceSc ⟨0, 0, 0, 0x3C⟩)) false)
    (fun s i => s.releaseReady i.r = true ∧ s.fenceHeld i 4 = false)
    (ends (fun _ => issueEng (sigOf (.fenceSc ⟨0, 0, 0, 0x3C⟩)) false) (fun s i => fencedSc s i 4)) := meets (by decide)

theorem meets_bara : Meets (issuing {} (fun g => ((g.sSet 4 1).sSet 5 0xFFFFFFFF).sSet 6 32))
    (fun _ => issueEng (sigOf (.bara ⟨0, 52, 54, 15⟩)) true)
    (fun s i => i.g.gates = [] ∧ barLegal i ⟨0, 52, 54, 15⟩ ∧ barMatches i ⟨0, 52, 54, 15⟩ ∧ s.releaseReady i.r = true)
    (ends (fun _ => issueEng (sigOf (.bara ⟨0, 52, 54, 15⟩)) true) (fun s i => (arrival s i ⟨0, 52, 54, 15⟩).2.2)) := meets
    (p := fun _ _ => by dsimp only [barLegal, barMembers, barMatches, arrival, barOf]; infer_instance) (by decide)

theorem meets_bar_complete : Meets (issuing {} (fun g => ((g.sSet 4 1).sSet 5 0xFFFFFFFF).sSet 6 1))
    (fun _ => issueEng (sigOf (.bar ⟨0, 52, 54, 15⟩)) true)
    (fun s i => i.g.gates = [] ∧ barLegal i ⟨0, 52, 54, 15⟩ ∧ barMatches i ⟨0, 52, 54, 15⟩ ∧ s.releaseReady i.r = true ∧ (arrival s i ⟨0, 52, 54, 15⟩).2.1 = true)
    (ends (fun _ => issueEng (sigOf (.bar ⟨0, 52, 54, 15⟩)) true) (fun s i => (arrival s i ⟨0, 52, 54, 15⟩).2.2.acquireAt i.r 1)) := meets
    (p := fun _ _ => by dsimp only [barLegal, barMembers, barMatches, arrival, barOf]; infer_instance) (by decide)

theorem meets_bar_waits : Meets (issuing {} (fun g => { (((g.sSet 4 1).sSet 5 0xFFFFFFFF).sSet 6 32) with splits := [some { pc := 0x10000, mask := 0xFFFF, st := .ready, rlist := [], mstk := [], replay := none, lastIssue := 0 }, some { pc := 0x10100, mask := 0xFFFF0000, st := .ready, rlist := [], mstk := [], replay := none, lastIssue := 0 }, none, none] }))
    (fun _ => issueEng (sigOf (.bar ⟨0, 52, 54, 15⟩)) true)
    (fun s i => i.g.gates = [] ∧ barLegal i ⟨0, 52, 54, 15⟩ ∧ barMatches i ⟨0, 52, 54, 15⟩ ∧ s.releaseReady i.r = true ∧ (arrival s i ⟨0, 52, 54, 15⟩).2.1 = false)
    (waits (fun i => .bar 15 (barOf i 15).phase) (fun s i => (arrival s i ⟨0, 52, 54, 15⟩).2.2)) := meets
    (p := fun _ _ => by dsimp only [barLegal, barMembers, barMatches, arrival, barOf]; infer_instance) (by decide)

theorem meets_bar_mismatch : Meets (issuing {} (fun g => ((g.sSet 4 1).sSet 5 0xFFFFFFFE).sSet 6 1))
    (fun _ => issueEng (sigOf (.bar ⟨0, 52, 54, 15⟩)) true)
    (fun _ i => i.g.gates = [] ∧ barLegal i ⟨0, 52, 54, 15⟩ ∧ ¬ barMatches i ⟨0, 52, 54, 15⟩)
    (traps (fun _ => { cause := cBarMismatch })) := meets
    (p := fun _ _ => by dsimp only [barLegal, barMembers, barMatches, arrival, barOf]; infer_instance) (by decide)

theorem meets_barw : Meets (issuing {} id)
    (fun _ => issueEng (sigOf (.barw ⟨0, 0, 0, 15⟩)) true)
    (fun _ i => i.g.gates = [] ∧ (i.g.lastBar.getD 15 none).all (fun ph => i.b.phaseDone 15 ph) = true)
    (ends (fun _ => issueEng (sigOf (.barw ⟨0, 0, 0, 15⟩)) true) (fun s i => s.acquireAt i.r 1)) := meets (by decide)

theorem meets_barw_waits : Meets (issuing {} (fun g => { g with lastBar := g.lastBar.set 15 (some 0) }))
    (fun _ => issueEng (sigOf (.barw ⟨0, 0, 0, 15⟩)) true)
    (fun _ i => i.g.gates = [] ∧ i.g.lastBar.getD 15 none = some 0 ∧ i.b.phaseDone 15 0 = false)
    (waits (fun _ => .bar 15 0) (fun s _ => s)) := meets (by decide)

theorem meets_mbini : Meets (withObject (issuing {} (fun g => (g.sSet 4 64).sSet 5 0x7FFFFFFF)))
    (fun _ => issueEng (sigOf (.mbini ⟨0, 52, 53, 0⟩)) true)
    (fun _ i => 0 < (i.g.src 53 0).toInt ∧ (objAligned i (i.g.src 52 0) .store = true))
    (ends (fun _ => issueEng (sigOf (.mbini ⟨0, 52, 53, 0⟩)) true) (fun s i => s.ownWrite i.r.gref (i.g.src 52 0).toNat [])) := meets (by decide)

theorem meets_mbarv : Meets (withObject (issuing {} (fun g => (g.sSet 4 64).sSet 5 1)))
    (fun _ => issueEng (sigOf (.mbarv ⟨63, 52, 53, 0⟩)) true)
    (fun s i => 0 < (i.g.src 53 0).toInt ∧ (objAligned i (i.g.src 52 0) .atomic = true) ∧ validAt s i (i.g.src 52 0) ∧ s.releaseReady i.r = true)
    (ends (fun _ => issueEng (sigOf (.mbarv ⟨63, 52, 53, 0⟩)) true) (fun s i => s.ownWrite i.r.gref (i.g.src 52 0).toNat (objDec (objBytes s i (i.g.src 52 0)) 1))) := meets
    (p := fun _ _ => by dsimp only [validAt, objBytes, phaseAt]; infer_instance) (by decide)

theorem meets_mbtst : Meets (withObject (issuing {} (fun g => (g.sSet 4 64).sSet 5 1)))
    (fun _ => issueEng (sigOf (.mbtst ⟨7, 52, 53, 0⟩)) true)
    (fun s i => (objAligned i (i.g.src 52 0) .load = true) ∧ validAt s i (i.g.src 52 0) ∧ pickFault i.g.efaults (objFault i.g (i.g.src 52 0).toNat) = none)
    (ends (fun _ => issueEng (sigOf (.mbtst ⟨7, 52, 53, 0⟩)) true) (fun s i => s.modGroup i.r.gref (fun g => g.setPred 7 i.cur.active (fun _ => true)))) := meets
    (p := fun _ _ => by dsimp only [validAt, objBytes, phaseAt]; infer_instance) (by decide)

theorem meets_mbwait : Meets (withObject (issuing {} (fun g => (g.sSet 4 64).sSet 5 1)))
    (fun _ => issueEng (sigOf (.mbwait ⟨0, 52, 53, 0⟩)) true)
    (fun s i => (objAligned i (i.g.src 52 0) .load = true) ∧ validAt s i (i.g.src 52 0) ∧ pickFault i.g.efaults (objFault i.g (i.g.src 52 0).toNat) = none ∧ phaseAt s i (i.g.src 52 0) % 2 ^ 16 ≠ (i.g.src 53 0).toNat % 2 ^ 16)
    (ends (fun _ => issueEng (sigOf (.mbwait ⟨0, 52, 53, 0⟩)) true) (fun s i => s.acquireAt i.r 1)) := meets
    (p := fun _ _ => by dsimp only [validAt, objBytes, phaseAt]; infer_instance) (by decide)

theorem meets_mbwait_waits : Meets (withObject (issuing {} (fun g => (g.sSet 4 64).sSet 5 0)))
    (fun _ => issueEng (sigOf (.mbwait ⟨0, 52, 53, 0⟩)) true)
    (fun s i => (objAligned i (i.g.src 52 0) .load = true) ∧ validAt s i (i.g.src 52 0) ∧ pickFault i.g.efaults (objFault i.g (i.g.src 52 0).toNat) = none ∧ phaseAt s i (i.g.src 52 0) % 2 ^ 16 = (i.g.src 53 0).toNat % 2 ^ 16)
    (waits (fun i => .mbwait (i.g.src 52 0).toNat ((i.g.src 53 0).setWidth 16)) (fun s _ => s)) := meets
    (p := fun _ _ => by dsimp only [validAt, objBytes, phaseAt]; infer_instance) (by decide)

theorem meets_dyield_differs : Meets (withObject (issuing {} (fun g => ((g.sSet 4 64).sSet 5 0).sSet 6 0)))
    (fun _ => issueEng (sigOf (.dyield ⟨54, 52, 53, 0⟩)) true)
    (fun s i => watchedAt s i 1 ∧ s.locWaits i.g (.scr 0 64) 4 = false ∧ (i.g.src 52 0).toInt % 4 = 0 ∧ (1 : Word) ≠ i.g.src 54 0)
    (ends (fun _ => issueEng (sigOf (.dyield ⟨54, 52, 53, 0⟩)) true) (fun s i => s.modGroup i.r.gref (fun g => g.sSet 6 0))) := meets
    (p := fun _ _ => by dsimp only [watchedAt]; infer_instance) (by decide)

theorem meets_dyield_no_wait : Meets (withObject (issuing {} (fun g => ((g.sSet 4 64).sSet 5 0).sSet 6 1)))
    (fun _ => issueEng (sigOf (.dyield ⟨54, 52, 53, 0⟩)) true)
    (fun s i => watchedAt s i 1 ∧ s.locWaits i.g (.scr 0 64) 4 = false ∧ (i.g.src 52 0).toInt % 4 = 0 ∧ (1 : Word) = i.g.src 54 0 ∧ i.g.src 53 0 = 0)
    (ends (fun _ => issueEng (sigOf (.dyield ⟨54, 52, 53, 0⟩)) true) (fun s i => s.modGroup i.r.gref (fun g => g.sSet 6 1))) := meets
    (p := fun _ _ => by dsimp only [watchedAt]; infer_instance) (by decide)

theorem meets_dyield_waits : Meets (withObject (issuing {} (fun g => ((g.sSet 4 64).sSet 5 0xFFFFFFFF).sSet 6 1)))
    (fun _ => issueEng (sigOf (.dyield ⟨54, 52, 53, 0⟩)) true)
    (fun s i => watchedAt s i 1 ∧ s.locWaits i.g (.scr 0 64) 4 = false ∧ (i.g.src 52 0).toInt % 4 = 0 ∧ (1 : Word) = i.g.src 54 0 ∧ i.g.src 53 0 ≠ 0)
    (waits (fun i => .dyield false (i.g.src 52 0).toInt (i.g.src 54 0) 6 0 (i.g.src 53 0).toNat) (fun s _ => s)) := meets
    (p := fun _ _ => by dsimp only [watchedAt]; infer_instance) (by decide)

theorem meets_regreq : Meets (issuing {} (fun g => { g with regcnt := 24, v := g.v.take 24, fe := g.fe.take 24 }))
    (fun i => { issueEng (sigOf (.regreq ⟨0, 0, 0, 6⟩)) false with field := if 48 ≤ i.g.regcnt then some .other else none })
    (fun s i => i.g.gates = [] ∧ s.regDenied i 48 = false ∧ s.regWaits i.b.core = [] ∧ s.canGrow i.b.core i.g 48 = true)
    (ends (fun i => { issueEng (sigOf (.regreq ⟨0, 0, 0, 6⟩)) false with field := if 48 ≤ i.g.regcnt then some .other else none }) (fun s i => s.grantRegs i.r.gref 48)) := meets (by decide)

theorem meets_regreq_waits : Meets (crowded (issuing {} (fun g => { g with regcnt := 24, v := g.v.take 24, fe := g.fe.take 24 })))
    (fun i => { issueEng (sigOf (.regreq ⟨0, 0, 0, 6⟩)) false with field := if 48 ≤ i.g.regcnt then some .other else none })
    (fun s i => i.g.gates = [] ∧ s.regDenied i 48 = false ∧ (s.regWaits i.b.core ≠ [] ∨ s.canGrow i.b.core i.g 48 = false))
    (waits (fun _ => .regreq 48) (fun s _ => s)) := meets (by decide)

theorem meets_regreq_denied : Meets (overBudget (issuing {} (fun g => { g with regcnt := 24, v := g.v.take 24, fe := g.fe.take 24 })))
    (fun i => { issueEng (sigOf (.regreq ⟨0, 0, 0, 6⟩)) false with field := if 48 ≤ i.g.regcnt then some .other else none })
    (fun s i => i.g.gates = [] ∧ s.regDenied i 48 = true)
    (traps (fun _ => { cause := cRegreqDenied })) := meets (by decide)

theorem meets_regrel : Meets (issuing {} id)
    (fun i => { issueEng (sigOf (.regrel ⟨0, 0, 0, 3⟩)) false with field := if i.g.regcnt ≤ 24 then some .other else none })
    (fun _ i => i.g.gates = [] ∧ i.g.writesAbove 24 = false)
    (ends (fun i => { issueEng (sigOf (.regrel ⟨0, 0, 0, 3⟩)) false with field := if i.g.regcnt ≤ 24 then some .other else none }) (fun s i => s.modGroup i.r.gref (fun g => { g with regcnt := 24, v := g.v.take 24, fe := g.fe.take 24 }))) := meets (by decide)

theorem meets_feq : Meets (issuing {} id)
    (fun _ => { issueEng (sigOf (.feq ⟨7, 47, 0, 0⟩)) false with free := true })
    always
    (ends (fun _ => { issueEng (sigOf (.feq ⟨7, 47, 0, 0⟩)) false with free := true }) (onGroup (fun i => i.g.kSet 7 i.cur.active (i.g.fe.getD 47 0)))) := meets
    (p := fun _ _ => by dsimp only [always]; infer_instance) (by decide)

/-! ## The statements that name what a check answers -/

/-- `k` answers the results that the hypotheses of a statement name, where they hold, and `t` is the state that
the statement gives. -/
def Passes {α : Type} (s : State) (u : Iss → Issue) (k : State → Iss → Option α)
    (t : State → Iss → α → State) : Prop :=
  ∃ i a, Ready s u i ∧ k s i = some a ∧ Populated (t s i a)

theorem passes {α : Type} {s : State} {u : Iss → Issue} {k : State → Iss → Option α}
    {t : State → Iss → α → State}
    (h : (match s.iss? with
      | none => false
      | some i => ((u i).refuse i).isNone && ((u i).stall i).isNone &&
        (match k s i with | none => false | some a => (t s i a).badPa.isNone && (t s i a).away.isNone)) = true) : Passes s u k t := by
  split at h
  · cases h
  · rename_i i hi
    simp only [Bool.and_eq_true, Option.isNone_iff_eq_none] at h
    obtain ⟨⟨h1, h2⟩, h3⟩ := h
    split at h3
    · cases h3
    · rename_i a ha
      exact ⟨i, a, ⟨hi, by simp [h1], by simp [h2]⟩, ha, by simpa [Populated, and_assoc] using h3⟩

/-- What a check answers, and that a condition holds. -/
def got {ε α : Type} : Except ε α × State → Option (α × State)
  | (.ok a, s) => some (a, s)
  | (.error _, _) => none
def check (p : Prop) [Decidable p] : Option Unit := if p then some () else none

/-- A group with a pack of words from s4 on. -/
def packs (l : List Word) (g : Group) : Group := (l.zipIdx).foldl (fun g p => g.sSet (4 + p.2) p.1) g

/-- An instruction of format E that is about to issue with a pack at s4. -/
def engine (l : List Word) : State := withObject (writable (issuing {} (packs l)))

theorem passes_hbind : Passes (engine [0, 0xFFFF])
    (fun i => { issueEng (sigOf (.hbind ⟨7, 52, 53, 0⟩)) true with
      field := if i.g.isStash 7 then some .d else none })
    (fun s i => got (s.bindHandle i.b.core i.r.gref i.g.ctx (decide (i.g.level ≠ 0)) (i.g.src 52 0).toNat
      (i.g.src 53 0).toNat))
    (fun s i a => ended s i { issueEng (sigOf (.hbind ⟨7, 52, 53, 0⟩)) true with
      field := if i.g.isStash 7 then some .d else none }
      (a.2.modGroup i.r.gref (fun g => { g with x := g.x.set 7 (.handle a.1) }))) := passes (by decide)

theorem passes_hqry : Passes (engine [0]) (fun _ => issueEng (sigOf (.hqry ⟨52, 52, 1, 0⟩)) true)
    (fun _ _ => some ()) (fun s i _ => ended s i (issueEng (sigOf (.hqry ⟨52, 52, 1, 0⟩)) true)
      ((afterQuery s i ⟨52, 52, 1, 0⟩).modGroup i.r.gref
        (fun g => setPair g 52 (queried s i ⟨52, 52, 1, 0⟩)))) := passes (by decide)

theorem passes_smap : Passes (engine [0, 128, 64512, 1024])
    (fun _ => issueEng (sigOf (.smap ⟨3, 52, 0, 0⟩)) true)
    (fun s i => match s.handleEntry i.b.core.die i.r.gref i.g.ctx (i.g.srcAt 52 0 0).toNat with
      | (.ok e, t) => do
        let w := fun j => (i.g.srcAt 52 j 0).toNat
        check (w 1 % 128 = 0 ∧ w 2 % 1024 = 0 ∧ w 3 ≠ 0 ∧ w 3 % 1024 = 0)
        check (w 2 + w 3 ≤ i.b.scrSize ∧ i.g.gates = [] ∧ i.g.isStash 3 = false)
        check (i.b.inStash i.r.grp 0 (w 2) (w 3) = false ∧ e.attr.r = true ∧ w 1 + w 3 ≤ e.bound ∧
          (e.vbase + w 1) % 128 = 0)
        pure t
      | _ => none)
    (fun s i t => ended s i (issueEng (sigOf (.smap ⟨3, 52, 0, 0⟩)) true)
      (({ t with nextId := t.nextId + 1 } : State).clearScr i.r.gref 0 64512 1024)) := passes (by decide)

/-- x2 is a stash of the block. -/
def stashed (s : State) : State :=
  (s.modBlock 0 (fun b => { b with stashes := [{
    id := 5, grp := 0, depth := 0, scr := 1024, size := 1024, va := codePage, asid := 1,
    attr := placedHandle.attr, lines := [] }] })).modGroup ⟨0, 0⟩ (fun g => { g with x := g.x.set 2 (.stash 5) })

theorem meets_sunmap : Meets (stashed (issuing {} id))
    (fun i => { issueEng (sigOf (.sunmap ⟨2, 0, 0, 0⟩)) true with
      field := if i.g.isStash 2 then none else some .d })
    (fun s i => i.g.x.getD 2 .unbound = .stash 5 ∧ s.stashBusy i.r.gref 5 = false)
    (ends (fun i => { issueEng (sigOf (.sunmap ⟨2, 0, 0, 0⟩)) true with
      field := if i.g.isStash 2 then none else some .d })
      (fun s i => ((((s.stashBack i.r.blk (some 5)).stashDrop i.r.blk (some 5)).modBlock i.r.blk
        (fun b => { b with stashes := b.stashes.filter (fun t => t.id != 5) })).scrWrite i.r.gref 0 1024
          (List.replicate 1024 0)).modGroup i.r.gref (fun g => { g with x := g.x.set 2 .unbound }))) := meets (by decide)

theorem passes_copy : Passes (engine [128, 0, 128, 64])
    (fun _ => issueEng (sigOf (.cpy ⟨0, 52, 16, 0⟩)) true)
    (fun s i => do
      let x : EF := ⟨0, 52, 16, 0⟩
      let len := (packAt i x 2).toNat
      check (1 ≤ len ∧ len ≤ 2 ^ 24)
      let off ← (s.engObj i (packAt i x 3)).toOption
      let d ← got (s.endCheck i 0 (packAt i x 0).toInt len .engW)
      let q ← got (d.2.endCheck i 2 (packAt i x 1).toInt len .engR)
      check (q.2.engFull i.r.gref = false)
      pure (off, d, q))
    (fun s i a => ended s i (issueEng (sigOf (.cpy ⟨0, 52, 16, 0⟩)) true)
      (starts a.2.2.2 i ⟨0, 52, 16, 0⟩ (.copy ⟨a.2.1.1, 128⟩ ⟨a.2.2.1, 0⟩ 128 0) a.1 false)) :=
  passes (by decide)

/-- The checks of a queue copy to the die's own memory by table entry 0, without a flag. -/
def queueCopy (x : EF) (s : State) (i : Iss) :
    Option (Option Nat × (XReg × State) × (HandleX × State) × (Option (HandleX × Word) × State)) := do
  let len := (packAt i x 4).toNat
  check (routeOk (packAt i x 0) = true ∧ 1 ≤ len ∧ len ≤ 2 ^ 24)
  let obj ← (s.cpqObj i (i.g.src x.d 0)).toOption
  let q ← got (s.endCheck i (x.b.toNat % 8) (packAt i x 3).toInt len .engR)
  let d ← got (q.2.cpqHandle i (packAt i x 0) (packAt i x 1).toNat (packAt i x 2).toNat len false)
  let flag ← got (d.2.cpqFlag i (packAt i x))
  pure (obj, q, d, flag)

theorem passes_queue : Passes (engine [0, 0, 0, 0, 128, 0xFFFFFFFF, 0, 0, 0xFFFFFFFF])
    (fun _ => issueEng (sigOf (.cpq ⟨60, 52, 2, 0⟩)) true)
    (fun s i => do
      let c ← queueCopy ⟨60, 52, 2, 0⟩ s i
      check ((((c.2.2.2.2.engAcquire i ⟨60, 52, 2, 0⟩).die i.b.core.die).queue 0).length < 64)
      pure c)
    (fun s i c => ended s i (issueEng (sigOf (.cpq ⟨60, 52, 2, 0⟩)) true)
      (c.2.2.2.2.engAcquire i ⟨60, 52, 2, 0⟩)) := passes (by decide)

/-- The entry that the queue copy makes, and a queue with 64 of them. -/
def queueEntry : CpqEntry :=
  { id := 0, level := 0, fdom := 1, grp := ⟨0, 0⟩, depth := 0, src := ⟨.scratch, 0⟩, len := 128, read := 0, landed := 0, remote := false,
    recvDie := 0, dst := placedHandle, flag := none, obj := none, rel := false, scope := 0, asid := 1,
    data := [], started := false, wait := none }
def queueFull (s : State) : State :=
  s.modDie 0 (fun d => { d with cq := List.replicate 64 (0, queueEntry) })

theorem passes_queue_full : Passes (queueFull (engine [0, 0, 0, 0, 128, 0xFFFFFFFF, 0, 0, 0xFFFFFFFF]))
    (fun _ => issueEng (sigOf (.cpq ⟨60, 52, 2, 0⟩)) true)
    (fun s i => do
      let c ← queueCopy ⟨60, 52, 2, 0⟩ s i
      check (64 ≤ (((c.2.2.2.2.engAcquire i ⟨60, 52, 2, 0⟩).die i.b.core.die).queue 0).length)
      pure c)
    (fun s i c => waiting s i (.cpq 0 queueEntry) (c.2.2.2.2.engAcquire i ⟨60, 52, 2, 0⟩)) := passes (by decide)

/-- The checks of a row instruction on rows of the handle in x2. -/
def rowChecks (a : RowArgs) (s : State) (i : Iss) :
    Option (List (Nat × Nat) × List (List (Nat × Nat)) × Nat × State) := do
  check (a.ok = true)
  let d ← got (s.rebind i.r.gref 2 .engW)
  let q ← if a.srcs = [] then some d else got (d.2.rebind i.r.gref 2 .engR)
  check (rowCapable d.1 = true ∧ rowCapable q.1 = true ∧ rowAligned d.1 a.dst = true)
  check ((∀ o ∈ a.srcs, rowAligned q.1 o = true) ∧ (rowRange d.1 a.dst (1024 * a.rows) .engW).isNone = true ∧
    (∀ o ∈ a.srcs, (rowRange q.1 o (1024 * a.rows) .engR).isNone = true))
  let dst ← got (q.2.rowPlaces i d.1 a.dst .engW 0 a.rows)
  let srcs ← got (dst.2.rowSources i q.1 a.rows a.srcs)
  check (∀ p ∈ dst.1 ++ srcs.1.flatten, p.2 ≠ 0 ∧ p.2 ≠ 2)
  check (∀ l ∈ srcs.1, (a.op.isSome = true ∧ l = dst.1) ∨ ∀ p ∈ l, ∀ q ∈ dst.1, q.1 ≠ p.1)
  let off ← (srcs.2.engObj i a.obj).toOption
  pure (dst.1, srcs.1, off, srcs.2)

/-- The frame of x2 with class 1, and 1 MiB long with its second row group in another place. -/
def rowFrame (s : State) : State :=
  let l : Leaf := { codeLeaf with w := true, d := true, cc := 1 }
  (({ s with cores := [{ Core.empty ⟨0, 0, 0⟩ with tlb := [l] }] } : State).modGroup ⟨0, 0⟩ (fun g => { g with
    x := g.x.set 2 (.handle { placedHandle with
      attr := { placedHandle.attr with w := true, a := true, row := true }
      frame := some { pa := codePage, leaf := l } }) }))

theorem passes_rowcpy : Passes (rowFrame (engine [1024, 0, 1, 64, 1]))
    (fun _ => issueEng (sigOf (.rowcpy ⟨57, 52, 18, 8⟩)) true)
    (fun s i => do
      let a : RowArgs := { op := none, dst := 1024, srcs := [0], rows := 1, pat := none, obj := 64, strict := true,
                           ok := decide (packAt i ⟨57, 52, 18, 8⟩ 0 = 1024) }
      let c ← rowChecks a s i
      check (fallsBack c.1 c.2.1 = false ∧ c.2.2.2.engFull i.r.gref = false)
      pure c)
    (fun s i c => ended s i (issueEng (sigOf (.rowcpy ⟨57, 52, 18, 8⟩)) true)
      (((c.2.2.2.modGroup i.r.gref (fun g => g.sSet 9 0)).engAcquire i ⟨57, 52, 18, 8⟩).rowWbinv i.b.core.die
        c.1 c.2.1)) := passes (by decide +kernel)

theorem passes_rowfill : Passes (rowFrame (engine [0, 2, 3, 4, 64, 0]))
    (fun _ => issueEng (sigOf (.rowfill ⟨63, 52, 2, 0⟩)) true)
    (fun s i => rowChecks
      { op := none, dst := 0, srcs := [], rows := 2, pat := some 0x400000003, obj := 64, strict := false,
        ok := decide (packAt i ⟨63, 52, 2, 0⟩ 1 = 2) } s i)
    (fun s i c => ended s i (issueEng (sigOf (.rowfill ⟨63, 52, 2, 0⟩)) true)
      (c.2.2.2.engAcquire i ⟨63, 52, 2, 0⟩)) := passes (by decide)

theorem passes_rowop : Passes (rowFrame (engine [0, 0, 1024, 2048, 1, 64, 9]))
    (fun _ => issueEng (sigOf (.rowop ⟨63, 52, 18, 0⟩)) true)
    (fun s i => rowChecks
      { op := some 4, dst := 0, srcs := [0, 1024, 2048], rows := 1, pat := none, obj := 64, strict := true,
        ok := decide (packAt i ⟨63, 52, 18, 0⟩ 6 = 9) } s i)
    (fun s i c => ended s i (issueEng (sigOf (.rowop ⟨63, 52, 18, 0⟩)) true)
      (c.2.2.2.engAcquire i ⟨63, 52, 18, 0⟩)) := passes (by decide)

/-- Two row groups far apart under x2: a strict copy between them falls back. -/
def twoGroups (s : State) : State :=
  let l : Leaf := { codeLeaf with w := true, d := true, cc := 1, size := 1048576, vbase := 0, pbase := 0 }
  ({ s with cores := [{ Core.empty ⟨0, 0, 0⟩ with tlb := [l] }] } : State).modGroup ⟨0, 0⟩ (fun g => { g with
    x := g.x.set 2 (.handle { placedHandle with
      vbase := 0, bound := 1048576, limit := 1048576,
      attr := { placedHandle.attr with w := true, a := true, row := true }
      frame := some { pa := 0, leaf := l } }) })

theorem passes_row_strict : Passes (twoGroups (engine [0, 524288, 1, 64, 1]))
    (fun _ => issueEng (sigOf (.rowcpy ⟨57, 52, 18, 0⟩)) true)
    (fun s i => do
      let c ← rowChecks
        { op := none, dst := 0, srcs := [524288], rows := 1, pat := none, obj := 64, strict := true,
          ok := decide (packAt i ⟨57, 52, 18, 0⟩ 1 = 524288) } s i
      check (fallsBack c.1 c.2.1 = true)
      pure c)
    (fun s i c => ended s i (issueEng (sigOf (.rowcpy ⟨57, 52, 18, 0⟩)) true)
      (c.2.2.2.pushFault i.r.gref { cause := cRowStrict } (some c.2.2.1) false 0)) := passes (by decide)

/-! ## R319 to R340: the matrix engine -/

theorem meets_tzero : Meets (issuing {} id) (fun _ => issueEng (sigOf (.tzero ⟨15, 0, 0, 0⟩)) true)
    (fun s i => i.g.gates = [] ∧ i.g.mq.length < 16 ∧ s.tileOthers i.r.gref 15 s.nextId = false)
    (ends (fun _ => issueEng (sigOf (.tzero ⟨15, 0, 0, 0⟩)) true)
      (fun s i => queued s i.r.gref (.tzero 15))) := meets (by decide)

/-- A gather, which looks at its index register itself (R330, R335). -/
def gatherUnit : Issue :=
  { issueEng (sigOf (.mgath ⟨0, 52, 47, 0⟩)) true with bMask := some (BitVec.allOnes 32), free := true }

theorem meets_gather : Meets (engine [0, 128, 15])
    (fun _ => gatherUnit)
    (fun _ i => (gatherUnit.empties i).isNone = true ∧ i.g.gates = [] ∧ i.g.mq.length < 16 ∧ (packAt i ⟨0, 52, 47, 0⟩ 2).toNat < 16 ∧
      ∀ L < 32, gatherAt i ⟨0, 52, 47, 0⟩ L % 16 = 0 ∧
        (resolveScr i.b i.g i.r.gref (gatherAt i ⟨0, 52, 47, 0⟩ L : Nat) 128 .engR).toOption.isSome = true)
    (ends (fun _ => gatherUnit)
      (fun s i => queued (s.engAcquire i ⟨0, 52, 47, 0⟩) i.r.gref
        (.mgath 1 ((List.range 32).map (gatherAt i ⟨0, 52, 47, 0⟩))
          ((List.range 32).map (i.g.vGet 47))))) := meets (by decide)

/-- A group whose latches are valid, with the records of a product at 1024 in the scratchpad. -/
def product (l : List Word) : State :=
  (inScr 1024 [1, 0, 0, 0, 0, 0, 0, 0, 1] (engine l)).modGroup ⟨0, 0⟩ (fun g => { g with latches := g.latches.map (fun l => { l with valid := true }) })

theorem meets_product : Meets (product [0, 0, 1024])
    (fun _ => issueEng (sigOf (.mma ⟨15, 52, 0, 0⟩)) true)
    (fun s i => i.g.gates = [] ∧ i.g.mq.length < 16 ∧ productLegal false i ⟨15, 52, 0, 0⟩ ∧
      (packAt i ⟨15, 52, 0, 0⟩ 0).toNat < 2 ∧ s.tileOthers i.r.gref 15 s.nextId = false)
    (ends (fun _ => issueEng (sigOf (.mma ⟨15, 52, 0, 0⟩)) true)
      (fun s i => queued (s.engAcquire i ⟨15, 52, 0, 0⟩) i.r.gref (productWork false i ⟨15, 52, 0, 0⟩))) :=
  meets (p := fun _ _ => by dsimp only [productLegal]; infer_instance) (by decide)

theorem meets_product_lut : Meets (inScr 1024 [3, 0, 0, 0, 0, 0, 0, 0, 6] (product [0, 0, 1024]))
    (fun _ => issueEng (sigOf (.mlut ⟨15, 52, 0, 0⟩)) true)
    (fun s i => i.g.gates = [] ∧ i.g.mq.length < 16 ∧ productLegal true i ⟨15, 52, 0, 0⟩ ∧
      (packAt i ⟨15, 52, 0, 0⟩ 0).toNat < 2 ∧ s.tileOthers i.r.gref 15 s.nextId = false)
    (ends (fun _ => issueEng (sigOf (.mlut ⟨15, 52, 0, 0⟩)) true)
      (fun s i => queued (s.engAcquire i ⟨15, 52, 0, 0⟩) i.r.gref (productWork true i ⟨15, 52, 0, 0⟩))) :=
  meets (p := fun _ _ => by dsimp only [productLegal]; infer_instance) (by decide)

theorem meets_product_ganged :
    Meets ((product [6, 0, 1024]).modBlock 0 (fun b => { b with gang := b.gang.set 1 3 }))
    (fun _ => issueEng (sigOf (.mma ⟨0, 52, 0, 0⟩)) true)
    (fun s i => i.g.gates = [] ∧ i.g.mq.length < 16 ∧ productLegal false i ⟨0, 52, 0, 0⟩ ∧
      (hintFt i.cur.hints = true → s.tileOthers i.r.gref 0 s.nextId = false) ∧
      (packAt i ⟨0, 52, 0, 0⟩ 0).toNat / 2 % 2 = 1 ∧ (i.b.gang.getD 1 0).getLsbD i.r.grp = true ∧
      ∀ h ∈ i.b.heldIn 1, h.1 ≠ i.r.grp ∧ h.2.work.mates (productWork false i ⟨0, 52, 0, 0⟩) = true)
    (ends (fun _ => issueEng (sigOf (.mma ⟨0, 52, 0, 0⟩)) true)
      (fun s i => queued (s.engAcquire i ⟨0, 52, 0, 0⟩) i.r.gref (productWork false i ⟨0, 52, 0, 0⟩))) :=
  meets (p := fun _ _ => by dsimp only [productLegal]; infer_instance) (by decide)

theorem meets_mfence : Meets (issuing {} id) (fun _ => issueEng (sigOf (.mfence ⟨63, 0, 0, 0⟩)) false)
    (fun _ i => i.g.gates = [] ∧ i.g.batches.length < 4)
    (ends (fun _ => issueEng (sigOf (.mfence ⟨63, 0, 0, 0⟩)) false)
      (fun s i => s.modGroup i.r.gref (fun g => { g with nextBatch := 1 }))) := meets (by decide)

theorem meets_mfence_waits : Meets (issuing {} (fun g => { g with batches := [0, 1, 2, 3] }))
    (fun _ => issueEng (sigOf (.mfence ⟨63, 0, 0, 0⟩)) false)
    (fun _ i => i.g.gates = [] ∧ 4 ≤ i.g.batches.length) (waits (fun _ => .mfence) (fun s _ => s)) :=
  meets (by decide)

theorem meets_mwait : Meets (issuing {} id) (fun _ => issueEng (sigOf (.mwait ⟨0, 57, 0, 0⟩)) false)
    (fun _ i => i.g.gates = [] ∧ i.g.batches.contains ((i.g.src 57 0).toNat % 16) = false ∧
      pickFault i.g.efaults mwaitFault = none)
    (ends (fun _ => issueEng (sigOf (.mwait ⟨0, 57, 0, 0⟩)) false) (fun s _ => s)) := meets (by decide)

theorem meets_mwait_waits : Meets (issuing {} (fun g => { g.sSet 9 31 with batches := [15] }))
    (fun _ => issueEng (sigOf (.mwait ⟨0, 57, 0, 0⟩)) false)
    (fun _ i => i.g.gates = [] ∧ i.g.batches.contains ((i.g.src 57 0).toNat % 16) = true)
    (waits (fun i => .mwait ((i.g.src 57 0).toNat % 16)) (fun s _ => s)) := meets (by decide)

theorem meets_gang : Meets (issuing {} (fun g => g.sSet 6 1))
    (fun _ => issueEng (sigOf (.gang ⟨0, 54, 0, 3⟩)) false)
    (fun _ i => i.g.gates = [] ∧ (i.g.src 54 0).toNat < 2 ^ 16 ∧ (i.g.src 54 0).toNat < 2 ^ i.b.groups.length ∧
      (List.range 32).countP (fun n => (i.g.src 54 0).getLsbD n) ≤ 6 ∧ i.b.heldIn 3 = [])
    (ends (fun _ => issueEng (sigOf (.gang ⟨0, 54, 0, 3⟩)) false)
      (fun s i => s.modBlock i.r.blk (fun b => { b with gang := b.gang.set 3 1 }))) := meets (by decide)

theorem meets_regn : Meets (issuing {} id) (fun _ => issueEng (sigOf (.regn ⟨0, 0, 0, 0⟩)) false)
    (fun _ i => i.g.gates = [] ∧ i.g.fused = true ∧ i.g.mq = [] ∧ i.g.batches = [])
    (ends (fun _ => issueEng (sigOf (.regn ⟨0, 0, 0, 0⟩)) false)
      (fun s i => s.modGroup i.r.gref (fun g => { g with rgnOpen := true }))) := meets (by decide)

theorem passes_tld : Passes (engine [128, 64]) (fun _ => issueEng (sigOf (.tld ⟨15, 52, 2, 0⟩)) true)
    (fun s i => do
      check (i.g.gates = [] ∧ (packAt i ⟨15, 52, 2, 0⟩ 0).toInt % 128 = 0)
      let off ← (s.engObj i (packAt i ⟨15, 52, 2, 0⟩ 1)).toOption
      let q ← got (s.rebind i.r.gref 2 .engR)
      let ls ← got (q.2.tileRange i q.1 128 .engR)
      check (ls.2.tileWork i.r.blk 15 = [])
      pure (off, q.1, ls))
    (fun s i a => ended s i (issueEng (sigOf (.tld ⟨15, 52, 2, 0⟩)) true)
      (starts a.2.2.2 i ⟨15, 52, 2, 0⟩ (.tld 15 ⟨a.2.1, 128⟩ 0 false) a.1 false)) := passes (by decide)

theorem passes_tst : Passes (engine [0]) (fun _ => issueEng (sigOf (.tst ⟨0, 52, 0, 17⟩)) true)
    (fun s i => do
      check (i.g.gates = [] ∧ (i.g.src 52 0).toInt % 128 = 0 ∧ s.releaseReady i.r = true)
      let q ← got (s.rebind i.r.gref 0 .engW)
      let ls ← got (q.2.tileRange i q.1 0 .engW)
      check ((∀ l ∈ ls.1, ls.2.locWaits i.g l 128 = false) ∧ ls.2.tileWork i.r.blk 0 = [] ∧
        pickFault i.g.efaults (tileFault 0) = none)
      pure ls.2)
    (fun s i t => ended s i (issueEng (sigOf (.tst ⟨0, 52, 0, 17⟩)) true) (t.fenceRel i.r.gref 1)) :=
  passes (by decide)

theorem meets_tmov_from : Meets (issuing {} (fun g => g.sSet 6 56))
    (fun _ => { issueEng (sigOf (.tmovFromTile ⟨40, 15, 54, 3⟩)) true with vd := range' 40 8 })
    (fun s i => i.g.gates = [] ∧ (i.g.src 54 0).toNat % 64 + 8 ≤ 64 ∧ s.tileWork i.r.blk 15 = [] ∧
      pickFault i.g.efaults (tileFault 15) = none)
    (ends (fun _ => { issueEng (sigOf (.tmovFromTile ⟨40, 15, 54, 3⟩)) true with vd := range' 40 8 })
      (fun s i => s.modGroup i.r.gref (fun g => tmovApply (i.b.tiles.getD 15 []) g
        { tile := 15, waits := [], d := 40, count := 8, col := 56, lanes := i.cur.active, level := 0 }))) := meets (by decide)

/-- A move from a tile that a `TZERO` under way writes, and the same under f = 1. -/
def tileBusy (h : Hints) : State := issuing h (fun g => { g.sSet 6 56 with mq := [⟨9, .tzero 15, none, 0⟩] })

theorem meets_tmov_pending : Meets (tileBusy {})
    (fun _ => { issueEng (sigOf (.tmovFromTile ⟨40, 15, 54, 3⟩)) true with vd := range' 40 8 })
    (fun s i => i.g.gates = [] ∧ (i.g.src 54 0).toNat % 64 + 8 ≤ 64 ∧ s.tileWork i.r.blk 15 ≠ [] ∧
      hintFt i.cur.hints = false ∧ pickFault i.g.efaults (tileFault 15) = none)
    (ends (fun _ => { issueEng (sigOf (.tmovFromTile ⟨40, 15, 54, 3⟩)) true with vd := range' 40 8 })
      (fun s i => s.modGroup i.r.gref (fun g => { g with
        fe := (List.range 8).foldl (fun fe c => modAt fe (40 + c) (fun m => m &&& ~~~i.cur.active)) g.fe,
        tmovs := g.tmovs ++ [⟨15, [9], 40, 8, 56, i.cur.active, 0⟩] }))) := meets (by decide)

theorem meets_tmov_empty : Meets (tileBusy { xsrc := some 0x80 })
    (fun _ => { issueEng (sigOf (.tmovFromTile ⟨40, 15, 54, 3⟩)) true with vd := range' 40 8 })
    (fun s i => i.g.gates = [] ∧ (i.g.src 54 0).toNat % 64 + 8 ≤ 64 ∧ s.tileWork i.r.blk 15 ≠ [] ∧
      hintFt i.cur.hints = true)
    (traps (fun _ => { cause := cEmptyReg, opnd := 1 })) := meets (by decide)

theorem tmov_fills_met : (((State.reset.withFetchWord 32 0).group? ⟨0, 0⟩).any (fun g => g.gates == [] && g.v.all (fun w => w.length == 32) &&
    decide (40 + 8 ≤ g.v.length) && decide (40 + 8 ≤ g.fe.length))) = true := by decide

/-- A move to a tile, which looks at its source register itself (R330, R334). -/
def toTileUnit : Issue := { issueEng (sigOf (.tmovToTile ⟨0, 47, 54, 32⟩)) true with free := true }

theorem meets_tmov_to : Meets (issuing {} (fun g => g.sSet 6 63))
    (fun _ => toTileUnit)
    (fun s i => (toTileUnit.empties i).isNone = true ∧ i.g.gates = [] ∧ (i.g.src 54 0).toNat % 64 + 1 ≤ 64 ∧ s.tileWork i.r.blk 0 = [] ∧
      pickFault i.g.efaults (tileFault 0) = none)
    (ends (fun _ => toTileUnit)
      (fun s i => s.modTile i.r.blk 0 (tileWith i ⟨0, 47, 54, 32⟩ 63 1))) := meets (by decide)

/-! ## R358 to R399: special registers, handler mode, gates -/

theorem meets_read : Meets (issuing {} id) (issueSr (sigOf (.srr ⟨46, 0, 0, 0x13⟩)) (fun _ => true))
    (fun _ i => (0x13 = 8 → i.g.flagsPending = false))
    (ends (issueSr (sigOf (.srr ⟨46, 0, 0, 0x13⟩)) (fun _ => true))
      (onGroup (fun i => i.g.dst64 46 i.cur.active (fun _ => 0)))) := meets (by decide)

theorem meets_read_flags : Meets (issuing {} id) (issueSr (sigOf (.srr ⟨63, 0, 0, 8⟩)) (fun _ => true))
    (fun _ i => i.g.flagsPending = false)
    (ends (issueSr (sigOf (.srr ⟨63, 0, 0, 8⟩)) (fun _ => true))
      (onGroup (fun i => i.g.dst 63 i.cur.active (fun _ => 0)))) := meets (by decide)

/-- A group in handler mode, and one in the debug agent. -/
def handling (agent : Bool) (g : Group) : Group :=
  (g.enter 0 { cause := cSoft } 0x10000 feFull 0 none 0x18000 0 0 agent)

/-- A unit of one word being issued in handler mode, or in the debug agent, with registers set. -/
def inHandling (agent : Bool) (f : Group → Group) : State := issuing {} (fun g => f (handling agent g))

theorem meets_read_brk : Meets (inHandling true id) (issueSr (sigOf (.srr ⟨1, 0, 0, 0x37⟩)) (fun i => i.g.debug))
    (fun _ _ => True)
    (ends (issueSr (sigOf (.srr ⟨1, 0, 0, 0x37⟩)) (fun i => i.g.debug))
      (fun s i => s.putGroup i.r.gref (i.g.dst 1 i.cur.active
        (fun _ => (s.core i.b.core).brk.getD 7 0)))) := meets (by decide)

theorem meets_write_flags : Meets (issuing {} (fun g => g.sSet 4 63))
    (issueSr (sigOf (.srw ⟨0, 52, 0, 8⟩)) (fun _ => true))
    (fun _ i => (i.g.srcAt 52 0 0).toNat < 64 ∧ i.g.flagsPending = false)
    (ends (issueSr (sigOf (.srw ⟨0, 52, 0, 8⟩)) (fun _ => true))
      (fun s i => s.modGroup i.r.gref (fun g => { g with flags := i.g.srcAt 52 0 0 }))) := meets (by decide)

theorem meets_write_rgncnt : Meets (issuing {} (fun g => g.sSet 4 0xFFFFFFFF))
    (issueSr (sigOf (.srw ⟨0, 52, 0, 9⟩)) (fun _ => true)) (fun _ _ => True)
    (ends (issueSr (sigOf (.srw ⟨0, 52, 0, 9⟩)) (fun _ => true))
      (fun s i => s.modGroup i.r.gref (fun g => { g with rgncnt := i.g.srcAt 52 0 0 }))) := meets (by decide)

theorem meets_write_trappc : Meets (inHandling false (fun g => (g.sSet 4 0xFFFFFFFC).sSet 5 0x7FFFFF))
    (issueSr (sigOf (.srw ⟨0, 52, 0, 0x11⟩)) inMode)
    (fun _ i => (i.g.src64 52 0).toNat % 4 = 0 ∧ (i.g.src64 52 0).toNat < 2 ^ 55)
    (ends (issueSr (sigOf (.srw ⟨0, 52, 0, 0x11⟩)) inMode)
      (fun s i => s.modGroup i.r.gref (fun g => { g with trap := { g.trap with pc := i.g.src64 52 0 } }))) :=
  meets (by decide)

theorem meets_write_trapmask : Meets (inHandling false id) (issueSr (sigOf (.srw ⟨0, 52, 0, 0x12⟩)) inMode)
    (fun _ _ => True)
    (ends (issueSr (sigOf (.srw ⟨0, 52, 0, 0x12⟩)) inMode)
      (fun s i => s.modGroup i.r.gref (fun g => { g with trap := { g.trap with mask := 0 } }))) := meets (by decide)

theorem meets_write_brk : Meets (inHandling true id) (issueSr (sigOf (.srw ⟨0, 52, 0, 0x30⟩)) (fun i => i.g.debug))
    (fun _ _ => True)
    (ends (issueSr (sigOf (.srw ⟨0, 52, 0, 0x30⟩)) (fun i => i.g.debug))
      (fun s i => s.modCore i.b.core (fun c => { c with brk := c.brk.set 0 1 }))) := meets (by decide)

theorem meets_return : Meets (inHandling false id) (issuePriv (sigOf (.tret ⟨0, 0, 0, 0⟩)) inMode)
    (fun s i => i.g.debug = false ∧ i.g.fused = true ∧ s.handlerDone i = true)
    (goes (issuePriv (sigOf (.tret ⟨0, 0, 0, 0⟩)) inMode)
      (fun s i => (s.modGroup i.r.gref (fun g => g.resume g.trap.pc g.trap.mask)).dropLatch i.r.gref)) :=
  meets (by decide)

theorem meets_resume_step : Meets (inHandling true id) (issuePriv (sigOf (.dresumeStep ⟨0, 0, 0, 1⟩)) inAgent)
    (fun s i => i.g.fused = true ∧ s.handlerDone i = true ∧ i.g.frames ≠ [])
    (goes (issuePriv (sigOf (.dresumeStep ⟨0, 0, 0, 1⟩)) inAgent)
      (fun s i => (s.modGroup i.r.gref (fun g => { g.resume g.trap.pc g.trap.mask with
        step := (i.g.frames.head?).map (fun f => (f.sp, false)) })).dropLatch i.r.gref)) := meets (by decide)

theorem meets_return_kill : Meets (inHandling false id) (issuePriv (sigOf (.tretKill ⟨0, 0, 0, 1⟩)) inMode)
    (fun s i => i.g.debug = false ∧ i.g.fused = true ∧ s.handlerDone i = true)
    (goes (issuePriv (sigOf (.tretKill ⟨0, 0, 0, 1⟩)) inMode)
      (fun s i => s.unrecoverable i.r i.g.trap.cause.toNat)) := meets (by decide)

/-- Two splits in handler mode. -/
def twoSplits (g : Group) : Group :=
  { g with splits := [some { pc := 0x10000, mask := 0xFFFF, st := .ready, rlist := [], mstk := [], replay := none,
                             lastIssue := 0 },
                      some { pc := 0x10100, mask := 0xFFFF0000, st := .ready, rlist := [], mstk := [],
                             replay := none, lastIssue := 0 }, none, none] }

theorem meets_return_split : Meets (inHandling false twoSplits) (issuePriv (sigOf (.tret ⟨0, 0, 0, 0⟩)) inMode)
    (fun _ i => i.g.debug = false ∧ i.g.fused = false) (traps (fun _ => { cause := cSplitLimit, detail := 3 })) := meets (by decide)

theorem meets_return_agent : Meets (inHandling true id) (issuePriv (sigOf (.tret ⟨0, 0, 0, 0⟩)) inMode)
    (fun _ i => i.g.debug = true) (traps (fun _ => { cause := cIllegalOp })) := meets (by decide)

/-- The hypotheses of a decode check: a unit is being issued, `pre` holds, and the trap meets no unpopulated
address. -/
def Refused (s : State) (pre : Iss → Prop) (q : TrapInfo) : Prop :=
  ∃ i, s.iss? = some i ∧ pre i ∧ Populated (trapped s i q)

theorem refused {s : State} {pre : Iss → Prop} {q : TrapInfo} [∀ i, Decidable (pre i)]
    (h : (match s.iss? with
      | none => false
      | some i => decide (pre i) && (trapped s i q).badPa.isNone && (trapped s i q).away.isNone) = true) : Refused s pre q := by
  split at h
  · cases h
  · rename_i i hi
    simp only [Bool.and_eq_true, decide_eq_true_eq, Option.isNone_iff_eq_none] at h
    exact ⟨i, hi, h.1.1, h.1.2, h.2⟩

theorem refused_mode : Refused (issuing {} id) (fun i => inMode i = false) { cause := cIllegalOp } :=
  refused (by decide)
theorem refused_agent : Refused (inHandling false id) (fun i => inAgent i = false) { cause := cIllegalOp } :=
  refused (by decide)
theorem refused_hint : Refused (issuing { xrcv := some 0 } id)
    (fun i => i.cur.hints.ximm ≠ none ∨ i.cur.hints.xrnd ≠ none ∨ i.cur.hints.xrcv ≠ none)
    { cause := cIllegalHint } := refused (by decide)
theorem refused_register : Refused (issuing {} (fun g => { g with regcnt := 40 }))
    (fun i => noHints i.cur.hints ∧ i.g.regcnt ≤ (40 : BitVec 6).toNat ∧ (40 : BitVec 6).toNat < 48)
    { cause := cIllegalOperand, opnd := 0 } :=
  @refused _ _ _ (fun _ => by dsimp only [noHints]; infer_instance) (by decide)

theorem meets_shootdown : Meets (inHandling false id) (issuePriv (sigOf (.tlbiVa ⟨0, 52, 54, 0⟩)) inMode)
    (fun s i => s.releaseReady i.r = true ∧ s.rowsBusy = false)
    (ends (issuePriv (sigOf (.tlbiVa ⟨0, 52, 54, 0⟩)) inMode)
      (fun s i => (s.fenceRel i.r.gref 5).shootdown (fun l => l.asid == (i.g.src 54 0).toNat % 2 ^ 16))) :=
  meets (by decide)

theorem meets_maintain : Meets (inHandling false (fun g => (g.sSet 4 0x10000).sSet 6 1))
    (issuePriv (sigOf (.cmaintFlush ⟨0, 52, 54, 1⟩)) inMode)
    (fun _ i => (i.g.src64 52 0).toNat % 65536 = 0 ∧ (i.g.src 54 0).toNat ≠ 0 ∧ (i.g.src 54 0).toNat ≤ 65536)
    (ends (issuePriv (sigOf (.cmaintFlush ⟨0, 52, 54, 1⟩)) inMode)
      (fun s i => s.maintain (i.g.src64 52 0).toNat (65536 * (i.g.src 54 0).toNat) true)) := meets (by decide)

theorem meets_sweep : Meets (inHandling false id) (issuePriv (sigOf (.cmaintSweep ⟨0, 0, 0, 2⟩)) inMode)
    (fun _ _ => True)
    (ends (issuePriv (sigOf (.cmaintSweep ⟨0, 0, 0, 2⟩)) inMode) (fun s _ => s.sweep)) := meets (by decide)

/-! ## R378 to R382: calls, forks and joins -/

/-- A gate table of one entry, with one argument and one result register and a callee of 24 registers at 0x18000,
which allows the domain of the placed group. -/
def gateEntry : List Byte :=
  bytesOfNat 8 0x18000 ++ bytesOfNat 8 0x20400 ++ bytesOfNat 4 1 ++ bytesOfNat 2 2 ++ bytesOfNat 2 3 ++
    bytesOfNat 8 2 ++ bytesOfNat 2 9 ++ bytesOfNat 2 8 ++ [0x11, 0x11, 24, 1]
def gated (f : Group → Group) : State :=
  inDram 0x20800 gateEntry (issuing {} (fun g => f { g with ctx := { g.ctx with gcount := 1 } }))

/-- The checks of a call through the gate in s4. -/
def callChecks (s : State) (i : Iss) : Option (Gate × State) := do
  check (i.g.level = 0 ∧ i.g.fused = true ∧ i.g.loads = [])
  let q ← got (s.gateCheck i.b.core.die i.r.gref i.g (i.g.src 52 0).toNat)
  check (∀ v < q.1.va, i.g.emptyIn v i.cur.active = false)
  pure q

theorem passes_gcall : Passes (gated id) (fun _ => issueEng (sigOf (.gcall ⟨0, 52, 0, 0⟩)) true)
    (fun s i => do
      let q ← callChecks s i
      let vb ← q.2.gatePlace i.b.core q.1
      pure (q, vb))
    (fun _ i a => moved i (issueEng (sigOf (.gcall ⟨0, 52, 0, 0⟩)) true)
      (((a.1.2.modGroup i.r.gref (fun g => g.enterGate a.1.1 i.r.sp i.cur.next a.2)).fitL1
        (a.1.2.coreOf i.r.blk) 0).dropLatch i.r.gref)) :=
  passes (by decide)

theorem passes_gcall_waits : Passes (crowded (gated id))
    (fun _ => issueEng (sigOf (.gcall ⟨0, 52, 0, 0⟩)) true)
    (fun s i => do
      let q ← callChecks s i
      check (q.2.gatePlace i.b.core q.1 = none)
      pure q.2)
    (fun s i t => waiting s i (.gcall (i.g.src 52 0).toNat) t) := passes (by decide)

/-- A gate frame of a call with one result register. -/
def gateFrame (g : Group) : GateFrame :=
  { ret := 0x10004, ctx := g.ctx, vb := g.vb, regcnt := 48, s := g.s, k := g.k, v := g.v, fe := g.fe, x := g.x,
    flags := 0, rgnpc := 0, rgnOpen := false, splits := g.splits, gatestat := 0, scr := [], scrSize := 0, vr := 1,
    sr := 1, abort := false }

theorem meets_gret : Meets (issuing {} (fun g => { g with gates := [gateFrame g] }))
    (fun _ => issueEng (sigOf (.gret ⟨0, 0, 0, 0⟩)) true)
    (fun s i => ∃ f ∈ i.g.gates, i.g.gates = [f] ∧ i.g.level = 0 ∧ i.g.fused = true ∧
      (∀ v < f.vr, i.g.emptyIn v i.cur.active = false) ∧ s.calleeDone i = true)
    (goes (fun _ => issueEng (sigOf (.gret ⟨0, 0, 0, 0⟩)) true) (fun s i =>
      ((s.endStashes i.r.gref i.g.gates.length).modGroup i.r.gref
        (fun g => g.gateReturn (gateFrame g))).dropLatch i.r.gref)) := meets (by decide)

theorem meets_gqry_none : Meets (issuing {} id) (fun _ => issueEng (sigOf (.gqry ⟨52, 54, 0, 0⟩)) true)
    (fun s i => (s.gateBytes i.b.core.die i.r.gref i.g.ctx (i.g.src 54 0).toNat).1 = none)
    (ends (fun _ => issueEng (sigOf (.gqry ⟨52, 54, 0, 0⟩)) true) (fun s i =>
      (s.gateBytes i.b.core.die i.r.gref i.g.ctx (i.g.src 54 0).toNat).2.modGroup i.r.gref
        (fun g => setPair g 52 (0, 0)))) := meets (by decide)

theorem passes_gqry : Passes (gated id) (fun _ => issueEng (sigOf (.gqry ⟨52, 54, 0, 0⟩)) true)
    (fun s i => match s.gateBytes i.b.core.die i.r.gref i.g.ctx (i.g.src 54 0).toNat with
      | (some bs, t) => do
        check (natOfBytes ((bs.drop 39).take 1) % 2 = 1)
        pure t
      | _ => none)
    (fun s i t => ended s i (issueEng (sigOf (.gqry ⟨52, 54, 0, 0⟩)) true)
      (t.gateCheck i.b.core.die i.r.gref i.g 0).2) := passes (by decide)

theorem passes_gqry_invalid : Passes (inDram 0x20827 [0] (gated id))
    (fun _ => issueEng (sigOf (.gqry ⟨52, 54, 0, 0⟩)) true)
    (fun s i => match s.gateBytes i.b.core.die i.r.gref i.g.ctx (i.g.src 54 0).toNat with
      | (some bs, t) => do
        check (natOfBytes ((bs.drop 39).take 1) % 2 = 0)
        pure t
      | _ => none)
    (fun s i t => ended s i (issueEng (sigOf (.gqry ⟨52, 54, 0, 0⟩)) true)
      (t.modGroup i.r.gref (fun g => setPair g 52 (0, 0)))) := passes (by decide)

/-- A launch record for one block of one group, and a region control block of kind 1 that inherits its
priority, class, deadline and budgets. -/
def launchBytes : List Byte :=
  bytesOfNat 8 0x10000 ++ bytesOfNat 4 1 ++ [1, 24, 0, 1] ++ bytesOfNat 4 1024 ++ bytesOfNat 4 0 ++
    List.replicate 16 0 ++ bytesOfNat 8 0x30000 ++ bytesOfNat 8 0 ++ bytesOfNat 8 1 ++ bytesOfNat 8 1 ++
    bytesOfNat 8 1 ++ List.replicate 80 0
def controlBytes : List Byte :=
  List.replicate 8 0 ++ [1] ++ List.replicate 15 0xFF ++ List.replicate 232 0

/-- The placed block about to run `FORK [x0+s4]` with its records in place. -/
def forking : State := inDram 0x30000 controlBytes (inScr 0 launchBytes (issuing {} id))

theorem fork_reads : (got (forking.forkRead ⟨0, 0⟩ 0 0)).any (fun r => r.1 == launchBytes) = true := by
  decide +kernel

theorem passes_fork : Passes forking (fun _ => issueEng (sigOf (.fork ⟨0, 52, 0, 0⟩)) true)
    (fun s i => do
      check (i.g.gates = [] ∧ i.g.level = 0 ∧ (i.g.src 52 0).toInt % 32 = 0 ∧ (i.g.src 52 0).toInt = 0)
      let p ← s.region? i.b.rcb
      let l := launchRec launchBytes
      check (launchBad launchBytes = none ∧ l.holds = true)
      check (s.forkEmpty i 0 0 = [])
      let c := s.ctlLoad i.b.core.die i.r.gref l.rcb 256
      check (rcbBad c.1 [1] false = none ∧ budgetOver c.1 p = false)
      check ((regionOfBytes l.rcb c.1 (some p) l).budgetOk = true ∧ p.children ≠ 2 ^ 32 - 1)
      let a := c.2.almanac l
      check (a.1.isSome = true ∧ a.2.releaseReady i.r = true)
      pure (c.1, p, a.2))
    (fun s i a => ended s i (issueEng (sigOf (.fork ⟨0, 52, 0, 0⟩)) true)
      (a.2.2.forkChild i a.2.1 a.1 (launchRec launchBytes))) := passes (by decide +kernel)

theorem meets_join : Meets (issuing {} id) (fun _ => issueEng (sigOf (.join ⟨0, 0, 0, 0⟩)) false)
    (fun _ i => i.g.gates = [] ∧ i.g.level = 0 ∧ i.b.children = 0)
    (ends (fun _ => issueEng (sigOf (.join ⟨0, 0, 0, 0⟩)) false) (fun s i => s.joinAcquire i.r)) :=
  meets (by decide)

theorem meets_join_waits : Meets ((issuing {} id).modBlock 0 (fun b => { b with children := 1 }))
    (fun _ => issueEng (sigOf (.join ⟨0, 0, 0, 0⟩)) false)
    (fun _ i => i.g.gates = [] ∧ i.g.level = 0 ∧ i.b.children ≠ 0)
    (waits (fun _ => .join) (fun s _ => s)) := meets (by decide)

/-! ## R365 to R371, R201, R228: traps, and a block's own memory -/

/-- The placed block. -/
def placed : State := State.reset.withFetchWord 32 0

theorem trap_entry_met : ((placed.group? ⟨0, 0⟩).any (fun g => (g.splits.getD 0 none).isSome && g.level == 0 &&
    g.ctx.trace == 0 && (placed.domains.find? (fun e => e.1 == g.ctx.fdom)).any (fun e =>
      e.1 == g.ctx.fdom && e.2.valid && e.2.hentry != 0 && e.2.dentry == 0))) = true := by decide

theorem trap_return_met : ((placed.group? ⟨0, 0⟩).any (fun g =>
    let h := handling false g
    g.s.length == 16 && g.k.length == 7 && g.x.length == 8 && h.s.length == 16 && h.k.length == 7 &&
      h.x.length == 8 && h.frames == h.frames && h.level == 1)) = true := by decide

theorem local_store_met : ((placed.blocks[0]?).any (fun b => (b.groups[0]?).any (fun g =>
    g.gates == [] && b.stashes == [] && decide (65528 + 8 ≤ b.scrSize) && Memory.wf b.scr &&
      g.v.all (fun w => w.length == 32) && decide (6136 + 8 ≤ 128 * g.v.length)))) = true := by decide +kernel

theorem records_met : ((issuing {} id).iss?.any (fun i => ((issuing {} id).blocks[i.r.blk]?) == some i.b &&
    (i.b.groups[i.r.grp]?) == some i.g && i.g.ctx.trace == 0 && decide (15 < i.b.bars.length))) = true := by decide +kernel

theorem meets_scratchpad_load : Meets (issuing {} (fun g => g.vSet 4 feFull (fun _ => 65528)))
    (fun _ => issueMem (sigOf (.ld64 ⟨46, 4, 0, 0, 0, 0, 0⟩)) false)
    (fun _ i => inScratch i (sigOf (.ld64 ⟨46, 4, 0, 0, 0, 0, 0⟩)) ⟨46, 4, 0, 0, 0, 0, 0⟩ 8 ∧
      alignedAt i (sigOf (.ld64 ⟨46, 4, 0, 0, 0, 0, 0⟩)) ⟨46, 4, 0, 0, 0, 0, 0⟩ 8 ∧ Memory.wf i.b.scr = true)
    (ends (fun _ => issueMem (sigOf (.ld64 ⟨46, 4, 0, 0, 0, 0, 0⟩)) false) (fun s i =>
      s.pendLoad i 46 2 (lanesOf i.cur.active) [] false false 0)) :=
  meets (p := fun _ _ => by dsimp only [inScratch, alignedAt]; infer_instance) (by decide)

theorem meets_scratchpad_store : Meets (issuing {} (fun g => g.vSet 4 feFull (fun _ => 65535)))
    (fun _ => issueMem (sigOf (.st8 ⟨5, 4, 0, 0, 0, 0, 0⟩)) false)
    (fun _ i => inScratch i (sigOf (.st8 ⟨5, 4, 0, 0, 0, 0, 0⟩)) ⟨5, 4, 0, 0, 0, 0, 0⟩ 1 ∧
      alignedAt i (sigOf (.st8 ⟨5, 4, 0, 0, 0, 0, 0⟩)) ⟨5, 4, 0, 0, 0, 0, 0⟩ 1 ∧ Memory.wf i.b.scr = true)
    (ends (fun _ => issueMem (sigOf (.st8 ⟨5, 4, 0, 0, 0, 0, 0⟩)) false) (fun s i =>
      withScr s i (Memory.set i.b.scr 65535 1))) :=
  meets (p := fun _ _ => by dsimp only [inScratch, alignedAt]; infer_instance) (by decide)

/-! ## The steps that have no encoding -/

/-- A step of the device is enabled where the statement says, and its effect meets no unpopulated address. -/
def Enabled (s : State) (ok : State → Prop) (f : State → State) : Prop := ok s ∧ Populated (f s)

theorem enabled {s : State} {ok : State → Prop} {f : State → State} [Decidable (ok s)]
    (h : (decide (ok s) && (f s).badPa.isNone && (f s).away.isNone) = true) : Enabled s ok f := by
  simp only [Bool.and_eq_true, decide_eq_true_eq, Option.isNone_iff_eq_none] at h
  exact ⟨h.1.1, h.1.2, h.2⟩

/-- The placed block with its group changed, and with its split at a blocking point. -/
def withGroup (f : Group → Group) : State := placed.modGroup ⟨0, 0⟩ f
def blockedAt (w : Wake) : State :=
  placed.modSplit ⟨0, 0, 0⟩ (fun p => { p with st := .blocked w 0x10004 })

/-- A load under way into v47 and s15. -/
def pendingLoad : PendLoad :=
  { id := 7, sp := 0, acq := false, lanes := feFull, v := [(47, List.replicate 32 1)], s := [(15, 2)], flags := 0,
    remote := true, since := 0 }

theorem enabled_data : Enabled (withGroup (fun g => { g with loads := [pendingLoad] }))
    (fun s => (s.group? ⟨0, 0⟩).bind (fun g => g.loads.find? (fun l => l.id == 7)) = some pendingLoad)
    (fun s => arrived s ⟨0, 0⟩ 7 pendingLoad) := enabled (by decide)

theorem enabled_acknowledged : Enabled (withGroup (fun g => { g with unacked := [3] }))
    (fun s => ((s.group? ⟨0, 0⟩).any (fun g => g.unacked.contains 3)) = true)
    (fun s => s.modGroup ⟨0, 0⟩ (fun g => { g with unacked := g.unacked.filter (fun n => n != 3) })) :=
  enabled (by decide)

theorem enabled_remote :
    Enabled ({ (withGroup (fun g => { g with loads := [pendingLoad] })).modSplit ⟨0, 0, 0⟩
        (fun p => { p with st := .operand [(47, feFull)] [] }) with cycles := List.replicate 16 2049 })
    (fun s => ((s.split? ⟨0, 0, 0⟩).map (fun p => p.st)) = some (.operand [(47, feFull)] []) ∧
      ((s.group? ⟨0, 0⟩).bind (fun g => g.loads.find?
        (fun l => l.remote && l.since + 2048 < s.cyclesOf (s.coreOf 0) &&
          l.v.any (fun x => x.1 == 47 && feFull &&& l.lanes != 0)))) = some pendingLoad)
    (fun s => s.modSplit ⟨0, 0, 0⟩ (fun p => { p with st := .blocked (.remote 7) p.pc })) := enabled (by decide)

theorem enabled_home :
    Enabled ({ placed.modSplit ⟨0, 0, 0⟩ (fun p => { p with st := .operand [] [], pendSince := some 0 }) with
        cycles := List.replicate 16 2049 })
    (fun s => ((s.split? ⟨0, 0, 0⟩).map (fun p => (p.st, p.pendSince))) = some (.operand [] [], some 0) ∧
      0 + 2048 < s.cyclesOf (s.coreOf 0))
    (fun s => s.modSplit ⟨0, 0, 0⟩ (fun p => { p with st := .blocked .home p.pc })) := enabled (by decide)

theorem enabled_phase :
    Enabled ((blockedAt (.bar 15 0)).modBlock 0 (fun b => { b with bars := b.bars.map (fun k => { k with phase := 1 }) }))
    (fun s => (s.blocks[0]?.any (fun b => !(phaseWaiters s 0 15 b).isEmpty)) = true)
    (fun s => (s.acquireAt ⟨0, 0, 0⟩ 1).wake ⟨0, 0, 0⟩) := enabled (by decide)

theorem enabled_object : Enabled (withObject (blockedAt (.mbwait 64 1)))
    (fun s => (s.wakeOf ⟨0, 0, 0⟩ = some (.mbwait 64 1, 0x10004) ∧ s.mayWake ⟨0, 0⟩ = true) ∧
      ((s.group? ⟨0, 0⟩).any (fun g => (pickFault g.efaults (objFault g 64)).isNone)) = true ∧
      objPhase (s.ownRead ⟨0, 0⟩ 64 16) ≠ 1)
    (fun s => (s.acquireAt ⟨0, 0, 0⟩ 1).wake ⟨0, 0, 0⟩) := enabled (by decide)

theorem enabled_word : Enabled (withObject (blockedAt (.dyield false 64 0 15 0 100)))
    (fun s => (s.wakeOf ⟨0, 0, 0⟩ = some (.dyield false 64 0 15 0 100, 0x10004) ∧ s.mayWake ⟨0, 0⟩ = true) ∧
      s.watched ⟨0, 0⟩ false 64 = .ok (.scr 0 64, 1))
    (fun s => (s.modGroup ⟨0, 0⟩ (fun g => g.sSet 15 0)).wake ⟨0, 0, 0⟩) := by
  exact ⟨⟨by decide, rfl⟩, rfl, rfl⟩

theorem enabled_limit :
    Enabled ({ withObject (blockedAt (.dyield false 64 1 15 0 100)) with cycles := List.replicate 16 100 })
    (fun s => (s.wakeOf ⟨0, 0, 0⟩ = some (.dyield false 64 1 15 0 100, 0x10004) ∧ s.mayWake ⟨0, 0⟩ = true) ∧
      0 + 100 ≤ s.cyclesOf (s.coreOf 0) ∧ s.watched ⟨0, 0⟩ false 64 = .ok (.scr 0 64, 1))
    (fun s => (s.modGroup ⟨0, 0⟩ (fun g => g.sSet 15 1)).wake ⟨0, 0, 0⟩) := by
  exact ⟨⟨by decide, by decide, rfl⟩, rfl, rfl⟩

theorem enabled_grant :
    Enabled ((blockedAt (.regreq 48)).modGroup ⟨0, 0⟩ (fun g => { g with regcnt := 24 }))
    (fun s => (s.wakeOf ⟨0, 0, 0⟩ = some (.regreq 48, 0x10004) ∧ s.mayWake ⟨0, 0⟩ = true) ∧
      ((s.regWaits (s.coreOf 0)).find? (s.regMet (s.coreOf 0))).map (fun x => x.1) = some ⟨0, 0, 0⟩ ∧
      ((s.blocks[0]?).any (fun b => !s.regOver b 24)) = true)
    (fun s => (s.grantRegs ⟨0, 0⟩ 48).wake ⟨0, 0, 0⟩) := enabled (by decide)

theorem enabled_grant_denied :
    Enabled (overBudget ((blockedAt (.regreq 48)).modGroup ⟨0, 0⟩ (fun g => { g with regcnt := 24 })))
    (fun s => (s.wakeOf ⟨0, 0, 0⟩ = some (.regreq 48, 0x10004) ∧ s.mayWake ⟨0, 0⟩ = true) ∧
      ((s.regWaits (s.coreOf 0)).find? (s.regMet (s.coreOf 0))).map (fun x => x.1) = some ⟨0, 0, 0⟩ ∧
      ((s.blocks[0]?).any (fun b => s.regOver b 24)) = true)
    (fun s => ((s.modSplit ⟨0, 0, 0⟩ (fun p => { p with st := .ready })).trapAt ⟨0, 0, 0⟩ { cause := cRegreqDenied }
      0x10000).after ⟨0, 0, 0⟩) := enabled (by decide)

theorem enabled_slot : Enabled (blockedAt (.cpq 15 queueEntry))
    (fun s => (s.wakeOf ⟨0, 0, 0⟩ = some (.cpq 15 queueEntry, 0x10004) ∧ s.mayWake ⟨0, 0⟩ = true) ∧
      ((s.die (s.coreOf 0).die).queue 15).length < 64)
    (fun s => (s.enterCpq (s.coreOf 0).die 15 queueEntry).wake ⟨0, 0, 0⟩) := enabled (by decide)

theorem enabled_join : Enabled (blockedAt .join)
    (fun s => (s.blocks[0]?.any (fun b => b.st == .resident && b.children == 0)) = true ∧
      s.waiters (s.groupsOf 0) (fun r w => w == .join && s.mayWake r.gref) ≠ [])
    (fun s => (s.joinAcquire ⟨0, 0, 0⟩).wake ⟨0, 0, 0⟩) := enabled (by decide)

theorem enabled_join_saved : Enabled (placed.modBlock 0 (fun b => { b with st := .waitingJoin }))
    (fun s => (s.blocks[0]?.any (fun b => b.st == .waitingJoin)) = true ∧ s.isStopped 0 = false ∧
      ∀ m ∈ s.blocksAt (s.cohortOf 0), m.joinWaits = false)
    (fun s => ((s.cohortOf 0).foldl (fun s n => s.modBlock n (fun k => { k with st := .saved })) s).requeue
      ((s.cohortOf 0).headD 0)) := enabled (by decide)

theorem enabled_call :
    Enabled (inDram 0x20800 gateEntry ((blockedAt (.gcall 0)).modGroup ⟨0, 0⟩
      (fun g => { g with ctx := { g.ctx with gcount := 1 } })))
    (fun s => (s.wakeOf ⟨0, 0, 0⟩ = some (.gcall 0, 0x10004) ∧ s.mayWake ⟨0, 0⟩ = true) ∧
      ((s.group? ⟨0, 0⟩).any (fun g => match s.gateCheck (s.coreOf 0).die ⟨0, 0⟩ g 0 with
        | (.ok q, t) => (t.gatePlace (s.coreOf 0) q).isSome
        | _ => false)) = true)
    (fun s => s.after ⟨0, 0, 0⟩) := enabled (by decide)

/-- A parked access of the placed split under a record with token 9. -/
def parked : Parked :=
  { info := { cause := cPageFault }, va := 0x30000, mask := feFull, token := some 9, vregs := [], sregs := [] }
def record : FaultRec :=
  { token := 9, va := 0x30000, asid := 1, fdom := 1, info := { cause := cPageFault }, core := ⟨0, 0, 0⟩, slot := 0,
    mask := feFull }
def faulted : State :=
  (placed.modSplit ⟨0, 0, 0⟩ (fun p => { p with st := .parkedFault parked })).modDie 0
    (fun d => { d with faultq := [record] })

theorem enabled_replay : Enabled faulted
    (fun s => s.recordOf 9 = some (0, record) ∧ (∀ m ∈ s.migrations, record.meets m.leaf = false) ∧
      (s.parkedOn 9).head? = some (⟨0, 0, 0⟩, parked) ∧ s.mayWake ⟨0, 0⟩ = true)
    (fun s => (s.served 0 9).modSplit ⟨0, 0, 0⟩ (fun p => { p with st := .ready, replay := some ⟨feFull, [], [], false, 0x30000⟩ })) :=
  enabled (by decide)

theorem enabled_deliver : Enabled faulted
    (fun s => s.recordOf 9 = some (0, record) ∧ (∀ m ∈ s.migrations, record.meets m.leaf = false) ∧
      record.moved = false ∧ (s.parkedOn 9).head? = some (⟨0, 0, 0⟩, parked) ∧ s.mayWake ⟨0, 0⟩ = true ∧
      (s.split? ⟨0, 0, 0⟩).isSome = true)
    (fun s => (((s.served 0 9).modSplit ⟨0, 0, 0⟩ (fun p =>
        { p with st := .parkedFault { parked with token := none } })).takeTrap ⟨0, 0, 0⟩ parked.info 0x10000 feFull
          0x30000 (some (0x10000, { parked with token := none }))).after ⟨0, 0, 0⟩) := enabled (by decide)

theorem enabled_break : Enabled ((withGroup (fun g => { g with ctx := { g.ctx with mailbox := 0x50000 } })).modCore
      ⟨0, 0, 0⟩ (fun c => { c with brk := c.brk.set 7 0x10001 }))
    (fun s => s.breaks ⟨0, 0, 0⟩ = true ∧ s.resident 0 = true ∧
      ((s.split? ⟨0, 0, 0⟩).any (fun p => p.st == .ready)) = true)
    (fun s => (({ s with cur := none } : State).trapAt ⟨0, 0, 0⟩ { cause := cBreak, detail := 64 } 0x10000).after
      ⟨0, 0, 0⟩) := enabled (by decide)

theorem enabled_fetch : Enabled (issuing {} id)
    (fun s => s.iss?.isSome = true ∧ (cEcc = cPageFault ∨ cEcc = cProtection ∨ cEcc = cDieLost ∨ cEcc = cEcc))
    (fun s => (({ s with cur := none } : State).parkAt ⟨0, 0, 0⟩ 0x10000
      ({ cause := cEcc, detail := 0, acc := 3 }, some 0x10000) feFull [] [] false).after ⟨0, 0, 0⟩) := enabled (by decide)

theorem refused_unassigned : Refused (issuing {} id)
    (fun _ => (0x8B ≤ (0xEF000000 : Word).toNat / 2 ^ 24 ∧ (0xEF000000 : Word).toNat / 2 ^ 24 ≤ 0x8F) ∨
      (0xEB ≤ (0xEF000000 : Word).toNat / 2 ^ 24 ∧ (0xEF000000 : Word).toNat / 2 ^ 24 ≤ 0xEF))
    { cause := cIllegalOp } := refused (by decide)
theorem refused_reserved_hint : Refused (issuing {} id) (fun _ => 0xF5 ≤ (0xF5000000 : Word).toNat / 2 ^ 24)
    { cause := cIllegalHint } := refused (by decide)

/-! ## Engines -/

/-- A closed batch of one `TZERO`. -/
def batched : State := withGroup (fun g => { g with mq := [⟨1, .tzero 0, some 3, 0⟩], batches := [3] })

theorem enabled_batch : Enabled batched
    (fun s => ((s.group? ⟨0, 0⟩).any (fun g =>
      !(g.headRun.map (fun it => (⟨0, 0⟩, it)) ++ s.gangPass ⟨0, 0⟩).isEmpty)) = true)
    (fun s => (s.runItem ⟨0, 0⟩ ⟨1, .tzero 0, some 3, 0⟩).modGroup ⟨0, 0⟩ (fun g => { g with batches := [] })) :=
  enabled (by decide)

/-- A handler runs while the interrupted split waits in a frame. -/
def framedAt (w : Wake) : State :=
  (blockedAt w).modGroup ⟨0, 0⟩ (fun g => g.enter 0 { cause := cSoft } 0x10000 0 0 none 0x18000 0 0 false)

/-- The wait of frame 0, beside the handler's split, which waits for nothing. -/
def framedMet (s : State) (w : Wake) : Prop :=
  s.mayWake ⟨0, 0⟩ = true ∧ s.wakeOf ⟨0, 0, 0⟩ = none ∧
  ((s.group? ⟨0, 0⟩).bind (fun g => g.frames[0]?)).map (fun f => (f.splits.getD 0 none).bind Split.wakeOf) =
    some (some (w, 0x10004))

theorem enabled_framed_word : Enabled (withObject (framedAt (.dyield false 64 0 15 0 100)))
    (fun s => framedMet s (.dyield false 64 0 15 0 100) ∧ s.watched ⟨0, 0⟩ false 64 = .ok (.scr 0 64, 1))
    (fun s => frameGoes (frameSet s ⟨0, 0⟩ 0 15 0) ⟨0, 0, 0⟩ 0) :=
  ⟨⟨⟨by decide, by decide, by decide⟩, rfl⟩, rfl, rfl⟩

theorem enabled_framed_limit :
    Enabled ({ withObject (framedAt (.dyield false 64 1 11 0 100)) with cycles := List.replicate 16 100 })
    (fun s => framedMet s (.dyield false 64 1 11 0 100) ∧ 0 + 100 ≤ s.cyclesOf (s.coreOf 0) ∧
      s.watched ⟨0, 0⟩ false 64 = .ok (.scr 0 64, 1))
    (fun s => frameGoes (frameSet s ⟨0, 0⟩ 0 11 1) ⟨0, 0, 0⟩ 0) :=
  ⟨⟨⟨by decide, by decide, by decide⟩, by decide, rfl⟩, rfl, rfl⟩

theorem enabled_framed_slot : Enabled (framedAt (.cpq 15 queueEntry))
    (fun s => framedMet s (.cpq 15 queueEntry) ∧ ((s.die (s.coreOf 0).die).queue 15).length < 64)
    (fun s => frameGoes (s.enterCpq (s.coreOf 0).die 15 queueEntry) ⟨0, 0, 0⟩ 0) :=
  ⟨⟨⟨by decide, by decide, by decide⟩, by decide⟩, rfl, rfl⟩

/-- Two groups that hold mates for gang 3. -/
def ganged : State :=
  let w : MWork := .mma 0 0 0 1024 ⟨1, 0, 0, 0⟩ ⟨1, 0, 0, 0⟩ [1, 0, 0, 0, 0, 0, 0, 0, 1] false (some 3) true
  placed.modBlock 0 (fun b => { b with
    gang := b.gang.set 3 3
    groups := (b.groups ++ b.groups).zipIdx.map (fun x =>
      { x.1 with mq := [⟨x.2, if x.2 = 0 then w else .mma 1 0 0 1024 ⟨1, 0, 0, 0⟩ ⟨1, 0, 0, 0⟩
        [1, 0, 0, 0, 0, 0, 0, 0, 1] false (some 3) true, none, 0⟩] }) })

theorem enabled_gang : Enabled ganged
    (fun s => (s.blocks[0]?.any (fun b =>
      let held := b.heldIn 3
      let before := fun (h : Nat × MItem) =>
        (((b.groups[h.1]?).map (fun g => g.mq)).getD []).takeWhile (fun it => it.id != h.2.id)
      let members := (List.range 16).filter (fun g => (b.gang.getD 3 0).getLsbD g)
      b.st == .resident && decide (2 ≤ members.length) && members.all (fun g => held.any (fun h => h.1 == g)) &&
        held.all (fun h => (before h).all (fun it => it.work.heldFor == none) &&
          !(s.tileOthers ⟨0, h.1⟩ (h.2.work.tile?.getD 0) h.2.id)))) = true)
    (fun s => s) := enabled (by decide)

theorem enabled_reset : Enabled placed (fun _ => (3 : Nat) < 4 ∧ (2 : Nat) < 3 ∧ (255 : Nat) < 256)
    (fun s => (resetGroups ⟨3, 2, 255⟩ s).report (.engineFault ⟨3, 2, 255⟩)) := enabled (by decide)

theorem enabled_tile : Enabled placed
    (fun s => (s.blocks[0]?.any (fun b => b.st == .resident && decide (15 < b.tiles.length))) = true)
    (fun s => (tileErrorGroups 0 15 s).modTile 0 15 (fun _ => [])) := enabled (by decide)

theorem enabled_drain :
    Enabled ({ batched.modBlock 0 (fun b => { b with drain := some 0 }) with cycles := List.replicate 16 65536 })
    (fun s => (s.blocks[0]?.any (fun b => b.drain == some 0 && decide (0 + 65536 ≤ s.cyclesOf b.core) &&
      b.groups.any (fun g => g.mq != []))) = true)
    (drained 0) := enabled (by decide)

/-- R311, R326: where the drain limit discards the work of a group in an open region, its gang mate in an open region
restarts with it, the mate having none. -/
theorem test_drain_gang : (match exec (.drainLimitExpiry 0) ({ ganged.modBlock 0 (fun b => { b with
      drain := some 0, groups := b.groups.zipIdx.map (fun x =>
        { x.1 with rgnOpen := true, mq := if x.2 = 0 then x.1.mq else [] }) }) with
      cycles := List.replicate 16 65536 }) with
    | .next t => (t.blocks[0]?.any (fun b => b.groups.map (fun g => (g.restart, g.mq.length)) == [(true, 0), (true, 0)]))
    | _ => false) = true := by decide +kernel

/-- An engine instruction that runs. -/
def operation (k : EngKind) : EngOp :=
  { id := 4, grp := ⟨0, 0⟩, sp := 0, depth := 0, level := 0, kind := k, obj := 64, rel := false, scope := 0,
    asid := 1, fdom := 1, die := 0, wait := none, began := false }
def running (k : EngKind) : State := { withObject (writable placed) with engines := [operation k] }

theorem enabled_copy : Enabled (running (.copy ⟨.scratch, 128⟩ ⟨.scratch, 0⟩ 16 12))
    (fun s => s.engine? 4 = some (operation (.copy ⟨.scratch, 128⟩ ⟨.scratch, 0⟩ 16 12)) ∧ s.resident 0 = true ∧
      12 + 4 ≤ 16 ∧ s.relWaits (operation (.copy ⟨.scratch, 128⟩ ⟨.scratch, 0⟩ 16 12)) = false)
    (fun s => s.landRun (operation (.copy ⟨.scratch, 128⟩ ⟨.scratch, 0⟩ 16 12)) 4) := enabled (by decide)

theorem enabled_tile_load : Enabled (running (.tld 15 ⟨.scratch, 0⟩ 8188 false))
    (fun s => s.engine? 4 = some (operation (.tld 15 ⟨.scratch, 0⟩ 8188 false)) ∧ s.resident 0 = true ∧
      8188 + 4 ≤ 8192)
    (fun s => s.landRun (operation (.tld 15 ⟨.scratch, 0⟩ 8188 false)) 4) := enabled (by decide)

theorem enabled_row : Enabled (running (.rowfill [0x10000] 5 0))
    (fun s => s.engine? 4 = some (operation (.rowfill [0x10000] 5 0)) ∧ s.resident 0 = true ∧
      0 < (operation (.rowfill [0x10000] 5 0)).kind.rowsLeft ∧
      (∀ p ∈ (operation (.rowfill [0x10000] 5 0)).kind.nextRows, p / 524288 ∉ s.eccPending ∧
        ((s.homeOf p).any (fun h => (s.die h).st == .running)) = true) ∧
      s.relWaits (operation (.rowfill [0x10000] 5 0)) = false ∧
      ∀ e ∈ s.engines, e.id < 4 → s.rowsRun e.grp.blk = true → ∀ p ∈ e.kind.restRows, p / 524288 ≠ 0)
    (fun s => (s.carry 0 ((s.homeOf 0x10000).getD 0)).rowStep (operation (.rowfill [0x10000] 5 0))) :=
  enabled (by decide +kernel)

theorem enabled_ecc : Enabled { placed with eccPending := [2] } (fun s => 2 ∈ s.eccPending)
    (fun s => { s with eccPending := s.eccPending.filter (fun n => n != 2) }) := enabled (by decide)

theorem enabled_queue : Enabled (placed.modDie 3 (fun d => { d with cq := [(15, { queueEntry with recvDie := 3 })] }))
    (fun s => s.nextEntry ((s.die 3).queue 15) = some { queueEntry with recvDie := 3 } ∧ (s.die 3).st = .running)
    (fun s => s.cpqRun 3 15 { queueEntry with recvDie := 3 }) := enabled (by decide +kernel)

theorem enabled_queue_lost :
    Enabled ((placed.modDie 0 (fun d => { d with cq := [(15, { queueEntry with recvDie := 3 })] })).modDie 3
      (fun d => { d with st := .lost }))
    (fun s => s.nextEntry ((s.die 0).queue 15) = some { queueEntry with recvDie := 3 } ∧ (s.die 0).st = .running ∧
      (s.die 3).st = .lost)
    (fun s => s.freeN.2.cpqEnd 0 15 { queueEntry with recvDie := 3 } { cause := cDieLost, detail := 3 } 0) :=
  enabled (by decide +kernel)

theorem enabled_flag :
    Enabled ((writable placed).modDie 0 (fun d => { d with
      cq := [(15, { queueEntry with landed := 128, flag := some (placedHandle, 1) })] }))
    (fun s => (s.die 0).queue 15 = [{ queueEntry with landed := 128, flag := some (placedHandle, 1) }] ∧
      s.cpqReady { queueEntry with landed := 128, flag := some (placedHandle, 1) } = true ∧ (s.die 0).st = .running)
    (fun s => s.cpqFlagRun 0 15 { queueEntry with landed := 128, flag := some (placedHandle, 1) } placedHandle 1) :=
  enabled (by decide)

/-! ## Coherence -/

/-- The placed core with a leaf of a cached class, and with a line of its frame in a first-level state. -/
def cached : State := rowFrame placed
def holding (st : Mesi) : State :=
  cached.putL1 ⟨0, 0, 0⟩ { line := 512, st := st, data := List.replicate 128 0, mask := 0 }

theorem enabled_gets : Enabled cached
    (fun s => s.askClass ⟨0, 0, 0⟩ 512 = some 1 ∧ realCore ⟨0, 0, 0⟩ = true ∧ s.caches ⟨0, 0, 0⟩ 512 1 = true ∧
      s.homeUp 512 = true ∧ s.coreHolds ⟨0, 0, 0⟩ 512 = false)
    (fun s => (s.l1Read ⟨0, 0, 0⟩ 512 1).2) := enabled (by decide)

theorem enabled_getm : Enabled cached (fun s => s.askClass ⟨0, 0, 0⟩ 512 = some 1 ∧ s.homeUp 512 = true)
    (fun s => (s.getM ⟨0, 0, 0⟩ 512 1).2.putL1 ⟨0, 0, 0⟩
      { line := 512, st := .m, data := (s.getM ⟨0, 0, 0⟩ 512 1).1, mask := 0 }) := enabled (by decide)

theorem enabled_upg : Enabled (holding .s)
    (fun s => ((s.l1? ⟨0, 0, 0⟩ 512).any (fun x => x.st == .s)) = true ∧ s.askClass ⟨0, 0, 0⟩ 512 = some 1 ∧
      s.homeUp 512 = true) (fun s => s.upg ⟨0, 0, 0⟩ 512 1) := enabled (by decide)

theorem enabled_put : Enabled (holding .m) (fun s => ((s.l1? ⟨0, 0, 0⟩ 512).any (fun x => x.st == .m)) = true)
    (fun s => s.put ⟨0, 0, 0⟩ 512) := enabled (by decide)
theorem enabled_pute : Enabled (holding .e) (fun s => ((s.l1? ⟨0, 0, 0⟩ 512).any (fun x => x.st == .e)) = true)
    (fun s => s.put ⟨0, 0, 0⟩ 512) := enabled (by decide)

theorem enabled_eviction : Enabled (cached.l1Read ⟨0, 0, 0⟩ 512 1).2
    (fun s => (s.l2? 0 512).isSome = true ∧ s.homeUp 512 = true) (fun s => s.evict 0 512) := enabled (by decide)

/-- The die's copy of the line has a dirty byte. -/
def dirty : State :=
  ((cached.l1Read ⟨0, 0, 0⟩ 512 1).2).modDie 0 (fun d => { d with
    copies := d.copies.map (fun l => { l with mask := 1, twin := some ⟨List.replicate 128 0, true, 0⟩ }) })

theorem enabled_early : Enabled dirty (fun s => 512 ∈ (s.die 0).dirtyLines) (fun s => s.earlyDiff 0 512) :=
  enabled (by decide)

theorem enabled_release : Enabled dirty
    (fun s => (s.die 0).st = .running ∧ s.toReset 0 = false ∧ s.mergeHeld 0 = false)
    (fun s => s.deviceRelease 0) := enabled (by decide)

/-- A record on its way from CD1 to the home of the line. -/
def diff : DiffRec := diffRec 512 1 true 0 [⟨0, [1]⟩]

theorem enabled_merge : Enabled { cached with records := [diff] }
    (fun s => s.records.find? (fun r => r.src == 1 && !r.merged && s.homeOfLine r.line == some 0) = some diff ∧
      (s.die 0).st = .running ∧ s.mergeTurn diff.line 0 1 ≠ .held)
    (fun s => s.mergeRecord diff) := enabled (by decide)

theorem enabled_ack : Enabled { cached with records := [{ diff with merged := true }] }
    (fun s => s.records.find? (fun r => r.src == 1 && r.merged) = some { diff with merged := true })
    (fun s => { s.reach 1 512 with records := dropFirst (fun r => r.src == 1 && r.merged) s.records }) := enabled (by decide)

theorem enabled_sweep : Enabled (cached.modDie 3 (fun d => { d with csig := BitVec.allOnes 1024 }))
    (fun s => s.sweepDue = true) (fun s => s.sweep) := enabled (by decide +kernel)

theorem enabled_slice : Enabled cached
    (fun s => (0x1007F : Nat) % 128 + 1 ≤ 128 ∧ s.homeAdmits ⟨.die 3, 0x1007F, 1, .strongLoad 1, none, none⟩ = true ∧
      ((s.rangeOf 0x1007F).any (fun m => m.target != .host)) = true ∧ s.homeUp (0x1007F / 128) = true ∧
      (0x1007F : Nat) / 524288 ∉ s.eccPending)
    (fun s => ((s.reach 3 (0x1007F / 128)).sliceLoad ⟨.die 3, 0x1007F, 1, .strongLoad 1, none, none⟩ 1).2.reply [] 0) :=
  enabled (by decide)

/-- The host reads its own memory. -/
theorem enabled_host_access :
    Enabled { cached with map := { base := 2 ^ 40, size := 65536, target := .host, rolger := false } :: cached.map }
    (fun s => (2 ^ 40 + 127) % 128 + 1 ≤ 128 ∧
      ((s.rangeOf (2 ^ 40 + 127)).any (fun m => m.target == .host)) = true)
    (fun s => s.reply (Memory.read s.hostMem (2 ^ 40 + 127) 1)) := enabled (by decide)

theorem enabled_sleep : Enabled { placed with wall := 50000 }
    (fun s => (s.links[5]?.any (fun l => !l.asleep && !l.failed && !l.held &&
      decide (l.busy + 50000 ≤ s.wall.toNat))) = true)
    (fun s => { s with links := modAt s.links 5 (fun l => { l with asleep := true }) }) := enabled (by decide)
theorem enabled_wake : Enabled { placed with links := modAt placed.links 5 (fun l => { l with asleep := true }) }
    (fun s => (s.links[5]?.any (fun l => l.asleep || l.failed)) = true)
    (fun s => { s with links := modAt s.links 5 (fun l => { l with asleep := false }) }) := enabled (by decide)

/-- Link 5 trains: it failed, or it wakes. -/
def training (f : Link → Link) : State := { placed with links := modAt placed.links 5 f }
def trains (s : State) : Prop := 3 ∈ linkDies 5 ∧ (s.die 3).st ≠ .lost ∧
  (s.links[5]?.any (fun l => l.failed || (l.asleep && l.waking.isSome))) = true

theorem enabled_training : Enabled (training (fun l => { l with asleep := true, waking := some 5 }))
    (fun s => trains s ∧ (s.links[5]?.any (fun l => decide (l.failures < 2))) = true) (fun s => s) :=
  @enabled _ _ _ (by dsimp only [trains]; infer_instance) (by decide)
theorem enabled_training_lost : Enabled (training (fun l => { l with failures := 2, failed := true }))
    (fun s => trains s ∧ (s.links[5]?.any (fun l => decide (2 ≤ l.failures))) = true) (fun s => s.dieLost 3) :=
  @enabled _ _ _ (by dsimp only [trains]; infer_instance) (by decide)

/-- What CD3 has not answered for 250 microseconds: a record, or anything in its reset. -/
def silent (s : State) : Prop := (s.die 3).st ≠ .lost ∧ 3 ∈ linkDies 5 ∧
  (s.links[5]?.any (fun l => !l.asleep && !l.failed && decide (l.up + 250000 ≤ s.wall.toNat) &&
    ((s.die 3).st == .inReset || s.records.any (fun r => linkOf r.src 3 == some 5 && s.homeOfLine r.line == some 3 &&
      decide (l.up ≤ r.sent) && decide (r.sent + 250000 ≤ s.wall.toNat))))) = true

theorem enabled_lost_record : Enabled { placed with
      wall := 250000, map := [{ base := 0, size := 0x100000, target := .hbm 6, rolger := false }],
      records := [{ diff with src := 2 }] } silent (fun s => s.dieLost 3) :=
  @enabled _ _ _ (by dsimp only [silent]; infer_instance) (by decide)
theorem enabled_lost_reset : Enabled { placed.modDie 3 (fun d => { d with st := .inReset }) with wall := 250000 }
    silent (fun s => s.dieLost 3) := @enabled _ _ _ (by dsimp only [silent]; infer_instance) (by decide)
theorem enabled_rejoin : Enabled (placed.modDie 3 (fun d => { d with st := .inReset }))
    (fun s => (s.die 3).st = .inReset) (fun s => (s.modDie 3 (fun k => { k with st := .running })).sweep) :=
  enabled (by decide)

/-! ## Scheduling -/

/-- A second region of one block, which waits in queue 63 of CD0. -/
def waitingLaunch : State :=
  { placed with regions := [{ placedRegion with
      st := 1, pend := [(0, 0, 1)], lrec := { placedRegion.lrec with queue := 63 } }], blocks := [] }.modDie 0
    (fun d => { d with lq := [(63, .launch 0x20000)] })

theorem enabled_dispatch : Enabled waitingLaunch
    (fun s => ((s.placeFirst 0 (coresIn 0 2 [255]) (s.candidates 0)).map (fun x => x.1)) =
      some (63, .launch 0x20000)) (fun s => s) := enabled (by decide +kernel)

theorem enabled_restore :
    Enabled ((placed.modBlock 0 (fun b => { b with st := .saved })).modDie 0 (fun d => { d with lq := [(0, .block 0)] }))
    (fun s => ((s.placeFirst (s.coreOf 0).die (coresIn (s.coreOf 0).die 0 [0]) (s.candidates (s.coreOf 0).die)).map
      (fun x => x.1)) = some (0, .block 0)) (fun s => s) := enabled (by decide +kernel)

/-- The placed block, its group waiting and about to be saved. -/
def saving : State := (blockedAt (.bar 15 0)).modGroup ⟨0, 0⟩ (fun g => { g with preempting := true })

theorem enabled_save_stopped : Enabled (saving.modRegion 0x20000 (fun q => { q with stopped := [0] }))
    (fun s => s.saveDue 0 = true ∧ (∀ n ∈ s.cohortOf 0, s.settled n = true) ∧ s.isStopped 0 = true)
    (fun s => (s.cohortOf 0).foldl (fun s n => s.saveBlock .saved n) s) := enabled (by decide +kernel)
theorem enabled_save_join :
    Enabled (((blockedAt .join).modGroup ⟨0, 0⟩ (fun g => { g with preempting := true })).modBlock 0
      (fun b => { b with children := 1 }))
    (fun s => s.saveDue 0 = true ∧ (∀ n ∈ s.cohortOf 0, s.settled n = true) ∧ s.isStopped 0 = false ∧
      ∃ b ∈ s.blocksAt (s.cohortOf 0), b.joinWaits = true)
    (fun s => (s.cohortOf 0).foldl (fun s n => s.saveBlock .waitingJoin n) s) := enabled (by decide +kernel)
theorem enabled_save : Enabled saving
    (fun s => s.saveDue 0 = true ∧ (∀ n ∈ s.cohortOf 0, s.settled n = true) ∧ s.isStopped 0 = false ∧
      ∀ b ∈ s.blocksAt (s.cohortOf 0), b.joinWaits = false)
    (fun s => ((s.cohortOf 0).foldl (fun s n => s.saveBlock .saved n) s).requeue ((s.cohortOf 0).headD 0)) :=
  enabled (by decide +kernel)

theorem enabled_complete : Enabled (placed.modBlock 0 (fun b => { b with st := .ended }))
    (fun s => ((s.region? 0x20000).any (fun q => decide (q.st < 4) && s.gridDone q && q.children == 0 &&
      q.dies.all (fun d => !s.toReset d && !s.mergeHeld d))) = true)
    (fun s => s.completeRegion 0x20000 5) := enabled (by decide +kernel)

/-- A deadline that has run out. -/
def overrun (second : Bool) (level : Nat) : State :=
  { withGroup (fun g => { g with level := level, deadline := some ⟨0, 100, second⟩ }) with
    cycles := List.replicate 16 100 }

theorem enabled_deadline : Enabled (overrun false 0)
    (fun s => ((s.group? ⟨0, 0⟩).any (fun g => g.level == 0)) = true ∧ s.overdue ⟨0, 0⟩ false = true) (fun s => s) :=
  enabled (by decide)
theorem enabled_deadline_handler : Enabled (overrun false 1)
    (fun s => ((s.group? ⟨0, 0⟩).any (fun g => g.level != 0)) = true ∧ s.overdue ⟨0, 0⟩ false = true)
    (fun s => s.killFor ⟨0, 0⟩ cPreemptDeadline) := enabled (by decide +kernel)
theorem enabled_second : Enabled (overrun true 0) (fun s => s.overdue ⟨0, 0⟩ true = true)
    (fun s => s.killFor ⟨0, 0⟩ cPreemptDeadline) := enabled (by decide +kernel)

theorem enabled_evict :
    Enabled (((blockedAt (.regreq 48)).modGroup ⟨0, 0⟩ (fun g => { g with regcnt := 24 })).modBlock 0
      (fun b => { b with scrSize := storeLimit - 24 * 128 }))
    (fun s => s.evictee ⟨0, 0, 0⟩ = some 0 ∧ s.regDeadlock ⟨0, 0, 0⟩ = true ∧
      ∀ b ∈ s.blocksAt (s.blocksOn ⟨0, 0, 0⟩), b.preempting = false)
    (fun s => (s.startDrain 0 true).noteDrains) :=
  enabled (by decide +kernel)

/-! ## Commands -/

/-- A command entry of queue 0 with its code and argument bytes, and the package that is about to start it. -/
def entryOf (code : Nat) (args : List Byte) : CmdEntry :=
  ⟨0, bytesOfNat 2 code ++ List.replicate 6 0 ++ bytesOfNat 8 0x80000 ++ args ++ List.replicate (48 - args.length) 0⟩
def about (s : State) (e : CmdEntry) : State := { s with taken := [e] }

/-- A command starts with its limits kept, `pre` holds, and `f` gives what it leaves. -/
def Takes (s : State) (e : CmdEntry) (code : Nat) (named : List Nat) (chk : List (Nat × Bool))
    (pre : State → Prop) (f : State → State) : Prop :=
  Enabled (about s e) (fun s => startsAs s e code ∧ limitsOk e named chk ∧ pre (taking s e))
    (fun s => f (taking s e))

theorem takes {s : State} {e : CmdEntry} {code : Nat} {named : List Nat} {chk : List (Nat × Bool)}
    {pre : State → Prop} {f : State → State} [∀ s, Decidable (pre s)]
    (h : ((about s e).starts e && decide (natOfBytes ((e.bytes.drop 0).take 2) = code) &&
      decide (s.boot = .running) && (entryBad e named chk).isNone && decide (pre (taking (about s e) e)) &&
      (f (taking (about s e) e)).badPa.isNone &&
      (f (taking (about s e) e)).away.isNone) = true) : Takes s e code named chk pre f := by
  simp only [Bool.and_eq_true, decide_eq_true_eq, Option.isNone_iff_eq_none] at h
  obtain ⟨⟨⟨⟨⟨⟨h1, h2⟩, h3⟩, h4⟩, h5⟩, h6⟩, h7⟩ := h
  exact ⟨⟨⟨h1, h2, h3⟩, h4, h5⟩, h6, h7⟩

/-- A command that only completes, and a migration. -/
def done (e : CmdEntry) (s : State) : State := s.complete e 0 0
def migrated (e : CmdEntry) (s : State) : State := s.migrateNow e

theorem enabled_doorbell :
    Enabled ({ inDram 0x90000 (entryOf 13 [0x58, 2]).bytes placed with
        queues := [⟨0x90000, 16, 15, 15⟩, ⟨0x90000, 16, 15, 15⟩], headless := true })
    (fun s => s.queues[1]? = some ⟨0x90000, 16, 15, 15⟩ ∧ s.boot = .running ∧ (0 : Nat) < 16)
    (fun s => (s.ringEntries 1 ⟨0x90000, 16, 15, 15⟩ 15 ((0 + 16 - 15) % 16)).2) := enabled (by decide)

/-- A region control block of a root: address space and domain 1, a save area at 0x20C00. -/
def rootBytes : List Byte :=
  List.replicate 8 0 ++ [0] ++ List.replicate 15 0xFF ++ bytesOfNat 2 1 ++ bytesOfNat 2 1 ++ bytesOfNat 4 0 ++
    bytesOfNat 8 0x20400 ++ bytesOfNat 8 0x20800 ++ List.replicate 48 0 ++ bytesOfNat 8 0x20C00 ++ List.replicate 152 0

theorem takes_launch :
    Takes (inDram 0x30000 rootBytes (inDram 0x32000 launchBytes placed))
      (entryOf 1 (bytesOfNat 8 0x32000 ++ bytesOfNat 2 256)) 1 (range' 16 10)
      [(16, isPa 0x32000 && 0x32000 % 32 == 0), (24, true)]
      (fun s =>
        let r := s.physRead 0x32000 160
        let l := launchRec r.1
        let b := r.2.physRead l.rcb 256
        let q := regionOfBytes l.rcb b.1 none l
        launchBad r.1 = none ∧ l.holds = true ∧ rcbBad b.1 [0, 2] true = none ∧
          inBudget q.regu (l.gpb * l.regs / 8) = true ∧ inBudget q.spu (l.scratch / 1024) = true ∧
          inBudget q.tileu l.tiles = true ∧ (b.2.almanac l).1.isSome = true)
      (launchBody (entryOf 1 (bytesOfNat 8 0x32000 ++ bytesOfNat 2 256))) := takes (by decide +kernel)

theorem takes_preempt : Takes placed (entryOf 2 (bytesOfNat 8 0x20000 ++ [15])) 2 (range' 16 9)
    [(16, isPa 0x20000), (24, true)] (fun s => ((s.region? 0x20000).any (fun q => decide (q.st < 4))) = true)
    (fun s => s.preemptNow placedRegion (diesOf 15)) := takes (by decide)

theorem takes_resume : Takes (placed.modRegion 0x20000 (fun q => { q with st := 3 }))
    (entryOf 3 (bytesOfNat 8 0x20000)) 3 (range' 16 8) [(16, isPa 0x20000)]
    (fun s => ((s.region? 0x20000).any (fun q => q.st == 3)) = true ∧ s.preemptPending 0x20000 = false)
    (fun s => s.resumeNow { placedRegion with st := 3 }) := takes (by decide)

theorem takes_kill : Takes placed (entryOf 4 (bytesOfNat 8 0x20000)) 4 (range' 16 8) [(16, isPa 0x20000)]
    (fun s => ((s.region? 0x20000).any (fun q => decide (q.st < 4))) = true)
    (fun s => s.killRegion 0x20000 2) := takes (by decide +kernel)

/-- Page tables for address space 1, with no mapping. -/
def tabled : State :=
  { inDram 0x50000 (bytesOfNat 8 0x60001) (inDram 0x60000 (bytesOfNat 8 0x70001) placed) with
    roots := [(1, 0x50000)], tables := [0x60000, 0x70000] }

theorem takes_map : Takes tabled (entryOf 5 (bytesOfNat 8 1 ++ bytesOfNat 8 0x30000 ++ bytesOfNat 8 0x80003 ++
      bytesOfNat 4 1)) 5 (range' 16 2 ++ range' 24 20)
    [(32, tabled.pteOk 0x80003 1), (24, true), (40, true)]
    (fun s => s.rowsBusy = false ∧ s.migrations = [] ∧ (s.mapPages 1 0x30000 0x80003 1).isSome = true ∧
      (tabled.mapPages 1 0x30000 0x80003 1).isSome = true)
    (fun s => s) := takes (by decide +kernel)

theorem takes_map_waits : Takes { tabled with engines := [{ operation (.rowfill [0x10000] 5 0) with id := 9 }] }
    (entryOf 5 (bytesOfNat 8 1 ++ bytesOfNat 8 0x30000 ++ bytesOfNat 8 0x80003 ++ bytesOfNat 4 1)) 5
    (range' 16 2 ++ range' 24 20) [(32, tabled.pteOk 0x80003 1), (24, true), (40, true)]
    (fun s => s.rowsBusy = true ∧ s.pteOk 0x80003 1 = tabled.pteOk 0x80003 1) (fun s => s) := takes (by decide +kernel)

theorem takes_unmap : Takes tabled (entryOf 6 (bytesOfNat 8 1 ++ bytesOfNat 8 0x30000 ++ bytesOfNat 8 0 ++
      bytesOfNat 4 2)) 6 (range' 16 2 ++ range' 24 8 ++ range' 40 4) [(24, true), (40, true)]
    (fun s => (∃ r ∈ s.roots, r.1 = 1) ∧ s.rowsBusy = false ∧ s.migrations = []) (fun s => s.unmapPage 1 0x30000) := takes (by decide +kernel)

/-- An address space whose page at 0x30000 stands at 0x80000, and a MIGRATE of it to a tier. -/
def mapped : State := inDram 0x70018 (bytesOfNat 8 0x80003) tabled
def migration (tier : Byte) : CmdEntry := entryOf 7 (bytesOfNat 8 1 ++ bytesOfNat 8 0x30000 ++ [tier])

/-- The page that a MIGRATE names is mapped, not pinned, and in a tier or not. -/
def migrates (tier : Nat) (inIt : Bool) (s : State) : Prop :=
  ((s.leafAt 1 0x30000).any (fun x => let l := leafOf x.1 x.2.1 x.2.2 1 0x30000
    !(s.pinned l) && s.inTier tier l.pbase == inIt)) = true

theorem takes_migrate_there : Takes mapped (migration 0) 7 (range' 16 2 ++ range' 24 9) [(24, true), (32, true)]
    (migrates 0 true) (done (migration 0)) :=
  @takes _ _ _ _ _ _ _ (fun _ => by dsimp only [migrates]; infer_instance) (by decide +kernel)
theorem takes_migrate_nowhere : Takes mapped (migration 1) 7 (range' 16 2 ++ range' 24 9) [(24, true), (32, true)]
    (fun s => migrates 1 false s ∧ (s.migrateTo 1 65536).1 = none) (fun s => s.complete (migration 1) 1 32) := by
  refine ⟨⟨⟨?_, ?_, ?_⟩, ?_, ?_, ?_⟩, ?_, ?_⟩ <;> first | decide +kernel | (unfold migrates; decide +kernel) | (unfold limitsOk; decide +kernel)

/-- The second tier holds one frame. -/
def roomy : State :=
  { mapped with map := mapped.map ++ [{ base := 0x200000, size := 65536, target := .cxl 0, rolger := false }] }

theorem one_frame (b size k n : Nat) (used : List (Nat × Nat))
    (h : used.any (fun u => u.1 < b + size && b < u.1 + u.2) = false) :
    unusedFrame [(b, 1)] size used k (n + 1) = some b := by
  simp only [unusedFrame, nthFrame, List.map_cons, List.map_nil, List.sum_cons, List.sum_nil, Nat.add_zero, Nat.mod_one]
  simp [h]

theorem takes_migrate : Takes roomy (migration 1) 7 (range' 16 2 ++ range' 24 9) [(24, true), (32, true)]
    (fun s => migrates 1 false s ∧ migration 1 ∉ s.pending ∧ (s.migrateTo 1 65536).1 = some 0x200000)
    (fun s => (s.physWrite 0x70018 (bytesOfNat 8 0x80002)).shootdown (tlbiVaLeaf 1 0x30000)) := by
  refine ⟨⟨⟨?_, ?_, ?_⟩, ?_, ?_, ?_, ?_⟩, ?_, ?_⟩ <;>
    first | exact one_frame 0x200000 65536 _ _ _ (by decide) | decide +kernel | (unfold migrates; decide +kernel) | (unfold limitsOk; decide +kernel)

theorem takes_reset : Takes placed (entryOf 8 [3]) 8 [16] [(16, true)]
    (fun s => (0 = if s.headless then 1 else 0) ∧ (s.die 3).st = .running) (fun s => s.dieReset 3) :=
  takes (by decide)

theorem takes_link : Takes placed (entryOf 9 [63, 1]) 9 [16, 17] [(16, true), (17, true)] (fun _ => True)
    (done (entryOf 9 [63, 1])) := takes (by decide +kernel)

theorem takes_attest : Takes placed (entryOf 10 (bytesOfNat 8 0x30000 ++ bytesOfNat 8 0x40000)) 10 (range' 16 16)
    [(16, isPa 0x30000), (24, isPa 0x40000)]
    (fun s => (s.physRead 0x30000 32).1.length = 32 ∧ (s.freeBytes 18).1.length = 18)
    (fun s => s.physWrite 0x40000 (List.replicate 96 0 ++ fixLen 64 (Config.ecdsaSign []))) :=
  takes (by decide +kernel)

theorem takes_trace : Takes placed (entryOf 11 (bytesOfNat 8 0x20000)) 11 (range' 16 16)
    [(16, isPa 0x20000), (24, isPa 0)] (fun s => (s.region? 0x20000).isSome = true)
    (done (entryOf 11 (bytesOfNat 8 0x20000))) := takes (by decide +kernel)

/-- A trace descriptor, and a TRACE_CFG that enables it. -/
def traceEntry : CmdEntry := entryOf 11 (bytesOfNat 8 0x20000 ++ bytesOfNat 8 0x40000)
theorem takes_trace_on :
    Takes (inDram 0x40000 (bytesOfNat 8 0x10000 ++ bytesOfNat 8 65536 ++ List.replicate 17 0 ++ [15]) placed)
    traceEntry 11 (range' 16 16) [(16, isPa 0x20000), (24, isPa 0x40000)]
    (fun s => (s.region? 0x20000).isSome = true ∧ traceBad (s.physRead 0x40000 64).1 = none)
    (fun s => (((traced s placedRegion 0x40000).physWrite 0x40010 (bytesOfNat 8 0)).physWrite 0x40020 [1]).complete
      traceEntry 0 0 (sigOfRange 0x40000 64)) := by
  refine ⟨⟨⟨?_, ?_, ?_⟩, ?_, ?_⟩, ?_, ?_⟩ <;> first | decide +kernel | (unfold limitsOk; decide +kernel)

/-- A REPLAY_CFG of each mode. -/
def replayEntry (mode : Byte) : CmdEntry := entryOf 12 (mode :: List.replicate 7 0 ++ bytesOfNat 8 0x31000 ++ bytesOfNat 8 64)
def replayChk : List (Nat × Bool) := [(16, true), (24, isPa 0x31000 && 0x31000 % 4096 == 0), (32, 64 % 32 == 0)]

theorem takes_replay_off : Takes placed (replayEntry 0) 12 ([16] ++ range' 24 16) replayChk
    (fun _ => argOf (replayEntry 0) 16 1 = 0)
    (fun s => (replaySet s (replayEntry 0) 0 0).complete (replayEntry 0) 0 0) := by
  refine ⟨⟨⟨?_, ?_, ?_⟩, ?_, ?_⟩, ?_, ?_⟩ <;> first | decide +kernel | (unfold limitsOk; decide +kernel)
theorem takes_replay_record : Takes placed (replayEntry 1) 12 ([16] ++ range' 24 16) replayChk
    (fun _ => argOf (replayEntry 1) 16 1 = 1)
    (fun s => (replaySet (s.physWrite 0x31000 (List.replicate 32 0)) (replayEntry 1) 1 0).complete (replayEntry 1) 0 0
      (sigOfRange 0x31000 32)) := by
  refine ⟨⟨⟨?_, ?_, ?_⟩, ?_, ?_⟩, ?_, ?_⟩ <;> first | decide +kernel | (unfold limitsOk; decide +kernel)
theorem takes_replay_run : Takes placed (replayEntry 2) 12 ([16] ++ range' 24 16) replayChk
    (fun s => argOf (replayEntry 2) 16 1 = 2 ∧ (s.physRead 0x31000 8).1.length = 8)
    (fun s => let h := s.physRead 0x31000 8
      (replaySet h.2 (replayEntry 2) 2 (natOfBytes h.1)).complete (replayEntry 2) 0 0) := by
  refine ⟨⟨⟨?_, ?_, ?_⟩, ?_, ?_⟩, ?_, ?_⟩ <;> first | decide +kernel | (unfold limitsOk; decide +kernel)

theorem takes_cap : Takes placed (entryOf 13 (bytesOfNat 4 600)) 13 (range' 16 4) [(16, true)]
    (fun s => 0 = if s.headless then 1 else 0) (done (entryOf 13 (bytesOfNat 4 600))) :=
  takes (by decide +kernel)

/-- A query of item 2 into 0x40000, and a write of the hotness interval. -/
def queryEntry : CmdEntry := entryOf 14 (bytesOfNat 8 2 ++ bytesOfNat 8 0x40000)
def intervalEntry : CmdEntry := entryOf 14 ([7, 0, 1] ++ List.replicate 5 0 ++ bytesOfNat 8 0x40000 ++ bytesOfNat 8 100)

theorem takes_query : Takes placed queryEntry 14 (range' 16 3 ++ range' 24 16) ((18, true) :: queryBad queryEntry)
    (fun s => (s.itemReply 2 0).isSome = true)
    (fun s => s.physWrite 0x40000 ((s.itemReply 2 0).getD [])) := takes (by decide +kernel)

theorem takes_query_write : Takes placed intervalEntry 14 (range' 16 3 ++ range' 24 16)
    ((18, true) :: (18, true) :: (32, true) :: queryBad intervalEntry)
    (fun s => s.boot ≠ .off ∧ argOf intervalEntry 16 2 = 7 ∧ argOf intervalEntry 32 8 = 100)
    (fun s => s.physWrite 0x40000 (bytesOfNat 4 100)) := takes (by decide +kernel)

/-- An address map of eight stacks with Rolger's 2 GB, in whole pages, in each. -/
def bootMap : List MapRange :=
  (List.range 8).flatMap (fun k =>
    [{ base := 2 ^ 36 * k, size := 30518 * 65536, target := .hbm k, rolger := true },
     { base := 2 ^ 36 * k + 30518 * 65536, size := 946044 * 65536, target := .hbm k, rolger := false }])

theorem boot_met : Populated State.reset ∧ State.reset.boot = .off ∧ mapOk bootMap = true ∧
    16 ≤ (List.replicate 16 ([] : List Byte)).length :=
  ⟨⟨by decide, by decide⟩, by decide, by decide +kernel, by decide⟩
theorem tick_met : placed.badPa = none ∧ placed.away = none ∧ placed.boot ≠ .off ∧
    ({ placed with wall := 1000000000 } : State).power.sound + 1000000000 ≤ (1000000000 : BitVec 64).toNat ∧
    ({ placed with wall := 10000 } : State).power.tick + 10000 ≤ (10000 : BitVec 64).toNat := by decide
theorem enabled_hotness : Enabled { placed with wall := 100000000 }
    (fun s => (23 : Nat) < 24 ∧ s.boot ≠ .off ∧ s.hot.since.getD 23 0 + 1000 * s.hot.interval ≤ s.wall.toNat)
    (fun s => { s with hot := { s.hot with since := s.hot.since.set 23 s.wall.toNat } }) := enabled (by decide)

/-! ## Parking -/

/-- What an access in doubt leaves: the state of a parked split meets no unpopulated address. -/
def parks (f : State → Iss → State) (q : State → Iss → MFault) (m : State → Iss → Mask) (vs : List Nat) (fl : Bool) :
    State → Iss → State := fun s i => Claims.parked i (f s i) (q s i) (m s i) vs [] fl

/-- Lane 31 stands just beyond the scratchpad, the others at 0. -/
def beyond : State := issuing {} (fun g => g.vSet 4 feFull (fun L => if L = 31 then 65536 else 0))

/-- The lowest lane that faults, and its fault. -/
def lowest (s : State) (i : Iss) (sig : OpSig) (x : MF) (k : AccKind) (amo : Bool) : Nat × MFault :=
  (firstFault (placesOf s i sig x 4 k amo).1).getD (32, ({ cause := 0 }, none))
/-- Lane 31 is the lowest that faults, beyond the bound. -/
def outOfBounds (s : State) (i : Iss) (sig : OpSig) (x : MF) (k : AccKind) (amo : Bool) : Prop :=
  alignedAt i sig x 4 ∧ (firstFault (placesOf s i sig x 4 k amo).1).isSome = true ∧
    (lowest s i sig x k amo).1 = 31 ∧ (lowest s i sig x k amo).2.1.cause = cBounds ∧
    i.g.anyEmpty 4 (placesOf s i sig x 4 k amo).1 = []

def loadForm : MF := ⟨5, 4, 0, 0, 0, 0, 0⟩
theorem parks_load : Meets beyond (fun _ => issueMem (sigOf (.ld32 loadForm)) false)
    (fun s i => outOfBounds s i (sigOf (.ld32 loadForm)) loadForm .load false)
    (parks (fun s i =>
      let o := orderOf s i loadForm .load false
      let q := placesOf s i (sigOf (.ld32 loadForm)) loadForm 4 .load false
      let v := readLanes i 4 o (fun n => [BitVec.ofNat 32 n]) q.2 (okAll q.1)
      (v.2.2.pendLoad i 5 1 (q.1.map (fun p => p.1)) v.1 o.acquires false 0).takeEntry i o v.2.1 true)
      (fun s i => (lowest s i (sigOf (.ld32 loadForm)) loadForm .load false).2)
      (fun s i => outside (placesOf s i (sigOf (.ld32 loadForm)) loadForm 4 .load false).1) [5] false) :=
  meets (p := fun _ _ => by dsimp only [outOfBounds, alignedAt]; infer_instance) (by decide +kernel)

theorem parks_store : Meets beyond (fun _ => issueMem (sigOf (.st32 loadForm)) false)
    (fun s i => outOfBounds s i (sigOf (.st32 loadForm)) loadForm .store false ∧
      (orderOf s i loadForm .store false).releases = false)
    (parks (fun s i =>
      let o := orderOf s i loadForm .store false
      let q := placesOf s i (sigOf (.st32 loadForm)) loadForm 4 .store false
      let r := q.2.preRelease i o
      writeLanes i loadForm 1 4 o r.1 r.2 (okPrefix q.1))
      (fun s i => (lowest s i (sigOf (.st32 loadForm)) loadForm .store false).2)
      (fun s i => fromLane (placesOf s i (sigOf (.st32 loadForm)) loadForm 4 .store false).1 31) [] false) :=
  meets (p := fun _ _ => by dsimp only [outOfBounds, alignedAt]; infer_instance) (by decide +kernel)

def amoForm : MF := ⟨5, 4, 0, 0, 3, 1, 2⟩
theorem parks_atomic : Meets beyond (fun _ => issueMem (sigOf (.amoFaddF32 amoForm)) true)
    (fun s i => outOfBounds s i (sigOf (.amoFaddF32 amoForm)) amoForm .atomic true ∧
      (placesOf s i (sigOf (.amoFaddF32 amoForm)) amoForm 4 .atomic true).2.anyHeld i
        (placesOf s i (sigOf (.amoFaddF32 amoForm)) amoForm 4 .atomic true).1 = false ∧
      (boundAt s i amoForm .atomic).releaseReady i.r = true)
    (parks (fun s i =>
      let o := orderOf s i amoForm .atomic true
      let q := placesOf s i (sigOf (.amoFaddF32 amoForm)) amoForm 4 .atomic true
      let r := q.2.preRelease i o
      let v := updateLanes i amoForm 4 1 (fun m a b _ => (some (sumOf fp32 m a b).1, (sumOf fp32 m a b).2)) o r.1 r.2
        (okPrefix q.1)
      (v.2.2.2.pendLoad i 5 1 (q.1.map (fun p => p.1)) v.1 o.acquires false (v.2.2.1 &&& flagsMask)).takeEntry i o
        v.2.1 true)
      (fun s i => (lowest s i (sigOf (.amoFaddF32 amoForm)) amoForm .atomic true).2)
      (fun s i => fromLane (placesOf s i (sigOf (.amoFaddF32 amoForm)) amoForm 4 .atomic true).1 31) [5] true) :=
  meets (p := fun _ _ => by dsimp only [outOfBounds, alignedAt]; infer_instance) (by decide +kernel)

/-- An access through x2 of the placed group: where its handle, its bound and its page lead. -/
def through (f : HandleX → HandleX) : State := placed.modGroup ⟨0, 0⟩ (fun g =>
  { g with x := g.x.set 2 (.handle (f placedHandle)) })

theorem handle_met : ((0 ≤ (65532 : Int) ∧ (65532 : Int) + 4 ≤ placedHandle.limit ∧ codeLeaf.denies .load false = none) ∧
    (placedHandle.bound : Int) < (placedHandle.boff : Int) + 65533 + 4 ∧ ((placedHandle.boff : Int) + -1 < 0)) ∧
    ((match (placed.translate ⟨0, 0, 0⟩ 1 codePage .load false).1 with | .ok p => p.1 == codePage | .error _ => false) &&
    (match (placed.translate ⟨0, 0, 0⟩ 1 codePage .store false).1 with
      | .ok _ => false
      | .error e => e.cause == cPageFault) &&
    ((through (fun h => { h with frame := none })).group? ⟨0, 0⟩).any (fun g => match g.x.getD 2 .unbound with
      | .handle h => h.frame.isNone && h.boff == 0 && decide (65532 + 4 ≤ h.bound)
      | _ => false)) = true := by decide +kernel

/-! ## Divisions -/

/-- A split with some rejoin addresses and sets of a serialization, and a group of some splits. -/
def splitAt (a : Pc) (m : Mask) (rl : List REntry) (ms : List MEntry) : Option Split :=
  some { pc := a, mask := m, st := .ready, rlist := rl, mstk := ms, replay := none, lastIssue := 0 }
def groupOf (l : List (Option Split)) : Group := { newGroup placedRegion ⟨0, 0, 0⟩ 0 0 with splits := l }

/-- One lane set that takes a branch and one that does not: room for both, a split that is serialized already, and one
whose stack is full. -/
def fitting : Group := groupOf [splitAt 0x10000 feFull [⟨0x10100, feFull⟩] [], none, none, none]
def serial : Group := groupOf [splitAt 0x10000 feFull [] [⟨.rejoin, 0x10200, feFull⟩], none, none, none]
def stacked : Group :=
  groupOf [splitAt 0x10000 feFull [] (List.replicate 7 ⟨.pending, 0x10200, 1⟩), none, none, none]

theorem divide_met :
    (fitting.splits.getD 0 none).any (fun p => p.mstk.isEmpty && decide (p.rlist.length < 4)) = true ∧
    1 ≤ ((List.range fitting.splits.length).filter (fun n => (fitting.splits.getD n none).isNone)).length ∧
    (serial.splits.getD 0 none).any (fun p => p.mstk != [] && decide (p.mstk.length + 1 + 1 ≤ 8)) = true ∧
    (stacked.splits.getD 0 none).any (fun p => p.mstk != [] && decide (8 < p.mstk.length + 1 + 1)) = true := by decide

/-- The placed group whose split cannot divide. -/
def full (h : Hints) (f : Group → Group) : State := issuing h (fun g => f { g with splits := stacked.splits })

theorem meets_branch_limit : Meets (full { xrcv := some 2 } (fun g => g.kSet 1 feFull 1))
    (fun _ => issueB (sigOf (.bra ⟨1, 0, 1⟩)) [] true [])
    (fun _ i => takenB i ⟨1, 0, 1⟩ ≠ 0 ∧ takenB i ⟨1, 0, 1⟩ ≠ i.p.mask ∧
      (i.g.divide i.r.sp (i.cur.next, i.p.mask &&& ~~~takenB i ⟨1, 0, 1⟩) [(branchTo i ⟨1, 0, 1⟩, takenB i ⟨1, 0, 1⟩)]
        i.ra).isNone = true)
    (traps (fun _ => { cause := cSplitLimit })) := meets (by decide)

theorem meets_brx_limit : Meets (full { xrcv := some 0 } (fun g => g.vSet 2 1 (fun _ => 4)))
    (fun _ => { sig := sigOf (.brx (r 0 2 0)), acc := accC true, f := some false })
    (fun _ i => (∀ L ∈ lanesOf (i.part 0 &&& i.p.mask), (i.g.src 2 L).toNat % 4 = 0) ∧
      (i.dests (i.part 0 &&& i.p.mask) (fun L => i.g.src 2 L)).length = 2 ∧
      (i.g.divide i.r.sp ((i.dests (i.part 0 &&& i.p.mask) (fun L => i.g.src 2 L)).getD 0 (0, 0))
        [(i.dests (i.part 0 &&& i.p.mask) (fun L => i.g.src 2 L)).getD 1 (0, 0)] i.ra).isNone = true)
    (traps (fun _ => { cause := cSplitLimit })) := meets (by decide)

/-- Two halves of a group parked at the rejoin address of both, and two splits at one address. -/
def halves : Group := groupOf ([0xFFFF, 0xFFFF0000].map (fun m =>
  (splitAt 0x10100 m [⟨0x10100, feFull⟩] []).map (fun p => { p with st := .parkedRa })) ++ [none, none])
def equals : Group := groupOf [none, splitAt 0x10100 0xFFFF [] [], none, splitAt 0x10100 0xFFFF0000 [] []]

/-- A split that runs on, one parked with a list that its lanes do not make up, and two whose lanes do. -/
def mixed : Group :=
  let at' := fun (m e : Mask) => (splitAt 0x10100 m [⟨0x10200, feFull⟩, ⟨0x10100, e⟩] []).map (fun p => { p with st := .parkedRa })
  groupOf [splitAt 0x10000 0xF [⟨0x10200, feFull⟩, ⟨0x10100, 0xFF⟩] [], at' 0xF0 0xFF, at' 0xF00 0xFFFFFF00, at' 0xFFFFF000 0xFFFFFF00]

/-- Whether a parked split and those of its list make up the lanes that the list is to bring together (R36). -/
def wholeIn (g : Group) (x : Nat × Split) : Bool :=
  x.2.st == .parkedRa && (x.2.rlist.getLast?).any (fun e =>
    e.exp == (g.valid.filter (fun y => y.2.st == .parkedRa && y.2.rlist == x.2.rlist)).foldl (fun m y => m ||| y.2.mask) 0)

theorem settle_met : (mixed.splits.all (fun o => o.map Split.arrive == o)) = true ∧ mixed.preempting = false ∧
    mixed.valid.map (wholeIn mixed) = [false, false, true, true] ∧ halves.valid.map (wholeIn halves) = [true, true] ∧
    ({ halves with preempting := true } : Group).preempting = true ∧ fitting.valid.map (wholeIn fitting) = [false] := by
  decide

theorem fuse_met : (equals.splits.getD 3 none).any (fun p => decide (2 ≤ (equals.valid.filter (fun y =>
      decide (y.1 = 3) || (p.st.atIssue && y.2.st.atIssue && p.pc == y.2.pc && p.rlist == y.2.rlist && p.mstk == [] &&
        y.2.mstk == [] && p.replay == none && y.2.replay == none))).length)) = true := by decide

/-! ## The traps of barriers -/

theorem meets_bara_mismatch : Meets (issuing {} (fun g => ((g.sSet 4 1).sSet 5 0xFFFFFFFE).sSet 6 1))
    (fun _ => issueEng (sigOf (.bara ⟨0, 52, 54, 15⟩)) true)
    (fun _ i => i.g.gates = [] ∧ barLegal i ⟨0, 52, 54, 15⟩ ∧ ¬ barMatches i ⟨0, 52, 54, 15⟩)
    (traps (fun _ => { cause := cBarMismatch })) := meets
    (p := fun _ _ => by dsimp only [barLegal, barMembers, barMatches, arrival, barOf]; infer_instance) (by decide)

/-- A group outside the block as member, and a count above the product of members and lanes. -/
theorem meets_bar_members : Meets (issuing {} (fun g => ((g.sSet 4 2).sSet 5 0xFFFFFFFF).sSet 6 1))
    (fun _ => issueEng (sigOf (.bar ⟨0, 52, 54, 15⟩)) true)
    (fun _ i => i.g.gates = [] ∧ ¬ barMembers i ⟨0, 52, 54, 15⟩)
    (traps (fun _ => { cause := cIllegalOperand, opnd := 1 })) := meets
    (p := fun _ _ => by dsimp only [barMembers]; infer_instance) (by decide)
theorem meets_bar_count : Meets (issuing {} (fun g => ((g.sSet 4 1).sSet 5 0xFFFFFFFF).sSet 6 33))
    (fun _ => issueEng (sigOf (.bara ⟨0, 52, 54, 15⟩)) true)
    (fun _ i => i.g.gates = [] ∧ barMembers i ⟨0, 52, 54, 15⟩ ∧ ¬ barLegal i ⟨0, 52, 54, 15⟩)
    (traps (fun _ => { cause := cIllegalOperand, opnd := 2 })) := meets
    (p := fun _ _ => by dsimp only [barLegal, barMembers]; infer_instance) (by decide)

/-- A callee of the placed group, in a domain that no table lists. -/
def calling (abort : Bool) (g : Group) : Group :=
  g.enterGate { entry := 0x18000, htab := 0x20400, hcount := 1, tasid := 1, tfdom := 3, va := 0, sa := 0, vr := 0, sr := 0,
                regs := 24, flg := if abort then 2 else 0, scr := 0, stack := 0, prio := none, gtab := 0, gcount := 0,
                mailbox := 0, trace := 0 } 0 0x10004 65536

theorem meets_bar_gate : Meets (issuing {} (calling false)) (fun _ => issueEng (sigOf (.bar ⟨0, 52, 54, 15⟩)) true)
    (fun _ i => i.g.gates ≠ []) (traps (fun _ => { cause := cProtection, detail := 6 })) := meets (by decide)
theorem meets_barw_gate : Meets (issuing {} (calling false)) (fun _ => issueEng (sigOf (.barw ⟨0, 0, 0, 15⟩)) true)
    (fun _ i => i.g.gates ≠ []) (traps (fun _ => { cause := cProtection, detail := 6 })) := meets (by decide)

/-! ## Traps -/

/-- Split 0 of the placed group traps, at a level, with or without a mailbox, in a domain with these entries. -/
def trapping (f : Group → Group) (d : Domain) : State := { placed.modGroup ⟨0, 0⟩ f with domains := [(1, d)] }
/-- The domain of its group in the state that the trap has traced. -/
def domainOf (s : State) (g : Group) : Option Domain :=
  (((s.trace ⟨0, 0, 0⟩ 0x10000 feFull 3 2 cSoft).dropLatch ⟨0, 0⟩).domains.find? (fun e => e.1 == g.ctx.fdom)).map
    (fun e => e.2)
def trapMet (s : State) (p : Group → Option Domain → Bool) : Bool :=
  (s.group? ⟨0, 0⟩).any (fun g => (g.splits.getD 0 none).isSome && p g (domainOf s g))

theorem trap_level_met : trapMet (trapping (handling false) ⟨0x40000, 0x50000, 0, 0, true⟩)
    (fun g d => g.level == 1 && d.any (fun d => d.valid && d.hentry != 0)) = true := by decide
theorem trap_halt_met :
    trapMet (trapping (fun g => { g with ctx := { g.ctx with mailbox := 0x60000 } }) ⟨0, 0x50000, 0, 0, true⟩)
    (fun g d => g.level == 0 && g.ctx.mailbox != 0 && d.any (fun d => d.valid && d.dentry != 0)) = true := by decide
theorem trap_kill_met : trapMet (trapping (fun g => handling false (handling false g)) ⟨0x40000, 0, 0, 0, true⟩)
    (fun g _ => decide (2 ≤ g.level)) = true := by decide
theorem trap_unhandled_met : trapMet (trapping id ⟨0, 0, 0, 0, true⟩)
    (fun g d => g.level == 0 && g.gates.isEmpty && d.all (fun d => !d.valid || d.hentry == 0)) = true := by decide
theorem trap_callee_met :
    trapMet (trapping (calling true) ⟨0x40000, 0, 0, 0, true⟩) (fun g d => g.level == 0 && d.isNone &&
      (g.gates.head?).any (fun f => f.abort) &&
      (trapping (calling true) ⟨0x40000, 0, 0, 0, true⟩).calleeIdle ⟨0, 0⟩ g.gates.length) = true ∧
    trapMet (trapping (fun g => { calling false g with unacked := [1] }) ⟨0x40000, 0, 0, 0, true⟩) (fun g d =>
      g.level == 0 && d.isNone && !g.gates.isEmpty && !((trapping (fun g => { calling false g with unacked := [1] })
        ⟨0x40000, 0, 0, 0, true⟩).calleeIdle ⟨0, 0⟩ g.gates.length)) = true := by decide

/-- A handler entered with a parked unit, whose lanes it replays. -/
theorem trap_replay_met : ((placed.group? ⟨0, 0⟩).any (fun g =>
    let h := g.enter 0 parked.info 0x10000 parked.mask 0x30000 (some (0x10000, { parked with vregs := [5] })) 0x18000 0 0
      false
    h.level == 1 && h.frames.length == 1 && ((some ((0x10000 : Pc), parked)).filter (fun u => u.1 == 0x10000)).isSome)) =
      true := by decide

/-! ## Numbers -/

theorem quotients_met : finite fp32 0x3F800000 ∧ finite fp32 0x80000001 ∧ finite fp64 0x3FF0000000000000 := by
  refine ⟨⟨by decide, by decide⟩, ⟨by decide, by decide⟩, ⟨by decide, by decide⟩⟩

/-- Every class, and a number on each side of the least normal one (R163). -/
theorem classes_met : fp16.decode 0xFC00 = .inf true ∧ fp16.decode 0x7C00 = .inf false ∧ fp16.decode 0x7C01 = .nan true ∧
    fp16.decode 0x7E00 = .nan false ∧ isFin (fp16.decode 0x8400) = true ∧ isFin (fp16.decode 0x83FF) = true ∧
    isFin (fp16.decode 0x8000) = true ∧ isFin (fp16.decode 0x3FF) = true ∧ isFin (fp16.decode 0x400) = true := by decide
theorem fractions_met : (match fp32.decode 1, fp32.decode 0x80000000, fp32.decode 0xFF800000, fp32.decode 0x7F800001 with
    | .fin false m _, .fin true 0 _, .inf true, .nan true => m != 0
    | _, _, _, _ => false) = true := by decide
theorem formats_met : b8Of 0x81 = some ⟨false, false, 1⟩ ∧ b8Of 0x9F = some ⟨true, true, 7⟩ ∧ b8Of 0x98 = none ∧
    nan8 ⟨true, true, 7⟩ = 0x80 ∧ top8 ⟨false, false, 1⟩ = 0xFE := by decide

/-- R104, R107: 2^128 under RTZ clamps with OF; the tie of RNE at the top overflows and what is below it does not; 1.5 times
the least subnormal is a tie, tiny and inexact. -/
theorem test_overflow : fp32.round .rtz (.fin false 1 128) = (0x7F7FFFFF, fOF ||| fNX) ∧
    fp32.round .rne (.fin true (2 ^ 25 - 1) 103) = (0xFF800000, fOF ||| fNX) ∧
    fp32.round .rne (.fin false (2 ^ 26 - 3) 102) = (0x7F7FFFFF, fNX) := by decide
theorem test_tiny : fp32.round .rne (.fin false 3 (-150)) = (2, fUF ||| fNX) ∧
    fp32.round .rne (.fin false (2 ^ 25 - 1) (-151)) = (0x800000, fNX) ∧
    fp32.round .rtz (.fin false (2 ^ 25 - 1) (-151)) = (0x7FFFFF, fUF ||| fNX) := by decide
/-- R110, R113: 65504 overflows 0x94: MF and CL under SATFINITE, MF and OF towards zero under OVFINF. -/
theorem test_binary8 : (B8.convert ⟨true, false, 4⟩ .rne .sat (.fin false 65504 0)) = (0x7F, fCL ||| fNX) ∧
    (B8.convert ⟨true, false, 4⟩ .rtz .inf (.fin true 65504 0)) = (0xFF, fOF ||| fNX) ∧
    (B8.convert ⟨false, true, 3⟩ .rne .inf (.fin true 1 0)) = (0xFF, fIV) := by decide

theorem quotient_signs_met : (match fp32.decode 0x3F800000, fp32.decode 0x80000001, fp32.decode 0x80000000 with
    | .fin a m _, .fin b n _, .fin c k _ => !a && m != 0 && b && n != 0 && c && k == 0
    | _, _, _ => false) = true := by decide

theorem approximations_met : (match fp32.decode 0x3FC00000, fp32.decode 0x7F800001, fp32.decode 0xFF800000,
      fp32.decode 0x80000000, fp32.decode 0xC3160000, fp32.decode 0x47800000 with
    | .fin false m _, .nan true, .inf true, .fin true 0 _, .fin true _ _, .fin false _ _ => m != 0
    | _, _, _, _, _, _ => false) = true := by decide

/-! ## The statements about words, steps, memory, frames and numbers -/

theorem encodes_met : WellFormed (.movi ⟨7, 0x3FFFB⟩) = true ∧ encode (.movi ⟨7, 0x3FFFB⟩) = some 0x3E1FFFFB ∧
    decodeWord 0x3E1FFFFB = .ok (.movi ⟨7, 0x3FFFB⟩) := by decide

/-- A step that fetches an `IADD` of the placed block. -/
def oneStep : State := State.reset.withFetchWord 32 0x00042D18

theorem steps_met : oneStep.agenda = [] ∧ firstOf oneStep oneStep.startCmd = none ∧ oneStep.prepare = none ∧
    firstOf oneStep oneStep.releases = none ∧ ¬ oneStep.steps % 8 = 7 ∧ ¬ oneStep.steps % 8 = 3 ∧ oneStep.pick = some ⟨0, 0, 0⟩ ∧
    (oneStep.split? ⟨0, 0, 0⟩).isSome = true ∧ oneStep.breaks ⟨0, 0, 0⟩ = false ∧
    ((got (oneStep.fetchUnit ⟨0, 0, 0⟩ 0x10000 3)).any (fun w => match unitOfWords w.1 {} 0 with
      | .ok u => (match u.instr with | .ok i => i == .iadd32 ⟨1, 2, 52, 3, 0, 0⟩ | .error _ => false)
      | .error _ => false)) = true := by decide +kernel

/-- The placed group when a cause waits for it, and when its restart is due. -/
def caused : State := oneStep.modGroup ⟨0, 0⟩ (fun g => { g with async := [(cPreemptDeadline, 0)] })
def restarting : State := oneStep.modGroup ⟨0, 0⟩ (fun g => { g with restart := true, rgnpc := 0x10000 })

theorem steps_cause_met : caused.agenda = [] ∧ firstOf caused caused.startCmd = none ∧
    caused.liveGroups.map (fun x => x.1) = [⟨0, 0⟩] ∧
    (caused.group? ⟨0, 0⟩).any (fun g => !g.restarts && g.nextAsync == some (cPreemptDeadline, 0) &&
      (g.valid.find? (fun y => caused.takesCause ⟨0, 0, y.1⟩ g y.2 cPreemptDeadline)).any (fun y => y.1 == 0)) = true ∧
    (caused.takeAsync ⟨0, 0, 0⟩).away = none := by decide +kernel

theorem steps_restart_met : restarting.agenda = [] ∧ firstOf restarting restarting.startCmd = none ∧
    restarting.liveGroups.map (fun x => x.1) = [⟨0, 0⟩] ∧
    (restarting.group? ⟨0, 0⟩).any (fun g => g.restarts) = true ∧
    (restarting.restart ⟨0, 0⟩).away = none := by decide +kernel

theorem memory_met : Memory.wf [⟨3, 1⟩, ⟨65535, 255⟩] = true ∧ Memory.wf [] = true := by decide

/-- A condition on the group that an instruction leaves in the placed block. -/
def runs (i : Instr) (f : Group → Group) (p : Group → Bool) : Bool :=
  match exec i (issuing {} f) with
  | .next t => (t.group? ⟨0, 0⟩).any p
  | _ => false

/-- One value in every lane of a v register. -/
def all (n : Nat) (w : Word) (g : Group) : Group := g.vSet n feFull (fun _ => w)

theorem frames_met : (match exec (.iadd32 (r 1 2 3)) (issuing {} id) with
    | .next t => (t.group? ⟨0, 0⟩).all (fun g => g.live != 0)
    | _ => false) = true ∧
    ((issuing {} id).iss?.any (fun i => i.g.step.isNone && !i.g.ended)) = true := by decide

/-- The frames of the other families: each of these answers a next state in which the group lives. -/
theorem frames_lane_met :
    runs (.sel ⟨1, 2, 3, 7, 0, 0⟩) id (fun g => g.live != 0) = true ∧
    runs (.kmovVk (r 63 7 0)) id (fun g => g.live != 0) = true ∧
    runs (.bfi (r 1 2 3)) id (fun g => g.live != 0) = true ∧
    runs (.shflXor (r 1 2 3)) id (fun g => g.live != 0) = true ∧
    runs (.matchLead (r 3 2 1)) id (fun g => g.live != 0) = true ∧
    runs (.voteBallot (r 63 1 0)) id (fun g => g.live != 0) = true ∧
    runs (.redux (r 63 2 0)) id (fun g => g.live != 0) = true ∧
    runs (.laneb (r 63 2 48)) id (fun g => g.live != 0) = true := by decide +kernel
theorem frames_immediate_met :
    runs (.iaddi64 ⟨46, 2, 1⟩) id (fun g => g.live != 0) = true ∧
    runs (.sari ⟨47, 2, 31⟩) id (fun g => g.live != 0) = true ∧
    runs (.icmpi32 ⟨7, 2, 1⟩) id (fun g => g.live != 0) = true := by decide +kernel
theorem frames_float_met :
    runs (.fminF64 (r 2 4 6)) id (fun g => g.live != 0) = true ∧
    runs (.cvtfi (r 2 4 0xD)) id (fun g => g.live != 0) = true ∧
    runs (.ffmaF32 (r 1 2 3)) id (fun g => g.live != 0) = true ∧
    runs (.fdot2Bh2 (r 1 2 3)) id (fun g => g.live != 0) = true ∧
    runs (.fcmpH2 (r 62 2 3)) id (fun g => g.live != 0) = true ∧
    runs (.pk8 (r 1 2 3)) (all 3 0x39F) (fun g => g.live != 0) = true := by decide +kernel

theorem values_met : isFin (.fin true 1 (-149)) = true ∧ (fp32.decode 0x7F800001).isNan = true ∧
    (fp32.decode 0xFF7FFFFF).isNan = false := by decide

theorem kept_met : (Memory.wf placed.dram && Memory.wf placed.hostMem && Memory.wf placed.remote) = true ∧
    (match step oneStep with | .next _ => true | _ => false) = true := by decide +kernel

/-! ## Ill-formed terms -/

theorem ill_formed_d : WellFormed (.iadd64 (r 1 2 4)) = false := by decide
theorem ill_formed_a : WellFormed (.iabs (r 1 50 0)) = true ∧ WellFormed (.mov64 (r 2 63 0)) = false := by decide
theorem ill_formed_b : WellFormed (.imad64 (r 2 4 47)) = false := by decide
theorem ill_formed_zero : WellFormed (.nop ⟨0, 0, 1, 0, 0, 0⟩) = false := by decide
theorem ill_formed_guard : WellFormed (.iadd32 ⟨52, 53, 54, 1, 0, 0⟩) = false := by decide
theorem ill_formed_mixed : WellFormed (.iadd32 (r 52 1 53)) = false := by decide
theorem ill_formed_lane : WellFormed (.srr ⟨48, 0, 0, 0⟩) = false := by decide
theorem ill_formed_barrier : WellFormed (.bar ⟨0, 52, 54, 16⟩) = false := by decide
theorem ill_formed_scope : WellFormed (.fenceAcq ⟨0, 0, 0, 0x27⟩) = false := by decide
theorem ill_formed_order : WellFormed (.ld32 ⟨1, 2, 0, 0, 0, 0, 5⟩) = false := by decide

/-! ## Words written out from the spec's encodings (04 R61 to R75), and the single steps of its rules -/

theorem test_words_immediate : decodeWord 0x3E1FFFFB = .ok (.movi ⟨7, 0x3FFFB⟩) ∧
    decodeWord 0x3012F010 = .ok (.iaddi32 ⟨4, 47, 16⟩) ∧
    decodeWord 0x3D1440C0 = .ok (.lea16 ⟨5, 4, 3, 0, 0, 0⟩) := by decide
theorem test_words_branch : decodeWord 0x93000000 = .ok (.call ⟨0, 0, 0⟩) ∧
    decodeWord 0x92005000 = .ok (.brx ⟨0, 5, 0, 0, 0, 0⟩) ∧ decodeWord 0x9000000C = .ok (.bra ⟨0, 0, 12⟩) := by decide
theorem test_words_vote : decodeWord 0x85146080 = .ok (.voteAny ⟨5, 6, 2, 0, 0, 0⟩) := by decide
theorem test_words_engine : decodeWord 0xD0034600 = .ok (.cpy ⟨0, 52, 24, 0⟩) ∧
    decodeWord 0xD3034114 = .ok (.tst ⟨0, 52, 4, 20⟩) ∧ decodeWord 0xDA039000 = .ok (.mwait ⟨0, 57, 0, 0⟩) := by
  decide
theorem test_words_system : decodeWord 0xE0000000 = .ok (.srr ⟨0, 0, 0, 0⟩) ∧
    decodeWord 0xE2000000 = .ok (.tret ⟨0, 0, 0, 0⟩) ∧ decodeWord 0xEA000001 = .ok (.dresumeStep ⟨0, 0, 0, 1⟩) ∧
    decodeWord 0xE8000002 = .ok (.tlbiAll ⟨0, 0, 0, 2⟩) := by decide
theorem test_words_call : decodeWord 0xE3036000 = .ok (.gcall ⟨0, 54, 0, 0⟩) ∧
    decodeWord 0xE5D36000 = .ok (.gqry ⟨52, 54, 0, 0⟩) ∧ decodeWord 0xE7000000 = .ok (.join ⟨0, 0, 0, 0⟩) ∧
    decodeWord 0xE9034D81 = .ok (.cmaintFlush ⟨0, 52, 54, 1⟩) := by decide

/-- Hint words: `XIMM 16`, `XSRC FT`, `XSCH Y` and `XRCV 16`, at most two in a unit (R72). -/
def hintsOf (ws : List Word) : Option Hints :=
  match unitOfWords ws {} 0 with
  | .ok u => some u.hints
  | .error _ => none

theorem test_words_hint : hintsOf [0xF0000010, 0xF1000080, 0x9A000000] = some { ximm := some 16, xsrc := some 0x80 } ∧
    hintsOf [0xF3000100, 0xF4000010, 0x9000000C] = some { xsch := some 0x100, xrcv := some 16 } ∧
    hintsOf [0xF0000010, 0xF1000080, 0xF3000100, 0x9A000000] = none ∧
    hintsOf [0xF0000010, 0xF0000010, 0x9A000000] = none := by decide

/-- Words that no instruction has are refused by name. -/
theorem test_words_refused : (decodeWord 0x8B000000).toOption = none ∧ (decodeWord 0xEB000000).toOption = none ∧
    (decodeWord 0xF5000000).toOption = none := by decide

/-- The value of lane 31 of a v register set in every lane. -/
def lane (g : Group) (n : Nat) : Word := g.vGet n 31

/-- R131: a sum wraps. -/
theorem test_add_wraps : runs (.iadd32 (r 1 2 3)) (all 2 0xFFFFFFFF ∘ all 3 2) (fun g => lane g 1 == 1) = true := by
  decide
/-- R132: the carry is added, and the carry out goes to k7. -/
theorem test_carry : runs (.iaddc32 (r 1 2 3)) ((fun g => g.kSet 7 feFull feFull) ∘ all 2 0xFFFFFFFF)
    (fun g => lane g 1 == 0 && g.kGet 7 == feFull) = true := by decide
/-- R133: a shift takes its amount modulo the width. -/
theorem test_shift : runs (.sar32 (r 1 2 3)) (all 2 0x80000000 ∘ all 3 33) (fun g => lane g 1 == 0xC0000000) =
    true := by decide
/-- R136: `BPERM` by 0x0123 reverses the bytes of A. -/
theorem test_bperm : runs (.bperm (r 1 2 3)) (all 1 0x0123 ∘ all 2 0x44332211)
    (fun g => lane g 1 == 0x11223344) = true := by decide
/-- R135: eight bits from bit 8, sign-extended. -/
theorem test_field : runs (.bfxS (r 1 2 3)) (all 2 0x1234F678 ∘ all 3 0x808) (fun g => lane g 1 == 0xFFFFFFF6) =
    true := by decide
/-- R143: an immediate is sign-extended. -/
theorem test_immediate : runs (.iaddi32 ⟨1, 2, 0xFFF⟩) (all 2 5) (fun g => lane g 1 == 4) = true := by decide
/-- R104, R107: 1 + 2^-24 is a tie, which goes to the even 1, and NX is set. -/
theorem test_tie : runs (.faddF32 (r 1 2 3)) (all 2 0x3F800000 ∘ all 3 0x33800000)
    (fun g => lane g 1 == 0x3F800000 && g.flags == fNX) = true := by decide
/-- R106: the sum of opposite infinities is the canonical NaN, and IV is set. -/
theorem test_invalid : runs (.faddF32 (r 1 2 3)) (all 2 0x7F800000 ∘ all 3 0xFF800000)
    (fun g => lane g 1 == 0x7FC00000 && g.flags == fIV) = true := by decide
/-- R180: a branch goes to Next + 4 times its offset. -/
theorem test_branch : runs (.bra ⟨0, 0, 12⟩) id (fun g => (g.splits.getD 0 none).map (fun p => p.pc) == some 0x10034) =
    true := by decide
/-- R180: the offset is signed. -/
theorem test_branch_back : runs (.bra ⟨0, 0, 0xFFFF8⟩) id
    (fun g => (g.splits.getD 0 none).map (fun p => p.pc) == some 0xFFE4) = true := by decide
/-- R191, R366: a software trap enters the handler with its number as detail. -/
theorem test_trap : runs (.trap ⟨0, 0, 0, 5⟩) id (fun g =>
    (g.splits.getD 0 none).map (fun p => p.pc) == some 0x40000 && g.level == 1 && g.trap.cause == 0x15 &&
      g.trap.pc == 0x10004 && g.trap.info.toNat % 256 == 5) = true := by decide
/-- R388: LANE reads the lane's number. -/
theorem test_lane : runs (.srr ⟨1, 0, 0, 0⟩) id (fun g => lane g 1 == 31 && g.vGet 1 0 == 0) = true := by decide

/-- R200, R228: a word is stored with its low byte at the lowest address; the highest lane writes last. -/
theorem test_store : (match exec (.st32 ⟨5, 4, 0, 0, 0, 0, 0⟩)
      (issuing {} (fun g => g.vSet 5 feFull (fun L => BitVec.ofNat 32 (0x11223344 + L)))) with
    | .next t => (t.blocks[0]?).any (fun b => Memory.read b.scr 0 4 == [0x63, 0x33, 0x22, 0x11])
    | _ => false) = true := by decide +kernel
/-- R49, R243: an atomic returns the old value of its location when its data arrives. -/
theorem test_atomic : (match exec (.amoAdd32 ⟨5, 4, 0, 0, 1, 0, 2⟩)
      (issuing {} (fun g => g.vSet 5 feFull (fun _ => 1))) with
    | .next t => (t.blocks[0]?).any (fun b => Memory.read b.scr 0 4 == [32, 0, 0, 0]) &&
        (t.group? ⟨0, 0⟩).any (fun g => g.loads.any (fun l => l.v == [(5, (List.range 32).map (BitVec.ofNat 32))]))
    | _ => false) = true := by decide +kernel

end Sys2Proof.Tests
end

section
/-! The state after reset (O59): what an unwritten memory reads as, the default almanac entry by entry, and the
dies and links of the package. -/

namespace Sys2Proof.Proofs

open Sys2Proof Sys2Proof.Machine Sys2Proof.Safety Sys2Proof.Laws

/-- An unwritten byte reads 0 (log entry 2). -/
@[simp] theorem get_nil (a : Nat) : Memory.get [] a = 0 := rfl

/-- R286: destinations 0 to 15 have 0x60, all others 0x80. -/
theorem defaultAlmanac_getD {n : Nat} (hn : n < 256) :
    defaultAlmanac.getD n 0 = if n < 16 then 0x60 else 0x80 := by
  unfold defaultAlmanac
  split
  case isTrue hlow =>
    rw [List.getD_append _ _ _ _ (by simpa using hlow), List.getD_replicate _ hlow]
  case isFalse hhigh =>
    rw [List.getD_append_right _ _ _ _ (by simpa using hhigh), List.length_replicate,
      List.getD_replicate _ (by omega)]

theorem eq_dieReset_of_mem {d : Die} (hd : d ∈ State.reset.dies) : d = Die.reset :=
  List.eq_of_mem_replicate hd

theorem eq_linkReset_of_mem {l : Link} (hl : l ∈ State.reset.links) : l = Link.reset :=
  List.eq_of_mem_replicate hl

/-- No memory of the package, the host or another package has been written at reset. -/
theorem reset_memories_read_zero (a : Nat) : Memory.get State.reset.dram a = 0 ∧
    Memory.get State.reset.hostMem a = 0 ∧ Memory.get State.reset.remote a = 0 :=
  ⟨get_nil a, get_nil a, get_nil a⟩

/-- R269, R272, R277, R278: every die runs, its records, signatures and queues empty, its twin pool 64 MiB. -/
theorem reset_dies_run_empty : ∀ d ∈ State.reset.dies, d.st = .running ∧ d.copies = [] ∧ d.csig = 0 ∧
    d.sigs = [] ∧ d.ev = [] ∧ d.rseq = 0 ∧ d.twincap = 64 ∧ d.lq = [] ∧ d.cq = [] ∧ d.faultq = [] := by
  intro d hd
  obtain rfl := eq_dieReset_of_mem hd
  exact ⟨rfl, rfl, rfl, rfl, rfl, rfl, rfl, rfl, rfl, rfl⟩

/-- R286 and log entry 5: every link is awake, trained and free, and holds the default almanac. -/
theorem reset_links_default : ∀ l ∈ State.reset.links, l.asleep = false ∧ l.failed = false ∧ l.owner = none ∧
    ∀ n < 256, l.table.getD n 0 = if n < 16 then 0x60 else 0x80 := by
  intro l hl
  obtain rfl := eq_linkReset_of_mem hl
  exact ⟨rfl, rfl, rfl, fun _ hn => defaultAlmanac_getD hn⟩

/-- Settles O59: the memories, the dies and the links by the lemmas above; each other field is the value that
`State.reset` gives it. -/
theorem resetState : Obligations.ResetState :=
  ⟨wf_reset, rfl, rfl, rfl, rfl, rfl, rfl, List.length_replicate, List.length_replicate, reset_dies_run_empty,
    rfl, rfl, rfl, rfl, rfl, rfl, reset_memories_read_zero, List.length_replicate, reset_links_default⟩

end Sys2Proof.Proofs
end

section
/-! The patterns of the IEEE formats (06 R102, R105): a sign above a code, and what the codes are.
The structure stands first: Lean checks one before it goes on, so that no proof below is elaborated beside the long
evaluations of the tests above, whose memory leaves little room. -/

namespace Sys2Proof.Proofs

open Sys2Proof Sys2Proof.Machine Sys2Proof.Claims

/-- A format with two significand bits and two exponent bits or more, as those of R102 do. -/
structure IsWide (f : FFmt) : Prop where
  two_le : 2 ≤ f.p
  lt_width : f.p + 1 < f.w

theorem two_pow_eq_double {p : Nat} (hp : 1 ≤ p) : 2 ^ p = 2 * 2 ^ (p - 1) := by
  obtain ⟨n, rfl⟩ := Nat.exists_eq_add_of_le' hp
  rw [Nat.add_sub_cancel, pow_succ']

theorem isWide_of_mem {f : FFmt} (hf : f ∈ formats) : IsWide f := by
  simp only [formats, List.mem_cons, List.not_mem_nil, or_false] at hf
  rcases hf with rfl | rfl | rfl | rfl
  · exact ⟨by decide, by decide⟩
  · exact ⟨by decide, by decide⟩
  · exact ⟨by decide, by decide⟩
  · exact ⟨by decide, by decide⟩

theorem isNeg_signed {f : FFmt} {c : Nat} (hc : c < f.sign) (n : Bool) : f.isNeg (f.signed n c) = n := by
  cases n with
  | false => exact Nat.testBit_lt_two_pow hc
  | true =>
    rw [FFmt.isNeg, FFmt.signed, if_pos rfl, Nat.add_comm, FFmt.sign, Nat.testBit_two_pow_add_eq]
    simpa using Nat.testBit_lt_two_pow hc

namespace IsWide

variable {f : FFmt} (hf : IsWide f)
include hf

/-- Below the sign stand the exponent field and the fraction. -/
theorem sign_eq : f.sign = 2 ^ (f.w - f.p) * 2 ^ (f.p - 1) := by
  obtain ⟨h2, hw⟩ := hf
  rw [FFmt.sign, ← pow_add]
  congr 1
  omega

theorem width_eq : 2 ^ f.w = 2 * f.sign := by
  obtain ⟨h2, hw⟩ := hf
  rw [FFmt.sign, ← pow_succ']
  congr 1
  omega

theorem eTop_eq : f.eTop = 2 * f.emax + 1 := by
  obtain ⟨h2, hw⟩ := hf
  have hpos := Nat.two_pow_pos (f.w - f.p - 1)
  have hpow : 2 ^ (f.w - f.p) = 2 * 2 ^ (f.w - f.p - 1) := two_pow_eq_double (by omega)
  rw [FFmt.eTop, FFmt.emax]
  omega

theorem emax_pos : 0 < f.emax := by
  obtain ⟨h2, hw⟩ := hf
  have hpow : 2 ^ (f.w - f.p - 1) = 2 * 2 ^ (f.w - f.p - 1 - 1) := two_pow_eq_double (by omega)
  have hpos := Nat.two_pow_pos (f.w - f.p - 1 - 1)
  rw [FFmt.emax]
  omega

theorem inf_add : f.inf + 2 ^ (f.p - 1) = f.sign := by
  have hpos := Nat.two_pow_pos (f.w - f.p)
  rw [hf.sign_eq, FFmt.inf, FFmt.eTop, ← Nat.succ_mul]
  congr 1
  omega

theorem frac_eq : 2 ^ (f.p - 1) = 2 * 2 ^ (f.p - 2) := by
  obtain ⟨h2, -⟩ := hf
  rw [two_pow_eq_double (by omega)]
  congr 1

theorem inf_even_pos : f.inf % 2 = 0 ∧ 0 < f.inf := by
  rw [FFmt.inf, hf.eTop_eq, hf.frac_eq]
  refine ⟨Nat.mod_eq_zero_of_dvd ((dvd_mul_right 2 _).mul_left _), ?_⟩
  positivity

theorem signed_lt {c : Nat} (hc : c < f.sign) (n : Bool) : f.signed n c < 2 ^ f.w := by
  rw [hf.width_eq, FFmt.signed]
  split <;> omega

theorem exists_signed {b : Nat} (hb : b < 2 ^ f.w) : ∃ n c, c < f.sign ∧ b = f.signed n c := by
  rw [hf.width_eq] at hb
  rcases Nat.lt_or_ge b f.sign with h | h
  · exact ⟨false, b, h, rfl⟩
  · exact ⟨true, b - f.sign, by omega, by simp [FFmt.signed, h]⟩

theorem signed_mod_two {c : Nat} (n : Bool) : f.signed n c % 2 = c % 2 := by
  have : f.sign = 2 * 2 ^ (f.w - 2) := by
    obtain ⟨h2, hw⟩ := hf
    rw [FFmt.sign, two_pow_eq_double (by omega)]
    congr 1
  rw [FFmt.signed]
  split <;> omega

/-- The value of a pattern by its sign and its code. -/
theorem decode_signed {c : Nat} (hc : c < f.sign) (n : Bool) :
    f.decode (f.signed n c) =
      if c / 2 ^ (f.p - 1) = f.eTop then
        (if c % 2 ^ (f.p - 1) = 0 then .inf n else .nan (!(c % 2 ^ (f.p - 1)).testBit (f.p - 2)))
      else if c / 2 ^ (f.p - 1) = 0 then .fin n (c % 2 ^ (f.p - 1)) f.q0
      else .fin n (2 ^ (f.p - 1) + c % 2 ^ (f.p - 1)) (f.q0 + ((c / 2 ^ (f.p - 1) : ℕ) : ℤ) - 1) := by
  have hpos : 0 < 2 ^ (f.p - 1) := Nat.two_pow_pos _
  have hfrac : f.signed n c % 2 ^ (f.p - 1) = c % 2 ^ (f.p - 1) := by
    cases n with
    | false => rfl
    | true => rw [FFmt.signed, if_pos rfl, hf.sign_eq, Nat.add_mul_mod_self_right]
  have hexp : f.signed n c / 2 ^ (f.p - 1) % 2 ^ (f.w - f.p) = c / 2 ^ (f.p - 1) := by
    have hlt : c / 2 ^ (f.p - 1) < 2 ^ (f.w - f.p) := (Nat.div_lt_iff_lt_mul hpos).2 (hf.sign_eq ▸ hc)
    cases n with
    | false => exact Nat.mod_eq_of_lt hlt
    | true =>
      rw [FFmt.signed, if_pos rfl, hf.sign_eq, Nat.add_mul_div_right _ _ hpos, Nat.add_mod_right, Nat.mod_eq_of_lt hlt]
  simp only [FFmt.decode, hfrac, hexp, isNeg_signed hc, beq_iff_eq]

theorem lt_sign_of_lt_inf {c : Nat} (hc : c < f.inf) : c < f.sign := by
  have := hf.inf_add
  have := Nat.two_pow_pos (f.p - 1)
  omega

theorem inf_lt_sign : f.inf < f.sign := by
  have := hf.inf_add
  have := Nat.two_pow_pos (f.p - 1)
  omega

theorem decode_inf (n : Bool) : f.decode (f.signed n f.inf) = .inf n := by
  have hpos : 0 < 2 ^ (f.p - 1) := Nat.two_pow_pos _
  rw [hf.decode_signed hf.inf_lt_sign, FFmt.inf, Nat.mul_div_cancel _ hpos, Nat.mul_mod_left]
  simp

theorem decode_of_inf_lt {c : Nat} (hinf : f.inf < c) (hc : c < f.sign) (n : Bool) :
    ∃ q, f.decode (f.signed n c) = .nan q := by
  have hpos : 0 < 2 ^ (f.p - 1) := Nat.two_pow_pos _
  obtain ⟨r, rfl⟩ := Nat.exists_eq_add_of_lt hinf
  have hr : r + 1 < 2 ^ (f.p - 1) := by have := hf.inf_add; omega
  have hdiv : (f.inf + r + 1) / 2 ^ (f.p - 1) = f.eTop := by
    rw [Nat.add_assoc, Nat.add_comm, FFmt.inf, Nat.add_mul_div_right _ _ hpos, Nat.div_eq_of_lt hr, Nat.zero_add]
  have hmod : (f.inf + r + 1) % 2 ^ (f.p - 1) = r + 1 := by
    rw [Nat.add_assoc, Nat.add_comm, FFmt.inf, Nat.add_mul_mod_self_right, Nat.mod_eq_of_lt hr]
  rw [hf.decode_signed hc, if_pos hdiv, hmod, if_neg (Nat.succ_ne_zero r)]
  exact ⟨_, rfl⟩

theorem decode_nan : f.decode f.nan = .nan false := by
  have hfrac := hf.frac_eq
  have hhalf := Nat.two_pow_pos (f.p - 2)
  have hinf := hf.inf_add
  have hpos : 0 < 2 ^ (f.p - 1) := Nat.two_pow_pos _
  have hdiv : f.nan / 2 ^ (f.p - 1) = f.eTop := by
    rw [FFmt.nan, Nat.add_comm, FFmt.inf, Nat.add_mul_div_right _ _ hpos, Nat.div_eq_of_lt (by omega), Nat.zero_add]
  have hmod : f.nan % 2 ^ (f.p - 1) = 2 ^ (f.p - 2) := by
    rw [FFmt.nan, Nat.add_comm, FFmt.inf, Nat.add_mul_mod_self_right, Nat.mod_eq_of_lt (by omega)]
  have h := hf.decode_signed (c := f.nan) (by rw [FFmt.nan]; omega) false
  rw [if_pos hdiv, hmod, if_neg hhalf.ne', Nat.testBit_two_pow_self] at h
  exact h

end IsWide

end Sys2Proof.Proofs
end

section
/-! The codes of a floating-point format counted from 0, and the numbers that they stand for (06 R102, R109): strictly
increasing, and evenly spaced within a binade. -/

namespace Sys2Proof.Proofs

open Sys2Proof Sys2Proof.Machine

/-- The number of code `c` at precision `p`, with `2 ^ q0` the least quantum (R102, R109). -/
def codeMag (p : Nat) (q0 : Int) (c : Nat) : ℚ :=
  if c / 2 ^ (p - 1) = 0 then (c % 2 ^ (p - 1) : ℕ) * 2 ^ q0
  else (2 ^ (p - 1) + c % 2 ^ (p - 1) : ℕ) * 2 ^ (q0 + ((c / 2 ^ (p - 1) : ℕ) : ℤ) - 1)

/-- In binade `base` the codes from `base * 2 ^ (p - 1) + 2 ^ (p - 1)` on, up to the first code of the next binade, count
quanta of `2 ^ (q0 + base)`; in binade 0 the subnormal codes do so too. -/
theorem codeMag_binade {p k base : Nat} (q0 : Int) (hp : 1 ≤ p) (hk : k ≤ 2 ^ p)
    (hlow : base = 0 ∨ 2 ^ (p - 1) ≤ k) :
    codeMag p q0 (base * 2 ^ (p - 1) + k) = k * 2 ^ (q0 + (base : ℤ)) := by
  rw [two_pow_eq_double hp] at hk
  unfold codeMag
  have hpos : 0 < 2 ^ (p - 1) := Nat.two_pow_pos _
  generalize 2 ^ (p - 1) = B at *
  have hdiv : (base * B + k) / B = base + k / B := by
    rw [Nat.add_comm, Nat.add_mul_div_right _ _ hpos, Nat.add_comm]
  have hmod : (base * B + k) % B = k % B := by rw [Nat.add_comm, Nat.add_mul_mod_self_right]
  rw [hdiv, hmod]
  rcases Nat.lt_or_ge k B with hsub | hnorm
  · obtain rfl : base = 0 := by omega
    simp [Nat.div_eq_of_lt hsub, Nat.mod_eq_of_lt hsub]
  · rcases Nat.lt_or_ge k (2 * B) with hin | htop
    · have hq : k / B = 1 := Nat.div_eq_of_lt_le (by omega) (by omega)
      have hr : B + k % B = k := by
        have := Nat.div_add_mod k B
        rw [hq] at this
        omega
      rw [hq, hr, if_neg (by omega)]
      congr 2
      push_cast
      ring
    · obtain rfl : k = 2 * B := by omega
      have hq : 2 * B / B = 2 := Nat.mul_div_cancel _ hpos
      rw [hq, Nat.mul_mod_left, if_neg (by omega)]
      have hexp : q0 + ((base + 2 : ℕ) : ℤ) - 1 = q0 + base + 1 := by push_cast; ring
      rw [hexp, zpow_add₀ two_ne_zero]
      push_cast
      ring

/-- Every code is a number of quanta within one binade, short of the next one. -/
theorem exists_binade {p : Nat} (hp : 1 ≤ p) (c : Nat) :
    ∃ base k, c = base * 2 ^ (p - 1) + k ∧ k < 2 ^ p ∧ (base = 0 ∨ 2 ^ (p - 1) ≤ k) := by
  rw [two_pow_eq_double hp]
  have hpos : 0 < 2 ^ (p - 1) := Nat.two_pow_pos _
  generalize 2 ^ (p - 1) = B at *
  rcases Nat.lt_or_ge c B with hsub | hnorm
  · exact ⟨0, c, by omega, by omega, .inl rfl⟩
  · obtain ⟨n, hn⟩ := Nat.exists_eq_add_of_le' (Nat.div_pos hnorm hpos)
    have hc := Nat.div_add_mod' c B
    have hr := Nat.mod_lt c hpos
    refine ⟨n, B + c % B, ?_, by omega, .inr (by omega)⟩
    rw [hn] at hc
    linarith [Nat.add_mul n 1 B]

theorem codeMag_strictMono {p : Nat} (q0 : Int) (hp : 1 ≤ p) : StrictMono (codeMag p q0) := by
  refine strictMono_nat_of_lt_succ fun c => ?_
  obtain ⟨base, k, rfl, hk, hlow⟩ := exists_binade hp c
  rw [Nat.add_assoc, codeMag_binade q0 hp hk.le hlow, codeMag_binade q0 hp hk (by omega)]
  have hpos : (0 : ℚ) < 2 ^ (q0 + (base : ℤ)) := zpow_pos two_pos _
  exact mul_lt_mul_of_pos_right (by push_cast; linarith) hpos

@[simp] theorem codeMag_zero (p : Nat) (q0 : Int) : codeMag p q0 0 = 0 := by simp [codeMag]

theorem codeMag_nonneg {p : Nat} (q0 : Int) (hp : 1 ≤ p) (c : Nat) : 0 ≤ codeMag p q0 c := by
  simpa using (codeMag_strictMono q0 hp).monotone (Nat.zero_le c)

end Sys2Proof.Proofs
end

section
/-! One rounding to whole quanta (06 R104, R112): when it goes up, and what a value must share with the number that stands
for it so that both round alike. -/

namespace Sys2Proof.Proofs

open Sys2Proof Sys2Proof.Machine Sys2Proof.Claims

/-- Whether a magnitude `X` from `lo` up to `hi` rounds up to `hi` (R104): RNE past the midpoint, or at it where `lo` is
`odd`; the directed modes away from 0, unless `X` is `lo`. -/
def roundsUp (mode : RMode) (neg : Bool) (lo hi X : ℝ) (odd : Prop) : Prop :=
  match mode with
  | .rne => lo + hi < 2 * X ∨ (lo + hi = 2 * X ∧ odd)
  | _ => toward mode neg = false ∧ lo < X

theorem roundsUp_rne {neg : Bool} {lo hi X : ℝ} {odd : Prop} :
    roundsUp .rne neg lo hi X odd ↔ lo + hi < 2 * X ∨ (lo + hi = 2 * X ∧ odd) := Iff.rfl

theorem roundsUp_directed {mode : RMode} (hdir : mode ≠ .rne) {neg : Bool} {lo hi X : ℝ} {odd : Prop} :
    roundsUp mode neg lo hi X odd ↔ toward mode neg = false ∧ lo < X := by
  cases mode with
  | rne => exact absurd rfl hdir
  | rtz | rup | rdn => rfl

theorem tiny_rne {p : Nat} {low x : ℝ} {neg : Bool} : tiny p low .rne neg x ↔
    if p = 1 then 2 * |x| + low / 2 ^ p ≤ 2 * low else 2 * |x| + low / 2 ^ p < 2 * low := Iff.rfl

theorem tiny_directed {mode : RMode} (hdir : mode ≠ .rne) {p : Nat} {low x : ℝ} {neg : Bool} :
    tiny p low mode neg x ↔ if toward mode neg then |x| < low else |x| + low / 2 ^ p ≤ low := by
  cases mode with
  | rne => exact absurd rfl hdir
  | rtz | rup | rdn => rfl

/-- `m 2^e` lies on the same side of every multiple of `2 ^ q`, and of the greater powers of two, as `X`. -/
def StandsFor (X : ℝ) (m : Nat) (e q : Int) : Prop :=
  ∀ q' : Int, q ≤ q' → ∀ j : Nat, (X < j * 2 ^ q' ↔ (m : ℝ) * 2 ^ e < j * 2 ^ q') ∧
    ((j : ℝ) * 2 ^ q' < X ↔ (j : ℝ) * 2 ^ q' < m * 2 ^ e)

/-- `c` is what `X` rounds to among the numbers `M 0 < M 1 < …`: `X` lies from `M k` up to `M (k + 1)`, and `c` is `k + 1`
where it rounds up, else `k`. -/
def RoundsIn (M : Nat → ℝ) (odd : Nat → Prop) (mode : RMode) (neg : Bool) (X : ℝ) (c : Nat) : Prop :=
  ∃ k, M k ≤ X ∧ X < M (k + 1) ∧
    (c = k + 1 ∧ roundsUp mode neg (M k) (M (k + 1)) X (odd k) ∨
      c = k ∧ ¬ roundsUp mode neg (M k) (M (k + 1)) X (odd k))

/-- Numbers counted alike from `n` on round to the same count. -/
theorem RoundsIn.shift {M N : Nat → ℝ} {odd odd' : Nat → Prop} {mode : RMode} {neg : Bool} {X : ℝ} {c n : Nat}
    (h : RoundsIn M odd mode neg X c)
    (hMN : ∀ k, M k ≤ X → X < M (k + 1) → N (n + k) = M k ∧ N (n + (k + 1)) = M (k + 1))
    (hodd : ∀ k, odd' (n + k) ↔ odd k) : RoundsIn N odd' mode neg X (n + c) := by
  obtain ⟨k, hlo, hhi, hc⟩ := h
  obtain ⟨h0, h1⟩ := hMN k hlo hhi
  refine ⟨n + k, h0 ▸ hlo, ?_, ?_⟩
  · rwa [Nat.add_assoc, h1]
  · rw [Nat.add_assoc, h0, h1]
    rw [propext (hodd k)]
    exact hc.imp (And.imp_left (congrArg (n + ·))) (And.imp_left (congrArg (n + ·)))

theorem StandsFor.refl (m : Nat) (e q : Int) : StandsFor ((m : ℝ) * 2 ^ e) m e q :=
  fun _ _ _ => ⟨Iff.rfl, Iff.rfl⟩

namespace StandsFor

variable {X : ℝ} {m : Nat} {e q q' : Int}

theorem mono (h : StandsFor X m e q) (hq : q ≤ q') : StandsFor X m e q' :=
  fun r hr => h r (hq.trans hr)

theorem le_iff (h : StandsFor X m e q) (hq : q ≤ q') (j : Nat) :
    (j : ℝ) * 2 ^ q' ≤ X ↔ (j : ℝ) * 2 ^ q' ≤ m * 2 ^ e := by
  simpa only [not_lt] using not_congr (h q' hq j).1

theorem eq_iff (h : StandsFor X m e q) (hq : q ≤ q') (j : Nat) :
    (j : ℝ) * 2 ^ q' = X ↔ (j : ℝ) * 2 ^ q' = m * 2 ^ e := by
  have hge : X ≤ (j : ℝ) * 2 ^ q' ↔ (m : ℝ) * 2 ^ e ≤ j * 2 ^ q' := by
    simpa only [not_lt] using not_congr (h q' hq j).2
  rw [le_antisymm_iff, le_antisymm_iff, h.le_iff hq, hge]

end StandsFor

/-- What rounds up lies above `lo`. -/
theorem lt_of_roundsUp {mode : RMode} {neg : Bool} {lo hi X : ℝ} {odd : Prop} (hlh : lo < hi)
    (h : roundsUp mode neg lo hi X odd) : lo < X := by
  cases mode with
  | rne => rcases h with h | ⟨h, -⟩ <;> linarith
  | _ => exact h.2

theorem natCast_mul_zpow_add {K : Type} [Field K] [CharZero K] (j d : Nat) (e : Int) :
    (j : K) * 2 ^ (e + (d : ℤ)) = (j * 2 ^ d : ℕ) * 2 ^ e := by
  rw [zpow_add₀ two_ne_zero, zpow_natCast]
  push_cast
  ring

/-- A number between two neighbouring multiples of `2 ^ (e + 1)` may stand for any other one between them: this is what the
last bit of a quotient or a root does (R165). -/
theorem standsFor_of_between {X : ℝ} {a : Nat} {e q : Int} (hlo : (a : ℝ) * 2 ^ (e + 1) < X)
    (hhi : X < (a + 1) * 2 ^ (e + 1)) (hq : e + 1 ≤ q) : StandsFor X (2 * a + 1) e q := by
  intro q' hq' j
  obtain ⟨d, hd⟩ := Int.eq_ofNat_of_zero_le (sub_nonneg.2 (hq.trans hq'))
  obtain rfl : q' = e + 1 + d := by omega
  have hu : (0 : ℝ) < 2 ^ (e + 1) := zpow_pos two_pos _
  have hY : ((2 * a + 1 : ℕ) : ℝ) * 2 ^ e = (a + 1 / 2) * 2 ^ (e + 1) := by
    rw [zpow_add₀ two_ne_zero]
    push_cast
    ring
  rw [natCast_mul_zpow_add, hY, mul_lt_mul_iff_of_pos_right hu, mul_lt_mul_iff_of_pos_right hu]
  rcases Nat.lt_or_ge a (j * 2 ^ d) with h | h
  · have hc : (a : ℝ) + 1 ≤ (j * 2 ^ d : ℕ) := by exact_mod_cast h
    have hX : X < (j * 2 ^ d : ℕ) * 2 ^ (e + 1) := hhi.trans_le (mul_le_mul_of_nonneg_right hc hu.le)
    exact ⟨iff_of_true hX (by linarith), iff_of_false hX.not_gt (by linarith)⟩
  · have hc : ((j * 2 ^ d : ℕ) : ℝ) ≤ a := by exact_mod_cast h
    have hX : (j * 2 ^ d : ℕ) * 2 ^ (e + 1) < X := (mul_le_mul_of_nonneg_right hc hu.le).trans_lt hlo
    exact ⟨iff_of_false hX.not_gt (by linarith), iff_of_true hX (by linarith)⟩

/-- With quanta no greater than its own, a number is counted exactly. -/
theorem quanta_of_le {e q : Int} (h : q ≤ e) (mode : RMode) (neg : Bool) (m : Nat) (odd : Bool) :
    quanta mode neg m e q odd = (m * 2 ^ (e - q).toNat, false) := by
  simp [quanta, show q - e ≤ 0 by omega]

/-- Whether a rest of `r` in `2 ^ sh` above `k` quanta rounds up. -/
def restUp (mode : RMode) (neg : Bool) (sh k r : Nat) (odd : Bool) : Bool :=
  match mode with
  | .rne => decide (2 ^ sh < 2 * r) || (2 * r == 2 ^ sh && ((k % 2 == 1) != odd))
  | _ => !toward mode neg && r != 0

/-- With greater quanta, the count is the quotient, or one more; the shortcut of `quanta` for small numbers agrees. -/
theorem quanta_of_shift (e : Int) {sh : Nat} (hsh : 0 < sh) (mode : RMode) (neg : Bool) (m : Nat) (odd : Bool) :
    quanta mode neg m e (e + sh) odd =
      (if restUp mode neg sh (m / 2 ^ sh) (m % 2 ^ sh) odd then m / 2 ^ sh + 1 else m / 2 ^ sh,
        m % 2 ^ sh != 0) := by
  have hd : ¬ e + (sh : ℤ) - e ≤ 0 := by omega
  have hn : (e + (sh : ℤ) - e).toNat = sh := by omega
  simp only [quanta, if_neg hd, hn]
  split
  next hsmall =>
    have hlt : 2 * m < 2 ^ sh := by
      have h1 : m < 2 ^ (m.log2 + 1) := Nat.lt_log2_self
      have h2 : 2 ^ (m.log2 + 1 + 1) ≤ 2 ^ sh := Nat.pow_le_pow_right (by norm_num) hsmall
      rw [pow_succ] at h2
      omega
    rw [Nat.div_eq_of_lt (show m < 2 ^ sh by omega), Nat.mod_eq_of_lt (show m < 2 ^ sh by omega)]
    have hne : ¬ 2 * m = 2 ^ sh := by omega
    cases mode <;> cases neg <;> simp [restUp, toward, hlt.not_gt, hne]
  next =>
    cases mode with
    | rne | rtz => rfl
    | rup | rdn => cases neg <;> simp [restUp, toward]

end Sys2Proof.Proofs
end

section
/-! The count of quanta that `quanta` gives is the one rounding to whole quanta (06 R104, R112). -/

namespace Sys2Proof.Proofs

open Sys2Proof Sys2Proof.Machine Sys2Proof.Claims

namespace StandsFor

variable {X : ℝ} {m : Nat} {e q : Int}

/-- Against a number of greater quanta, `X` compares as `m` does. -/
theorem shift_lt_iff (h : StandsFor X m e q) {d : Nat} (hq : q ≤ e + d) (j : Nat) :
    (j : ℝ) * 2 ^ (e + (d : ℤ)) < X ↔ j * 2 ^ d < m := by
  rw [(h _ hq j).2, natCast_mul_zpow_add, mul_lt_mul_iff_of_pos_right (zpow_pos two_pos e), Nat.cast_lt]

theorem lt_shift_iff (h : StandsFor X m e q) {d : Nat} (hq : q ≤ e + d) (j : Nat) :
    X < (j : ℝ) * 2 ^ (e + (d : ℤ)) ↔ m < j * 2 ^ d := by
  rw [(h _ hq j).1, natCast_mul_zpow_add, mul_lt_mul_iff_of_pos_right (zpow_pos two_pos e), Nat.cast_lt]

theorem shift_eq_iff (h : StandsFor X m e q) {d : Nat} (hq : q ≤ e + d) (j : Nat) :
    (j : ℝ) * 2 ^ (e + (d : ℤ)) = X ↔ j * 2 ^ d = m := by
  rw [h.eq_iff hq, natCast_mul_zpow_add, mul_left_inj' (zpow_pos two_pos e).ne', Nat.cast_inj]

end StandsFor

/-- Two neighbouring numbers of quanta add up to an odd number of half quanta. -/
theorem add_succ_quanta (k : Nat) (q : Int) :
    (k : ℝ) * 2 ^ q + ((k + 1 : ℕ) : ℝ) * 2 ^ q = 2 * (((2 * k + 1 : ℕ) : ℝ) * 2 ^ (q - 1)) := by
  rw [zpow_sub_one₀ two_ne_zero]
  push_cast
  ring

/-- The rest decides as the midpoint does. -/
theorem restUp_iff {X : ℝ} {m sh : Nat} {e : Int} (hsh : 0 < sh) (h : StandsFor X m e (e + sh - 1)) (mode : RMode)
    (neg odd : Bool) :
    restUp mode neg sh (m / 2 ^ sh) (m % 2 ^ sh) odd = true ↔
      roundsUp mode neg (((m / 2 ^ sh : ℕ) : ℝ) * 2 ^ (e + (sh : ℤ))) (((m / 2 ^ sh + 1 : ℕ) : ℝ) * 2 ^ (e + (sh : ℤ))) X
        (¬ (m / 2 ^ sh % 2 = 1 ↔ odd = true)) := by
  have hdm := Nat.div_add_mod' m (2 ^ sh)
  have hlow : ((m / 2 ^ sh : ℕ) : ℝ) * 2 ^ (e + (sh : ℤ)) < X ↔ m % 2 ^ sh ≠ 0 := by
    rw [h.shift_lt_iff (by omega)]
    omega
  obtain ⟨d, rfl⟩ : ∃ d, sh = d + 1 := ⟨sh - 1, by omega⟩
  have hexp : e + ((d + 1 : ℕ) : ℤ) - 1 = e + (d : ℤ) := by push_cast; ring
  rw [hexp] at h
  cases mode with
  | rne =>
    simp only [restUp, roundsUp, add_succ_quanta, hexp, mul_lt_mul_iff_of_pos_left (two_pos (α := ℝ)),
      mul_right_inj' (two_ne_zero (α := ℝ)), h.shift_lt_iff le_rfl, h.shift_eq_iff le_rfl]
    generalize m / 2 ^ (d + 1) = k at *
    generalize m % 2 ^ (d + 1) = r at *
    rw [pow_succ] at *
    have hmid : (2 * k + 1) * 2 ^ d = k * (2 ^ d * 2) + 2 ^ d := by ring
    rw [hmid]
    have hodd : ((k % 2 == 1) != odd) = true ↔ ¬ (k % 2 = 1 ↔ odd = true) := by cases odd <;> simp
    rw [Bool.or_eq_true, Bool.and_eq_true, hodd, decide_eq_true_iff, beq_iff_eq]
    refine or_congr (by omega) (and_congr_left fun _ => by omega)
  | rtz | rup | rdn =>
    simp only [restUp, roundsUp, hlow, Bool.and_eq_true, Bool.not_eq_true', bne_iff_ne]

/-- The count of quanta is the rounding of `X` to their multiples, and the flag says whether it differs from `X`. -/
theorem quanta_spec {X : ℝ} {m : Nat} {e q : Int} (h : StandsFor X m e (q - 1)) (mode : RMode) (neg odd : Bool) :
    RoundsIn (fun k => (k : ℝ) * 2 ^ q) (fun k => ¬ (k % 2 = 1 ↔ odd = true)) mode neg X
        (quanta mode neg m e q odd).1 ∧
      ((quanta mode neg m e q odd).2 = true ↔ ((quanta mode neg m e q odd).1 : ℝ) * 2 ^ q ≠ X) := by
  have hstep : ∀ k : Nat, (k : ℝ) * 2 ^ q < ((k + 1 : ℕ) : ℝ) * 2 ^ q := fun k =>
    mul_lt_mul_of_pos_right (by push_cast; linarith) (zpow_pos two_pos q)
  rcases le_or_gt q e with hle | hgt
  · rw [quanta_of_le hle]
    obtain ⟨d, hd⟩ := Int.eq_ofNat_of_zero_le (sub_nonneg.2 hle)
    have hX : ((m * 2 ^ (e - q).toNat : ℕ) : ℝ) * 2 ^ q = X := by
      rw [h.eq_iff (by omega), hd, Int.toNat_natCast, ← natCast_mul_zpow_add]
      congr 2
      omega
    refine ⟨⟨m * 2 ^ (e - q).toNat, hX.le, ?_, .inr ⟨rfl, fun hup => ?_⟩⟩, by simpa using hX⟩
    · exact hX.symm.trans_lt (hstep _)
    · exact (lt_of_roundsUp (hstep _) hup).ne hX
  · obtain ⟨sh, hsh⟩ := Int.eq_ofNat_of_zero_le (sub_nonneg.2 hgt.le)
    obtain rfl : q = e + sh := by omega
    have hpos : 0 < sh := by omega
    rw [quanta_of_shift e hpos]
    have hdm := Nat.div_add_mod' m (2 ^ sh)
    have hr := Nat.mod_lt m (Nat.two_pow_pos sh)
    have hlo : ((m / 2 ^ sh : ℕ) : ℝ) * 2 ^ (e + (sh : ℤ)) ≤ X := by
      rw [← not_lt, h.lt_shift_iff (by omega)]
      omega
    have hhi : X < ((m / 2 ^ sh + 1 : ℕ) : ℝ) * 2 ^ (e + (sh : ℤ)) := by
      rw [h.lt_shift_iff (by omega), Nat.add_mul]
      omega
    have hix : (m % 2 ^ sh != 0) = true ↔ ((m / 2 ^ sh : ℕ) : ℝ) * 2 ^ (e + (sh : ℤ)) ≠ X := by
      rw [Ne, h.shift_eq_iff (by omega), bne_iff_ne]
      omega
    rw [hix]
    have hiff := restUp_iff hpos h mode neg odd
    by_cases hup : restUp mode neg sh (m / 2 ^ sh) (m % 2 ^ sh) odd = true
    · rw [if_pos hup]
      exact ⟨⟨_, hlo, hhi, .inl ⟨rfl, hiff.1 hup⟩⟩, iff_of_true (lt_of_roundsUp (hstep _) (hiff.1 hup)).ne hhi.ne'⟩
    · rw [if_neg hup]
      exact ⟨⟨_, hlo, hhi, .inr ⟨rfl, fun h => hup (hiff.2 h)⟩⟩, Iff.rfl⟩

end Sys2Proof.Proofs
end

section
/-! The code that `roundMag` gives is the one rounding to the numbers of a format whose codes go on without bound, and its
two marks say whether that is inexact and whether the value is tiny (06 R104, R107, R112). -/

namespace Sys2Proof.Proofs

open Sys2Proof Sys2Proof.Machine Sys2Proof.Claims

/-- The numbers of the codes among the reals. -/
noncomputable abbrev codeIn (p : Nat) (q0 : Int) (c : Nat) : ℝ := ((codeMag p q0 c : ℚ) : ℝ)

theorem codeIn_strictMono {p : Nat} (q0 : Int) (hp : 1 ≤ p) : StrictMono (codeIn p q0) :=
  Rat.cast_strictMono.comp (codeMag_strictMono q0 hp)

theorem codeIn_binade {p k base : Nat} (q0 : Int) (hp : 1 ≤ p) (hk : k ≤ 2 ^ p) (hlow : base = 0 ∨ 2 ^ (p - 1) ≤ k) :
    codeIn p q0 (base * 2 ^ (p - 1) + k) = k * 2 ^ (q0 + (base : ℤ)) := by
  simp [codeIn, codeMag_binade q0 hp hk hlow]

theorem natCast_mul_zpow_lt_iff (r s : Nat) (e : Int) : (r : ℝ) * 2 ^ e < s * 2 ^ e ↔ r < s := by
  rw [mul_lt_mul_iff_of_pos_right (zpow_pos two_pos e), Nat.cast_lt]

theorem natCast_pow_mul_zpow {K : Type} [Field K] [CharZero K] (n : Nat) (e : Int) :
    ((2 ^ n : ℕ) : K) * 2 ^ e = 2 ^ (e + (n : ℤ)) := by
  rw [← one_mul ((2 : K) ^ (e + (n : ℤ))), ← Nat.cast_one (R := K), natCast_mul_zpow_add, one_mul]

/-- `topExp` is the exponent of the leading bit. -/
theorem topExp_lt_iff {m : Nat} (hm : m ≠ 0) (e : Int) (n : Nat) (q : Int) :
    topExp m e < q + n ↔ (m : ℝ) * 2 ^ e < 2 ^ (q + (n : ℤ)) := by
  have hlo : (2 ^ m.log2 : ℕ) * (2 : ℝ) ^ e ≤ m * 2 ^ e :=
    mul_le_mul_of_nonneg_right (by exact_mod_cast Nat.log2_self_le hm) (zpow_nonneg two_pos.le e)
  have hhi : (m : ℝ) * 2 ^ e < (2 ^ (m.log2 + 1) : ℕ) * 2 ^ e := (natCast_mul_zpow_lt_iff _ _ e).2 Nat.lt_log2_self
  rw [natCast_pow_mul_zpow] at hlo hhi
  unfold topExp
  constructor
  · intro h
    exact hhi.trans_le (zpow_le_zpow_right₀ one_le_two (by push_cast; omega))
  · intro h
    exact (zpow_lt_zpow_iff_right₀ one_lt_two).1 (hlo.trans_lt h)

/-- Where the bits of `m 2^e` begin, those of `X` do. -/
theorem StandsFor.lt_two_zpow_iff {X : ℝ} {m : Nat} {e q n : Int} (h : StandsFor X m e q) (hm : m ≠ 0) (hq : q ≤ n) :
    X < 2 ^ n ↔ topExp m e < n := by
  have h1 := (h n hq 1).1
  have h2 := topExp_lt_iff hm e 0 n
  simp only [Nat.cast_one, one_mul, Nat.cast_zero, add_zero] at h1 h2
  rw [h1, h2]

/-- `X` in quanta of `2 ^ q`, no less than its own: below `2 ^ p` of them, and no less than half as many where they are its
own. -/
theorem quanta_bounds {X : ℝ} {m p : Nat} {e q : Int} (h : StandsFor X m e (topExp m e - p)) (hm : m ≠ 0) (hp : 1 ≤ p)
    (hq : topExp m e - ((p : ℤ) - 1) ≤ q) {k : Nat} (hlo : (k : ℝ) * 2 ^ q ≤ X) (hhi : X < (k + 1 : ℕ) * 2 ^ q) :
    k < 2 ^ p ∧ (q = topExp m e - ((p : ℤ) - 1) → 2 ^ (p - 1) ≤ k) := by
  constructor
  · have hX : X < 2 ^ (q + (p : ℤ)) := (h.lt_two_zpow_iff hm (by omega)).2 (by omega)
    rw [← natCast_pow_mul_zpow] at hX
    exact (natCast_mul_zpow_lt_iff _ _ q).1 (hlo.trans_lt hX)
  · intro heq
    have hX : (2 : ℝ) ^ (q + ((p - 1 : ℕ) : ℤ)) ≤ X := by
      rw [← not_lt, h.lt_two_zpow_iff hm (by omega)]
      omega
    rw [← natCast_pow_mul_zpow] at hX
    exact Nat.lt_succ_iff.1 ((natCast_mul_zpow_lt_iff _ _ q).1 (hX.trans_lt hhi))

/-- The parity of a code is that of its count of quanta, but at precision 1, where the binade decides (R112). -/
theorem code_odd_iff {p : Nat} (hp : 1 ≤ p) (base k : Nat) :
    (base * 2 ^ (p - 1) + k) % 2 = 1 ↔ ¬ (k % 2 = 1 ↔ (p == 1 && base % 2 == 1) = true) := by
  rcases Nat.lt_or_ge 1 p with h | h
  · have heven : base * 2 ^ (p - 1) % 2 = 0 :=
      Nat.mod_eq_zero_of_dvd ((dvd_pow_self 2 (by omega)).mul_left base)
    simp only [beq_false_of_ne h.ne', Bool.false_and, Bool.false_eq_true, iff_false, not_not]
    omega
  · obtain rfl : p = 1 := by omega
    simp only [Nat.sub_self, pow_zero, mul_one, beq_self_eq_true, Bool.true_and, beq_iff_eq]
    omega

/-- The code that a value rounds to, and whether it is inexact (R104, R112). -/
theorem roundMag_spec {X : ℝ} {m p : Nat} {e : Int} (q0 : Int) (mode : RMode) (neg : Bool)
    (h : StandsFor X m e (topExp m e - p)) (hm : m ≠ 0) (hp : 1 ≤ p) :
    RoundsIn (codeIn p q0) (fun c => c % 2 = 1) mode neg X (roundMag p q0 mode neg m e).1 ∧
      ((roundMag p q0 mode neg m e).2.1 = true ↔ codeIn p q0 (roundMag p q0 mode neg m e).1 ≠ X) := by
  simp only [roundMag]
  generalize hq : max (topExp m e - ((p : ℤ) - 1)) q0 = q
  generalize hb : (q - q0).toNat = base
  have hbase : q0 + (base : ℤ) = q := by omega
  have hM : ∀ k : Nat, (k : ℝ) * 2 ^ q ≤ X → X < (k + 1 : ℕ) * 2 ^ q →
      codeIn p q0 (base * 2 ^ (p - 1) + k) = k * 2 ^ q ∧
      codeIn p q0 (base * 2 ^ (p - 1) + (k + 1)) = (k + 1 : ℕ) * 2 ^ q := by
    intro k hlo hhi
    obtain ⟨hk, hown⟩ := quanta_bounds h hm hp (by omega) hlo hhi
    have hlow : base = 0 ∨ 2 ^ (p - 1) ≤ k := (Nat.eq_zero_or_pos base).imp_right fun hpos => hown (by omega)
    rw [codeIn_binade q0 hp hk.le hlow, codeIn_binade q0 hp hk (by omega), hbase]
    exact ⟨rfl, rfl⟩
  obtain ⟨hr, hix⟩ := quanta_spec (h.mono (show topExp m e - p ≤ q - 1 by omega)) mode neg (p == 1 && base % 2 == 1)
  refine ⟨hr.shift hM fun k => code_odd_iff hp base k, ?_⟩
  obtain ⟨k, hlo, hhi, ⟨hc, -⟩ | ⟨hc, -⟩⟩ := hr
  · rw [hix, hc, (hM k hlo hhi).2]
  · rw [hix, hc, (hM k hlo hhi).1]

theorem not_tiny_of_le {p : Nat} {low x : ℝ} {mode : RMode} {neg : Bool} (hlow : 0 < low) (h : low ≤ |x|) :
    ¬ tiny p low mode neg x := by
  have hgap : 0 < low / 2 ^ p := div_pos hlow (pow_pos two_pos p)
  rcases eq_or_ne mode .rne with rfl | hdir
  · rw [tiny_rne]
    split <;> linarith
  · rw [tiny_directed hdir]
    split <;> linarith

/-- What leaves room for two gaps below `low`, or for one above and one below it, is tiny. -/
theorem tiny_of_add_lt {p : Nat} {low x : ℝ} (mode : RMode) (neg : Bool) (hlow : 0 < low) (h : |x| + low / 2 ^ p < low) :
    tiny p low mode neg x := by
  have hgap : 0 < low / 2 ^ p := div_pos hlow (pow_pos two_pos p)
  rcases eq_or_ne mode .rne with rfl | hdir
  · rw [tiny_rne]
    split <;> linarith
  · rw [tiny_directed hdir]
    split <;> linarith

theorem tiny_of_lt_half {p : Nat} {low x : ℝ} (mode : RMode) (neg : Bool) (hp : 1 ≤ p) (h : 2 * |x| < low) :
    tiny p low mode neg x := by
  have hlow : 0 < low := (by positivity : (0 : ℝ) ≤ 2 * |x|).trans_lt h
  have hgap : low / 2 ^ p ≤ low / 2 :=
    div_le_div_of_nonneg_left hlow.le two_pos (by simpa using pow_le_pow_right₀ (one_le_two (α := ℝ)) hp)
  exact tiny_of_add_lt mode neg hlow (by linarith)

/-- In the binade of `gap`, the last below `2 ^ p` of it, the rounding stays below them exactly where `X` is tiny. -/
theorem rounded_lt_iff_tiny_of_last {X gap : ℝ} {p : Nat} (hp : 1 ≤ p) (hgap : 0 < gap) {mode : RMode} {neg : Bool}
    {ru : Nat} (hX : 0 < X) (hlt : X < 2 ^ p * gap)
    (h : RoundsIn (fun k => (k : ℝ) * gap) (fun k => ¬ (k % 2 = 1 ↔ p = 1)) mode neg X ru) :
    ru < 2 ^ p ↔ tiny p (2 ^ p * gap) mode neg X := by
  obtain ⟨k, hlo, hhi, hc⟩ := h
  have hpow := two_pow_eq_double hp
  have hq : 2 ^ p * gap / 2 ^ p = gap := mul_div_cancel_left₀ _ (pow_pos two_pos p).ne'
  have hk : k < 2 ^ p := by
    have : (k : ℝ) * gap < (2 ^ p : ℕ) * gap := by push_cast; exact hlo.trans_lt hlt
    exact_mod_cast lt_of_mul_lt_mul_right this hgap.le
  rcases Nat.lt_or_ge (k + 1) (2 ^ p) with hin | hlast
  · refine iff_of_true (by omega) (tiny_of_add_lt mode neg (mul_pos (pow_pos two_pos p) hgap) ?_)
    have hle : (((k + 1 : ℕ) + 1 : ℕ) : ℝ) * gap ≤ (2 ^ p : ℕ) * gap :=
      mul_le_mul_of_nonneg_right (Nat.cast_le.2 hin) hgap.le
    push_cast at hle hhi
    rw [hq, abs_of_pos hX]
    linarith
  · have hkp : k + 1 = 2 ^ p := by omega
    have htop : ((k + 1 : ℕ) : ℝ) * gap = 2 ^ p * gap := by rw [hkp]; push_cast; rfl
    have hlow : (k : ℝ) * gap = 2 ^ p * gap - gap := by rw [← htop]; push_cast; ring
    have hodd : k % 2 = 1 := by omega
    have hru : ru < 2 ^ p ↔ ¬ roundsUp mode neg ((k : ℝ) * gap) ((k + 1 : ℕ) * gap) X (¬ (k % 2 = 1 ↔ p = 1)) := by
      rcases hc with ⟨rfl, hup⟩ | ⟨rfl, hup⟩
      · exact iff_of_false (by omega) (not_not.2 hup)
      · exact iff_of_true hk hup
    rw [hru, htop, hlow]
    rcases eq_or_ne mode .rne with rfl | hdir
    · rw [roundsUp_rne, tiny_rne, hq, abs_of_pos hX]
      by_cases h1 : p = 1
      · simp only [hodd, h1, not_true, and_false, or_false, not_lt, if_true]
        constructor <;> intro h <;> linarith
      · simp only [hodd, h1, iff_false, not_true, not_false_iff, and_true, if_false, ← le_iff_lt_or_eq, not_le]
        constructor <;> intro h <;> linarith
    · rw [roundsUp_directed hdir, tiny_directed hdir, hq, abs_of_pos hX]
      by_cases ht : toward mode neg = true
      · simp [ht, hlt]
      · simp only [ht, true_and, not_lt, Bool.false_eq_true, if_false]
        constructor <;> intro h <;> linarith

theorem StandsFor.pos {X : ℝ} {m : Nat} {e q : Int} (h : StandsFor X m e q) (hm : m ≠ 0) : 0 < X := by
  have h0 := (h q le_rfl 0).2
  simp only [Nat.cast_zero, zero_mul] at h0
  exact h0.2 (mul_pos (Nat.cast_pos.2 (Nat.pos_of_ne_zero hm)) (zpow_pos two_pos e))

/-- Tininess is that of the value rounded with the exponent range unbounded (R104, R112). -/
theorem roundMag_tiny {X : ℝ} {m p : Nat} {e : Int} (q0 : Int) (mode : RMode) (neg : Bool)
    (h : StandsFor X m e (topExp m e - p)) (hm : m ≠ 0) (hp : 1 ≤ p) :
    (roundMag p q0 mode neg m e).2.2 = true ↔ tiny p (2 ^ (q0 + ((p : ℤ) - 1))) mode neg X := by
  simp only [roundMag]
  generalize hq : topExp m e - ((p : ℤ) - 1) = qu
  obtain ⟨hr, -⟩ := quanta_spec (h.mono (show topExp m e - p ≤ qu - 1 by omega)) mode neg
    (p == 1 && (qu - q0) % 2 != 0)
  generalize quanta mode neg m e qu (p == 1 && (qu - q0) % 2 != 0) = res at hr ⊢
  obtain ⟨ru, ix⟩ := res
  dsimp only at hr
  have hbounds : 2 ^ (p - 1) ≤ ru ∧ ru ≤ 2 ^ p := by
    obtain ⟨k, hlo, hhi, hc⟩ := hr
    obtain ⟨hk, hown⟩ := quanta_bounds h hm hp hq.le hlo hhi
    have := hown hq.symm
    rcases hc with ⟨rfl, -⟩ | ⟨rfl, -⟩ <;> omega
  have hru : ru ≠ 0 := by have := Nat.two_pow_pos (p - 1); omega
  simp only [bne_iff_ne.2 hru, Bool.true_and, decide_eq_true_iff]
  have hp1 : ((p - 1 : ℕ) : ℤ) = (p : ℤ) - 1 := by omega
  rw [← hp1, topExp_lt_iff hru]
  rcases le_or_gt q0 qu with hge | hlt
  · have hstep : (2 : ℝ) ^ (q0 + ((p - 1 : ℕ) : ℤ)) ≤ 2 ^ (qu + ((p - 1 : ℕ) : ℤ)) :=
      zpow_le_zpow_right₀ one_le_two (by omega)
    have hX : (2 : ℝ) ^ (qu + ((p - 1 : ℕ) : ℤ)) ≤ |X| := by
      rw [abs_of_pos (h.pos hm), ← not_lt, h.lt_two_zpow_iff hm (by omega)]
      omega
    refine iff_of_false (not_lt.2 ?_) (not_tiny_of_le (zpow_pos two_pos _) (hstep.trans hX))
    calc (2 : ℝ) ^ (q0 + ((p - 1 : ℕ) : ℤ)) ≤ 2 ^ (qu + ((p - 1 : ℕ) : ℤ)) := hstep
      _ = (2 ^ (p - 1) : ℕ) * 2 ^ qu := (natCast_pow_mul_zpow _ _).symm
      _ ≤ ru * 2 ^ qu := mul_le_mul_of_nonneg_right (Nat.cast_le.2 hbounds.1) (zpow_nonneg two_pos.le _)
  · have hXtop : X < 2 ^ (qu + (p : ℤ)) := (h.lt_two_zpow_iff hm (by omega)).2 (by omega)
    rcases (Int.add_one_le_of_lt hlt).lt_or_eq with hbelow | hlast
    · have hhalf : (2 : ℝ) ^ (qu + (p : ℤ) + 1) ≤ 2 ^ (q0 + ((p - 1 : ℕ) : ℤ)) :=
        zpow_le_zpow_right₀ one_le_two (by omega)
      rw [zpow_add_one₀ two_ne_zero] at hhalf
      refine iff_of_true ?_ (tiny_of_lt_half mode neg hp (by rw [abs_of_pos (h.pos hm)]; linarith))
      have hru' : (ru : ℝ) * 2 ^ qu ≤ 2 ^ (qu + (p : ℤ)) := by
        rw [← natCast_pow_mul_zpow]
        exact mul_le_mul_of_nonneg_right (Nat.cast_le.2 hbounds.2) (zpow_nonneg two_pos.le _)
      have : (0 : ℝ) < 2 ^ (qu + (p : ℤ)) := zpow_pos two_pos _
      linarith
    · have hlow : (2 : ℝ) ^ (q0 + ((p - 1 : ℕ) : ℤ)) = 2 ^ p * 2 ^ qu := by
        rw [← zpow_natCast, ← zpow_add₀ two_ne_zero]
        congr 1
        omega
      have hpar : (p == 1 && (qu - q0) % 2 != 0) = true ↔ p = 1 := by
        have : (qu - q0) % 2 ≠ 0 := by omega
        simp [this]
      simp only [hpar] at hr
      have hXlt : X < 2 ^ p * 2 ^ qu := by rwa [← hlow, show q0 + ((p - 1 : ℕ) : ℤ) = qu + p by omega]
      rw [hlow, ← rounded_lt_iff_tiny_of_last hp (zpow_pos two_pos qu) (h.pos hm) hXlt hr,
        ← natCast_mul_zpow_lt_iff ru (2 ^ p) qu]
      push_cast
      rfl

end Sys2Proof.Proofs
end

section
/-! What the code of a rounding says of its value (06 R104, R112): nearest with ties to even, or the neighbour on the side
that the mode names, and when it passes a given code. -/

namespace Sys2Proof.Proofs

open Sys2Proof Sys2Proof.Machine Sys2Proof.Claims

variable {M : Nat → ℝ} {mode : RMode} {neg : Bool} {X : ℝ} {c : Nat}

theorem ne_rne_of_toward (ht : toward mode neg = true) : mode ≠ .rne := by
  rintro rfl
  exact Bool.false_ne_true ht

theorem RoundsIn.bounds_of_toward {odd : Nat → Prop} (ht : toward mode neg = true) (h : RoundsIn M odd mode neg X c) :
    M c ≤ X ∧ X < M (c + 1) := by
  obtain ⟨k, hlo, hhi, ⟨rfl, hup⟩ | ⟨rfl, -⟩⟩ := h
  · have := ((roundsUp_directed (ne_rne_of_toward ht)).1 hup).1
    exact absurd (ht.symm.trans this) Bool.noConfusion
  · exact ⟨hlo, hhi⟩

theorem RoundsIn.bounds_of_away {odd : Nat → Prop} (hM : StrictMono M) (hdir : mode ≠ .rne) (ht : toward mode neg = false)
    (h : RoundsIn M odd mode neg X c) : X ≤ M c ∧ (c = 0 ∨ M (c - 1) < X) := by
  obtain ⟨k, hlo, hhi, ⟨rfl, hup⟩ | ⟨rfl, hup⟩⟩ := h
  · exact ⟨hhi.le, .inr ((roundsUp_directed hdir).1 hup).2⟩
  · rw [roundsUp_directed hdir, not_and, not_lt] at hup
    refine ⟨hup ht, (Nat.eq_zero_or_pos c).imp_right fun hpos => ?_⟩
    exact (hM (Nat.sub_lt hpos Nat.one_pos)).trans_le hlo

/-- When a rounding passes from the number `lo` on to `hi`, the next one: RNE from the midpoint on, the directed modes from
`hi` on or past `lo`. -/
def passes (mode : RMode) (neg : Bool) (lo hi X : ℝ) : Prop :=
  match mode with
  | .rne => lo + hi ≤ 2 * X
  | _ => if toward mode neg then hi ≤ X else lo < X

theorem passes_directed (hdir : mode ≠ .rne) {lo hi : ℝ} :
    passes mode neg lo hi X ↔ if toward mode neg then hi ≤ X else lo < X := by
  cases mode with
  | rne => exact absurd rfl hdir
  | rtz | rup | rdn => rfl

theorem lt_of_passes {lo hi : ℝ} (hlh : lo < hi) (h : passes mode neg lo hi X) : lo < X := by
  rcases eq_or_ne mode .rne with rfl | hdir
  · have : lo + hi ≤ 2 * X := h
    linarith
  · rw [passes_directed hdir] at h
    split at h
    · exact hlh.trans_le h
    · exact h

theorem RoundsIn.nearest (hM : StrictMono M) (h : RoundsIn M (fun c => c % 2 = 1) .rne neg X c) (b : Nat) :
    |M c - X| ≤ |M b - X| ∧ (|M c - X| = |M b - X| → b ≠ c → c % 2 = 0) := by
  obtain ⟨k, hlo, hhi, hc⟩ := h
  have hb : (b = k ∨ M b < M k) ∨ (b = k + 1 ∨ M (k + 1) < M b) := by
    rcases Nat.lt_or_ge k b with hkb | hkb
    · exact .inr ((Nat.eq_or_lt_of_le hkb).imp Eq.symm (@hM _ _))
    · exact .inl ((Nat.eq_or_lt_of_le hkb).imp id (@hM _ _))
  have hbelow : ∀ y, y ≤ X → |y - X| = X - y := fun y hy => by rw [abs_sub_comm, abs_of_nonneg (sub_nonneg.2 hy)]
  have habove : ∀ y, X ≤ y → |y - X| = y - X := fun y hy => abs_of_nonneg (sub_nonneg.2 hy)
  rcases hc with ⟨rfl, hup⟩ | ⟨rfl, hup⟩
  · rw [habove _ hhi.le]
    have hmid : M k + M (k + 1) ≤ 2 * X := hup.elim (fun h => h.le) (fun h => h.1.le)
    rcases hb with (rfl | hb) | (rfl | hb)
    · rw [hbelow _ hlo]
      refine ⟨by linarith, fun heq _ => ?_⟩
      rcases hup with h | ⟨-, hodd⟩
      · linarith
      · omega
    · rw [hbelow _ (hb.le.trans hlo)]
      exact ⟨by linarith, fun _ _ => by linarith⟩
    · rw [habove _ hhi.le]
      exact ⟨le_rfl, fun _ hne => absurd rfl hne⟩
    · rw [habove _ (hhi.le.trans hb.le)]
      exact ⟨by linarith, fun _ _ => by linarith⟩
  · rw [roundsUp_rne, not_or, not_lt, not_and] at hup
    obtain ⟨hmid, htie⟩ := hup
    rw [hbelow _ hlo]
    rcases hb with (rfl | hb) | (rfl | hb)
    · rw [hbelow _ hlo]
      exact ⟨le_rfl, fun _ hne => absurd rfl hne⟩
    · rw [hbelow _ (hb.le.trans hlo)]
      exact ⟨by linarith, fun _ _ => by linarith⟩
    · rw [habove _ hhi.le]
      exact ⟨by linarith, fun heq _ => by have := htie (by linarith); omega⟩
    · rw [habove _ (hhi.le.trans hb.le)]
      exact ⟨by linarith, fun _ _ => by linarith⟩

/-- What is a code's number rounds to that code. -/
theorem RoundsIn.eq_of_eq {odd : Nat → Prop} (hM : StrictMono M) (h : RoundsIn M odd mode neg X c) {n : Nat} (hX : M n = X) :
    c = n := by
  obtain ⟨k, hlo, hhi, hc⟩ := h
  subst hX
  obtain rfl : n = k := by
    have h1 := hM.le_iff_le.1 hlo
    have h2 := hM.lt_iff_lt.1 hhi
    omega
  rcases hc with ⟨-, hup⟩ | ⟨rfl, -⟩
  · exact absurd rfl (lt_of_roundsUp (hM (Nat.lt_succ_self n)) hup).ne
  · rfl

/-- A rounding goes beyond an odd code where it passes from that code's number on to the next. -/
theorem RoundsIn.lt_iff_passes (hM : StrictMono M) (h : RoundsIn M (fun c => c % 2 = 1) mode neg X c) {n : Nat}
    (hn : n % 2 = 1) : n < c ↔ passes mode neg (M n) (M (n + 1)) X := by
  rcases eq_or_ne mode .rne with rfl | hdir
  · obtain ⟨k, hlo, hhi, hc⟩ := h
    rcases lt_trichotomy n k with hlt | rfl | hgt
    · have h1 := hM hlt
      have h2 := hM.monotone (Nat.succ_le_of_lt hlt)
      have hpass : M n + M (n + 1) ≤ 2 * X := by linarith
      exact iff_of_true (by omega) hpass
    · rcases hc with ⟨rfl, hup⟩ | ⟨rfl, hup⟩
      · exact iff_of_true (Nat.lt_succ_self n) (hup.elim (fun h => h.le) fun h => h.1.le)
      · rw [roundsUp_rne, not_or, not_lt, not_and'] at hup
        exact iff_of_false (lt_irrefl c) (fun hle => hup.2 hn (le_antisymm hle hup.1))
    · have h1 := hM.monotone (Nat.succ_le_of_lt hgt)
      have h2 := hM (Nat.lt_succ_of_lt hgt)
      have h3 := hM (Nat.lt_succ_self n)
      have hpass : ¬ M n + M (n + 1) ≤ 2 * X := by linarith
      exact iff_of_false (by omega) hpass
  · rw [passes_directed hdir]
    cases ht : toward mode neg with
    | true =>
      obtain ⟨hlo, hhi⟩ := h.bounds_of_toward ht
      exact ⟨fun hlt => (hM.monotone (Nat.succ_le_of_lt hlt)).trans hlo,
        fun hle => Nat.lt_of_succ_lt_succ (hM.lt_iff_lt.1 (hle.trans_lt hhi))⟩
    | false =>
      obtain ⟨hhi, hlo⟩ := h.bounds_of_away hM hdir ht
      refine ⟨fun hlt => ?_, fun hlt => hM.lt_iff_lt.1 (hlt.trans_le hhi)⟩
      exact (hM.monotone (by omega)).trans_lt (hlo.resolve_left (by omega))

end Sys2Proof.Proofs
end

section
/-! The numbers of the finite patterns of an IEEE format (06 R102). -/

namespace Sys2Proof.Proofs

open Sys2Proof Sys2Proof.Machine Sys2Proof.Claims

namespace IsWide

variable {f : FFmt} (hf : IsWide f)
include hf

/-- Below the code of infinity stand the finite numbers. -/
theorem decode_of_lt_inf {c : Nat} (hc : c < f.inf) (n : Bool) :
    ∃ m e, f.decode (f.signed n c) = .fin n m e ∧ (m : ℚ) * 2 ^ e = codeMag f.p f.q0 c := by
  have hne : c / 2 ^ (f.p - 1) ≠ f.eTop := ((Nat.div_lt_iff_lt_mul (Nat.two_pow_pos _)).2 hc).ne
  rw [hf.decode_signed (hf.lt_sign_of_lt_inf hc), if_neg hne]
  unfold codeMag
  split
  · exact ⟨_, _, rfl, rfl⟩
  · exact ⟨_, _, rfl, rfl⟩

/-- The number that would follow the largest finite one. -/
theorem codeMag_inf : codeMag f.p f.q0 f.inf = 2 ^ (f.emax + 1) := by
  have htwo := hf.two_le
  have hinf : f.inf = 2 * f.emax * 2 ^ (f.p - 1) + 2 ^ (f.p - 1) := by rw [FFmt.inf, hf.eTop_eq, Nat.succ_mul]
  have hle : 2 ^ (f.p - 1) ≤ 2 ^ f.p := Nat.pow_le_pow_right two_pos (by omega)
  rw [hinf, codeMag_binade f.q0 (by omega) hle (.inr le_rfl), natCast_pow_mul_zpow, ← zpow_natCast]
  congr 1
  simp only [FFmt.q0]
  push_cast
  omega

end IsWide

/-- A magnitude with a sign. -/
def withSign {K : Type} [Neg K] (n : Bool) (x : K) : K := if n then -x else x

@[simp] theorem withSign_false {K : Type} [Neg K] (x : K) : withSign false x = x := rfl

@[simp] theorem withSign_true {K : Type} [Neg K] (x : K) : withSign true x = -x := rfl

theorem withSign_inj (n : Bool) {x y : ℝ} : withSign n x = withSign n y ↔ x = y := by
  cases n <;> simp [withSign]

theorem cast_withSign (n : Bool) (x : ℚ) : ((withSign n x : ℚ) : ℝ) = withSign n (x : ℝ) := by
  cases n <;> simp [withSign]

theorem valQ_fin (n : Bool) (m : Nat) (e : Int) : valQ (.fin n m e) = withSign n ((m : ℚ) * 2 ^ e) := by
  cases n <;> simp [valQ, withSign]

theorem IsWide.valQ_decode {f : FFmt} (hf : IsWide f) {c : Nat} (hc : c < f.inf) (n : Bool) :
    valQ (f.decode (f.signed n c)) = withSign n (codeMag f.p f.q0 c) := by
  obtain ⟨m, e, hdec, hval⟩ := hf.decode_of_lt_inf hc n
  rw [hdec, valQ_fin, hval]

/-- The finite patterns are the signed codes below that of infinity. -/
theorem IsWide.finite_iff {f : FFmt} (hf : IsWide f) {b : Nat} : finite f b ↔ ∃ n c, c < f.inf ∧ b = f.signed n c := by
  constructor
  · rintro ⟨hb, hfin⟩
    obtain ⟨n, c, hc, rfl⟩ := hf.exists_signed hb
    refine ⟨n, c, ?_, rfl⟩
    rcases lt_trichotomy c f.inf with h | rfl | h
    · exact h
    · rw [hf.decode_inf] at hfin
      exact absurd hfin Bool.false_ne_true
    · obtain ⟨q, hq⟩ := hf.decode_of_inf_lt h hc n
      rw [hq] at hfin
      exact absurd hfin Bool.false_ne_true
  · rintro ⟨n, c, hc, rfl⟩
    obtain ⟨m, e, hdec, -⟩ := hf.decode_of_lt_inf hc n
    exact ⟨hf.signed_lt (hf.lt_sign_of_lt_inf hc) n, by rw [hdec]; rfl⟩

theorem IsWide.val_signed {f : FFmt} (hf : IsWide f) {c : Nat} (hc : c < f.inf) (n : Bool) :
    ((valQ (f.decode (f.signed n c)) : ℚ) : ℝ) = withSign n (codeIn f.p f.q0 c) := by
  rw [hf.valQ_decode hc, cast_withSign]

/-- A finite number against a sign: a code's number, or the opposite of one. -/
theorem IsWide.exists_val_eq {f : FFmt} (hf : IsWide f) {b : Nat} (hb : finite f b) (n : Bool) :
    ∃ d y, d < f.inf ∧ ((valQ (f.decode b) : ℚ) : ℝ) = withSign n y ∧
      (y = codeIn f.p f.q0 d ∨ y = - codeIn f.p f.q0 d) := by
  obtain ⟨s, d, hd, rfl⟩ := hf.finite_iff.1 hb
  rw [hf.val_signed hd]
  rcases eq_or_ne s n with rfl | hne
  · exact ⟨d, _, hd, rfl, .inl rfl⟩
  · obtain rfl : s = !n := Bool.eq_not.2 hne
    exact ⟨d, _, hd, by cases n <;> simp, .inr rfl⟩

end Sys2Proof.Proofs
end

section
/-! The one rounding to an IEEE format (06 R104, R107), of a value and of any number that stands for it. -/

namespace Sys2Proof.Proofs

open Sys2Proof Sys2Proof.Machine Sys2Proof.Claims

theorem round_fin (f : FFmt) (mode : RMode) (n : Bool) {m : Nat} (hm : m ≠ 0) (e : Int) :
    f.round mode (.fin n m e) =
      if f.inf ≤ (roundMag f.p f.q0 mode n m e).1 then
        (f.signed n (if toward mode n then f.inf - 1 else f.inf), fOF ||| fNX)
      else (f.signed n (roundMag f.p f.q0 mode n m e).1,
        ufnx (roundMag f.p f.q0 mode n m e).2.1 (roundMag f.p f.q0 mode n m e).2.2) := by
  simp [FFmt.round, hm]

/-- The flags of a rounding that does not overflow. -/
theorem ufnx_flags (ix small : Bool) : ufnx ix small &&& fOF = 0 ∧ (ufnx ix small &&& fNX = 0 ↔ ix = false) ∧
    (ufnx ix small &&& fUF ≠ 0 ↔ small = true ∧ ix = true) ∧
    ufnx ix small ||| fOF ||| fUF ||| fNX = fOF ||| fUF ||| fNX := by
  revert ix small
  decide

theorem overflow_flags : (fOF ||| fNX) &&& fOF ≠ 0 ∧ (fOF ||| fNX) &&& fUF = 0 ∧ (fOF ||| fNX) &&& fNX ≠ 0 ∧
    fOF ||| fNX ||| fOF ||| fUF ||| fNX = fOF ||| fUF ||| fNX := by decide

@[simp] theorem abs_withSign (n : Bool) (x : ℝ) : |withSign n x| = |x| := by
  cases n <;> simp [withSign]

theorem withSign_sub_withSign (n : Bool) (x y : ℝ) : |withSign n x - withSign n y| = |x - y| := by
  cases n with
  | false => rfl
  | true => simp only [withSign, if_true, neg_sub_neg, abs_sub_comm]

theorem tiny_withSign {p : Nat} {low X : ℝ} {mode : RMode} {s n : Bool} :
    tiny p low mode s (withSign n X) ↔ tiny p low mode s X := by
  simp only [tiny, abs_withSign]

namespace IsWide
variable {f : FFmt} (hf : IsWide f)
include hf

theorem one_le : 1 ≤ f.p := by
  have := hf.two_le
  omega

theorem codeIn_nonneg (c : Nat) : 0 ≤ codeIn f.p f.q0 c := Rat.cast_nonneg.2 (codeMag_nonneg f.q0 hf.one_le c)

/-- R104: the rounding of `x` to the finite number of a code. -/
theorem roundsTo_of_roundsIn {X : ℝ} {mode : RMode} {n : Bool} {c : Nat} (hX : 0 < X) (hc : c < f.inf)
    (h : RoundsIn (codeIn f.p f.q0) (fun c => c % 2 = 1) mode n X c) :
    roundsTo f mode (withSign n X) (f.signed n c) := by
  have hM := codeIn_strictMono f.q0 hf.one_le
  have hval := hf.val_signed hc n
  have hfin : ∀ {b}, finite f b → _ := fun hb => hf.exists_val_eq hb n
  have hnn := hf.codeIn_nonneg
  have hzero : codeIn f.p f.q0 0 = 0 := by simp [codeIn]
  generalize codeIn f.p f.q0 = M at *
  have below : toward mode n = true → M c ≤ X ∧ ∀ d y, (y = M d ∨ y = - M d) → y ≤ X → y ≤ M c := by
    intro ht
    obtain ⟨hlo, hhi⟩ := h.bounds_of_toward ht
    refine ⟨hlo, ?_⟩
    rintro d y (rfl | rfl) hy
    · exact hM.monotone (Nat.le_of_lt_succ (hM.lt_iff_lt.1 (hy.trans_lt hhi)))
    · linarith [hnn d, hnn c]
  have above : mode ≠ .rne → toward mode n = false →
      X ≤ M c ∧ ∀ d y, (y = M d ∨ y = - M d) → X ≤ y → M c ≤ y := by
    intro hdir ht
    obtain ⟨hhi, hlo⟩ := h.bounds_of_away hM hdir ht
    refine ⟨hhi, ?_⟩
    rintro d y (rfl | rfl) hy
    · refine hM.monotone ?_
      rcases hlo with rfl | hlo
      · exact Nat.zero_le d
      · have := hM.lt_iff_lt.1 (hlo.trans_le hy)
        omega
    · linarith [hnn d]
  cases mode with
  | rne =>
    intro b hb
    obtain ⟨d, y, -, hy, hyd⟩ := hfin hb
    simp only [hval, hy, withSign_sub_withSign, ne_eq, withSign_inj, hf.signed_mod_two]
    rcases hyd with rfl | rfl
    · obtain ⟨hle, htie⟩ := h.nearest hM d
      exact ⟨hle, fun heq hne => htie heq fun hdc => hne (hdc ▸ rfl)⟩
    · obtain ⟨hle, htie⟩ := h.nearest hM 0
      have hXabs : |M 0 - X| = X := by rw [hzero, zero_sub, abs_neg, abs_of_pos hX]
      have hyabs : |- M d - X| = M d + X := by
        rw [← neg_add', abs_neg, abs_of_pos (add_pos_of_nonneg_of_pos (hnn d) hX)]
      rw [hXabs] at hle htie
      rw [hyabs]
      refine ⟨by linarith [hnn d], fun heq hne => ?_⟩
      have hd : M d = 0 := by linarith [hnn d]
      refine htie (by linarith) fun h0 => hne ?_
      rw [← h0, hzero, hd, neg_zero]
  | rtz =>
    obtain ⟨hlo, hmax⟩ := below rfl
    refine ⟨by simpa only [hval, abs_withSign, abs_of_nonneg (hnn c), abs_of_pos hX] using hlo, fun b hb => ?_⟩
    obtain ⟨d, y, -, hy, hyd⟩ := hfin hb
    simp only [hval, hy, withSign_sub_withSign, abs_withSign]
    intro hle
    rw [abs_of_pos hX] at hle
    have := hmax d y hyd ((le_abs_self y).trans hle)
    rw [abs_sub_comm, abs_of_nonneg (sub_nonneg.2 hlo), abs_sub_comm y, abs_of_nonneg (by linarith)]
    linarith
  | rup =>
    cases n with
    | false =>
      obtain ⟨hhi, hmin⟩ := above (by decide) rfl
      refine ⟨by simpa only [hval, withSign_false] using hhi, fun b hb => ?_⟩
      obtain ⟨d, y, -, hy, hyd⟩ := hfin hb
      simpa only [hval, hy, withSign_false] using hmin d y hyd
    | true =>
      obtain ⟨hlo, hmax⟩ := below rfl
      refine ⟨by simpa only [hval, withSign_true, neg_le_neg_iff] using hlo, fun b hb => ?_⟩
      obtain ⟨d, y, -, hy, hyd⟩ := hfin hb
      simpa only [hval, hy, withSign_true, neg_le_neg_iff] using hmax d y hyd
  | rdn =>
    cases n with
    | false =>
      obtain ⟨hlo, hmax⟩ := below rfl
      refine ⟨by simpa only [hval, withSign_false] using hlo, fun b hb => ?_⟩
      obtain ⟨d, y, -, hy, hyd⟩ := hfin hb
      simpa only [hval, hy, withSign_false] using hmax d y hyd
    | true =>
      obtain ⟨hhi, hmin⟩ := above (by decide) rfl
      refine ⟨by simpa only [hval, withSign_true, neg_le_neg_iff] using hhi, fun b hb => ?_⟩
      obtain ⟨d, y, -, hy, hyd⟩ := hfin hb
      simpa only [hval, hy, withSign_true, neg_le_neg_iff] using hmin d y hyd

/-- R107: the value, rounded with the exponent range unbounded, passes the largest finite number. -/
theorem overflows_iff_passes (mode : RMode) (n : Bool) (X : ℝ) (hX : 0 < X) :
    overflows f mode n (withSign n X) ↔
      passes mode n (codeIn f.p f.q0 (f.inf - 1)) (codeIn f.p f.q0 f.inf) X := by
  obtain ⟨-, hpos⟩ := hf.inf_even_pos
  have htop : ((valQ (f.decode (f.inf - 1)) : ℚ) : ℝ) = codeIn f.p f.q0 (f.inf - 1) :=
    hf.val_signed (Nat.sub_lt hpos Nat.one_pos) false
  have hpast : codeIn f.p f.q0 f.inf = 2 ^ (f.emax + 1) := by
    rw [codeIn, hf.codeMag_inf]
    push_cast
    rfl
  simp only [overflows, htop, ← hpast, abs_withSign, abs_of_pos hX]
  cases mode <;> rfl

/-- What passes the largest finite number is not tiny. -/
theorem low_le_top : (2 : ℝ) ^ (1 - (f.emax : ℤ)) ≤ codeIn f.p f.q0 (f.inf - 1) := by
  have hone := hf.one_le
  have hlow : codeIn f.p f.q0 (2 ^ (f.p - 1)) = 2 ^ (1 - (f.emax : ℤ)) := by
    have h := codeIn_binade f.q0 hone (Nat.pow_le_pow_right two_pos (Nat.sub_le f.p 1)) (.inl rfl : 0 = 0 ∨ _)
    rw [Nat.zero_mul, Nat.zero_add, natCast_pow_mul_zpow] at h
    rw [h]
    congr 1
    rw [FFmt.q0]
    omega
  rw [← hlow]
  refine (codeIn_strictMono f.q0 hone).monotone ?_
  have hfrac := Nat.two_pow_pos (f.p - 1)
  have hinf : f.inf = 2 * f.emax * 2 ^ (f.p - 1) + 2 ^ (f.p - 1) := by rw [FFmt.inf, hf.eTop_eq, Nat.succ_mul]
  have := Nat.mul_le_mul_right (2 ^ (f.p - 1)) (show 1 ≤ 2 * f.emax by have := hf.emax_pos; omega)
  omega

/-- R104, R107: the rounding of a finite value is right for every number that the value stands for. -/
theorem round_rightly {X : ℝ} {m : Nat} {e : Int} (mode : RMode) (n : Bool) (hm : m ≠ 0)
    (h : StandsFor X m e (topExp m e - f.p)) :
    rightly f mode n (withSign n X) (f.round mode (.fin n m e)) := by
  have hX := h.pos hm
  have hM := codeIn_strictMono f.q0 hf.one_le
  obtain ⟨heven, hpos⟩ := hf.inf_even_pos
  obtain ⟨hround, hix⟩ := roundMag_spec f.q0 mode n h hm hf.one_le
  have htiny := roundMag_tiny f.q0 mode n h hm hf.one_le
  have hlow : f.q0 + ((f.p : ℤ) - 1) = 1 - (f.emax : ℤ) := by rw [FFmt.q0]; ring
  rw [hlow] at htiny
  have hover := hround.lt_iff_passes hM (n := f.inf - 1) (by omega)
  rw [Nat.sub_add_cancel hpos] at hover
  rw [round_fin f mode n hm]
  generalize roundMag f.p f.q0 mode n m e = res at *
  obtain ⟨c, ix, small⟩ := res
  dsimp only at hround hix htiny hover ⊢
  split
  next hge =>
    have hpass := hover.1 (by omega)
    have htop := lt_of_passes (hM (Nat.sub_lt hpos Nat.one_pos)) hpass
    have hbig : ¬ tiny f.p (2 ^ (1 - (f.emax : ℤ))) mode n (withSign n X) :=
      not_tiny_of_le (zpow_pos two_pos _) (by rw [abs_withSign, abs_of_pos hX]; exact hf.low_le_top.trans htop.le)
    have hcode : (if toward mode n = true then f.inf - 1 else f.inf) < f.sign := by
      have := hf.inf_lt_sign
      split <;> omega
    obtain ⟨hOF, hUF, hNX, hother⟩ := overflow_flags
    refine ⟨hf.signed_lt hcode n, isNeg_signed hcode n, iff_of_true hOF ((hf.overflows_iff_passes mode n X hX).2 hpass),
      iff_of_false (not_not.2 hUF) (fun h => hbig h.1), hother, fun h => absurd h hOF, fun _ => ⟨hNX, ?_, rfl⟩⟩
    intro b hb
    obtain ⟨d, y, hd, hy, hyd⟩ := hf.exists_val_eq hb n
    rw [hy, abs_withSign, abs_withSign, abs_of_pos hX]
    have habs : |y| = codeIn f.p f.q0 d := by
      rcases hyd with rfl | rfl
      · exact abs_of_nonneg (hf.codeIn_nonneg d)
      · rw [abs_neg, abs_of_nonneg (hf.codeIn_nonneg d)]
    rw [habs]
    exact (hM.monotone (by omega)).trans_lt htop
  next hlt =>
    have hc : c < f.inf := not_le.1 hlt
    obtain ⟨hOF, hNX, hUF, hother⟩ := ufnx_flags ix small
    have hsign := hf.lt_sign_of_lt_inf hc
    have hval := hf.val_signed hc n
    have hfin := (hf.finite_iff.2 ⟨n, c, hc, rfl⟩).2
    have hnot : ¬ overflows f mode n (withSign n X) := by
      rw [hf.overflows_iff_passes mode n X hX, ← hover]
      omega
    refine ⟨hf.signed_lt hsign n, isNeg_signed hsign n, iff_of_false (not_not.2 hOF) hnot, ?_, hother,
      fun _ => ⟨hfin, hf.roundsTo_of_roundsIn hX hc hround, ?_⟩, fun h => absurd hOF h⟩
    · rw [hUF, htiny, tiny_withSign, Ne, hNX, Bool.not_eq_false]
    · rw [hNX, hval, withSign_inj, ← Bool.not_eq_true, hix, not_not]

end IsWide

/-- What is said of a rational in the reals holds of it. -/
theorem overflows_cast {f : FFmt} {m : RMode} {n : Bool} {x : ℚ} : overflows f m n (x : ℝ) ↔ overflows f m n x := by
  cases m <;> simp only [overflows, Rat.cast_id] <;> norm_cast

theorem tiny_cast {p : Nat} {low x : ℚ} {m : RMode} {n : Bool} : tiny p (low : ℝ) m n (x : ℝ) ↔ tiny p low m n x := by
  cases m <;> simp only [tiny] <;> norm_cast

theorem roundsTo_cast {f : FFmt} {m : RMode} {x : ℚ} {d : Nat} : roundsTo f m (x : ℝ) d ↔ roundsTo f m x d := by
  cases m <;> simp only [roundsTo, Rat.cast_id] <;> norm_cast

theorem rightly_cast {f : FFmt} {m : RMode} {n : Bool} {x : ℚ} {r : Nat × Word} :
    rightly f m n (x : ℝ) r ↔ rightly f m n x r := by
  have hlow : (2 : ℝ) ^ (1 - (f.emax : ℤ)) = ((2 ^ (1 - (f.emax : ℤ)) : ℚ) : ℝ) := by push_cast; rfl
  have heq : ((valQ (f.decode r.1) : ℚ) : ℝ) = x ↔ valQ (f.decode r.1) = x := Rat.cast_inj
  have hlt : ∀ b, |((valQ (f.decode b) : ℚ) : ℝ)| < |(x : ℝ)| ↔ |valQ (f.decode b)| < |x| := fun b => by norm_cast
  simp only [rightly, overflows_cast, roundsTo_cast, hlow, tiny_cast, heq, hlt, Rat.cast_id]

/-- Settles O58: every value stands for itself. -/
theorem fpRounding : Obligations.FpRounding := by
  intro f hf m n k e hk
  have h := (isWide_of_mem hf).round_rightly m n hk (StandsFor.refl k e (topExp k e - f.p))
  rw [← rightly_cast, valQ_fin, cast_withSign]
  push_cast
  exact h

end Sys2Proof.Proofs
end

section
/-! The binary8 formats (06 R108 to R113): their bytes, the numbers of their codes, and the conversion into one. -/

namespace Sys2Proof.Proofs

open Sys2Proof Sys2Proof.Machine Sys2Proof.Claims

/-- R108: the bytes that name a format. -/
theorem b8Of_eq_some_iff {n : Nat} {f : B8} : b8Of n = some f ↔ 1 ≤ f.p ∧ f.p ≤ 7 ∧
    n = 0x80 + (if f.s then 0x10 else 0) + (if f.i then 8 else 0) + f.p := by
  obtain ⟨s, i, p⟩ := f
  have hbit : ∀ j, n.testBit j = decide (n / 2 ^ j % 2 = 1) := fun j => Nat.testBit_eq_decide_div_mod_eq
  simp only [b8Of, hbit, Option.ite_none_right_eq_some, Option.some.injEq, B8.mk.injEq, Bool.and_eq_true, decide_eq_true_eq,
    bne_iff_ne]
  cases s <;> cases i <;> simp only [decide_eq_true_eq, decide_eq_false_iff_not, if_true, if_false, Bool.false_eq_true] <;>
    omega

theorem one_le_of_b8Of {n : Nat} {f : B8} (h : b8Of n = some f) : 1 ≤ f.p := (b8Of_eq_some_iff.1 h).1

theorem mag8_eq_codeMag (f : B8) (c : Nat) : mag8 f c = codeMag f.p f.q0 c := by
  have hexp : ∀ e : ℤ, e - 2 ^ ((if f.s then 8 else 9) - f.p - 1) - ((f.p : ℤ) - 1) = f.q0 + e - 1 := fun e => by
    simp only [B8.q0]
    ring
  simp only [mag8, codeMag, hexp, add_sub_cancel_right]

theorem nan8_eq (f : B8) : nan8 f = f.nan := rfl
theorem top8_eq (f : B8) : top8 f = f.inf := rfl
theorem max8_eq (f : B8) : max8 f = f.mf := rfl

theorem code8_eq_signed (f : B8) (neg : Bool) (c : Nat) : code8 f neg c = f.signed neg c := by
  cases neg <;> cases hs : f.s <;> simp [code8, B8.signed, hs]

/-- A code without its sign (R109). -/
def magOf (f : B8) (c : Nat) : Nat := if f.s then c % 128 else c

theorem decode8_eq (f : B8) (c : Nat) : f.decode c =
    if c = nan8 f then .nan false
    else if f.i = true ∧ magOf f c = top8 f then .inf (f.s && decide (128 ≤ c))
    else if magOf f c / 2 ^ (f.p - 1) = 0 then
      .fin ((f.s && decide (128 ≤ c)) && magOf f c % 2 ^ (f.p - 1) != 0) (magOf f c % 2 ^ (f.p - 1)) f.q0
    else .fin (f.s && decide (128 ≤ c)) (2 ^ (f.p - 1) + magOf f c % 2 ^ (f.p - 1))
      (f.q0 + ((magOf f c / 2 ^ (f.p - 1) : ℕ) : ℤ) - 1) := by
  simp only [B8.decode, nan8_eq, top8_eq, magOf, beq_iff_eq, Bool.and_eq_true]
  rfl

/-- A code that stands for a finite number, by its sign and the rest; zero has no sign. -/
theorem decode8_of_finite {f : B8} {c : Nat} (hnan : c ≠ nan8 f) (hinf : ¬ (f.i = true ∧ magOf f c = top8 f)) :
    isFin (f.decode c) = true ∧ valQ (f.decode c) = withSign (f.s && decide (128 ≤ c)) (mag8 f (magOf f c)) := by
  rw [decode8_eq, if_neg hnan, if_neg hinf, mag8_eq_codeMag, codeMag]
  split
  · refine ⟨rfl, ?_⟩
    rw [valQ_fin]
    rcases Nat.eq_zero_or_pos (magOf f c % 2 ^ (f.p - 1)) with h0 | hpos
    · rw [h0]
      cases f.s && decide (128 ≤ c) <;> simp
    · rw [bne_iff_ne.2 hpos.ne', Bool.and_true]
  · exact ⟨rfl, by rw [valQ_fin]⟩

/-- R109: the values of the codes. -/
theorem decode8_spec (f : B8) {c : Nat} (hc : c < 256) :
    (c = nan8 f → f.decode c = .nan false) ∧ (f.i = true → c = top8 f → f.decode c = .inf false) ∧
    (f.i = true → f.s = true → c = 0xFF → f.decode c = .inf true) ∧
    (c ≠ nan8 f → (f.i = true → c ≠ top8 f ∧ (f.s = true → c ≠ 0xFF)) → isFin (f.decode c) = true ∧
      valQ (f.decode c) = if f.s ∧ 128 ≤ c then - mag8 f (c - 128) else mag8 f c) := by
  refine ⟨fun h => by rw [decode8_eq, if_pos h], fun hi h => ?_, fun hi hs h => ?_, fun hnan hinf => ?_⟩
  · have hne : c ≠ nan8 f := by rw [h, top8, nan8]; split <;> decide
    have hmag : magOf f c = top8 f := by rw [h, magOf, top8]; split <;> rfl
    have hneg : (f.s && decide (128 ≤ c)) = false := by
      rw [h, top8]
      cases f.s <;> rfl
    rw [decode8_eq, if_neg hne, if_pos ⟨hi, hmag⟩, hneg]
  · subst h
    rw [decode8_eq, if_neg (by simp [nan8, hs]), if_pos ⟨hi, by simp [magOf, top8, hs]⟩]
    simp [hs]
  · have hfin : ¬ (f.i = true ∧ magOf f c = top8 f) := by
      rintro ⟨hi, hmag⟩
      obtain ⟨htop, hFF⟩ := hinf hi
      cases hs : f.s with
      | true =>
        simp only [magOf, top8, hs, if_true] at hmag htop
        have := hFF hs
        omega
      | false =>
        simp only [magOf, top8, hs, Bool.false_eq_true, if_false] at hmag htop
        exact htop hmag
    obtain ⟨h1, h2⟩ := decode8_of_finite hnan hfin
    refine ⟨h1, h2.trans ?_⟩
    cases hs : f.s with
    | false => simp [magOf, hs]
    | true =>
      rcases Nat.lt_or_ge c 128 with h | h
      · simp [magOf, hs, h.not_ge, Nat.mod_eq_of_lt h]
      · have hm : c % 128 = c - 128 := by omega
        simp [magOf, hs, h, hm]

/-- R112: the code of a rounding is what `rounds8` asks. -/
theorem rounds8_of_roundsIn {f : B8} (hp : 1 ≤ f.p) {mode : RMode} {neg : Bool} {x : ℚ} {c : Nat}
    (h : RoundsIn (codeIn f.p f.q0) (fun c => c % 2 = 1) mode neg ((|x| : ℚ) : ℝ) c) : rounds8 f mode neg x c := by
  have hM := codeIn_strictMono f.q0 hp
  have hmag : ∀ b, codeIn f.p f.q0 b = (mag8 f b : ℝ) := fun b => by rw [mag8_eq_codeMag]
  have hdir : mode ≠ .rne → if toward mode neg then mag8 f c ≤ |x| ∧ |x| < mag8 f (c + 1)
      else |x| ≤ mag8 f c ∧ (c = 0 ∨ mag8 f (c - 1) < |x|) := by
    intro hdir
    split
    next ht => simpa only [hmag, Rat.cast_le, Rat.cast_lt] using h.bounds_of_toward ht
    next ht =>
      simpa only [hmag, Rat.cast_le, Rat.cast_lt] using h.bounds_of_away hM hdir (Bool.not_eq_true _ ▸ ht)
  cases mode with
  | rne =>
    intro b
    have hb := h.nearest hM b
    simp only [hmag] at hb
    exact_mod_cast hb
  | rtz | rup | rdn => exact hdir (by decide)

theorem ufnx_eq (ix small : Bool) : ufnx ix small = if ix = false then 0 else if small then fNX ||| fUF else fNX := by
  revert ix small
  decide

/-- R112, R113: the conversion of a finite nonzero value. -/
theorem convert_fin_spec {f : B8} (hp : 1 ≤ f.p) (m : RMode) (o : OMode) (neg : Bool) {k : Nat} (hk : k ≠ 0) (e : Int) :
    let x := valQ (.fin neg k e)
    ∃ (c : Nat) (t : Bool), rounds8 f m neg x c ∧ (t = true ↔ tiny f.p (mag8 f (2 ^ (f.p - 1))) m neg x) ∧
      f.convert m o (.fin neg k e) =
        if neg = true ∧ f.s = false ∧ c ≠ 0 then below8 f o
        else if max8 f < c then
          (if o = .sat then (code8 f neg (max8 f), fCL ||| fNX)
           else if o = .nan then (nan8 f, fOF ||| fNX)
           else if toward m neg then (code8 f neg (max8 f), fOF ||| fNX)
           else (if f.i then code8 f neg (top8 f) else nan8 f, fOF ||| fNX))
        else (code8 f neg c, if mag8 f c = |x| then 0 else if t then fNX ||| fUF else fNX) := by
  have h : StandsFor ((k : ℝ) * 2 ^ e) k e (topExp k e - f.p) := StandsFor.refl k e _
  have habs : ((|valQ (.fin neg k e)| : ℚ) : ℝ) = (k : ℝ) * 2 ^ e := by
    rw [valQ_fin, Rat.cast_abs, cast_withSign, abs_withSign]
    push_cast
    exact abs_of_pos (h.pos hk)
  obtain ⟨hround, hix⟩ := roundMag_spec f.q0 m neg h hk hp
  have htiny := roundMag_tiny f.q0 m neg h hk hp
  have hlow : mag8 f (2 ^ (f.p - 1)) = 2 ^ (f.q0 + ((f.p : ℤ) - 1)) := by
    have hb := codeMag_binade f.q0 hp (Nat.pow_le_pow_right two_pos (Nat.sub_le f.p 1)) (.inl rfl : 0 = 0 ∨ _)
    rw [Nat.zero_mul, Nat.zero_add, natCast_pow_mul_zpow] at hb
    rw [mag8_eq_codeMag, hb]
    congr 1
    omega
  rw [← habs] at hround hix
  refine ⟨(roundMag f.p f.q0 m neg k e).1, (roundMag f.p f.q0 m neg k e).2.2, rounds8_of_roundsIn hp hround, ?_, ?_⟩
  · rw [htiny, hlow, ← tiny_cast, valQ_fin, cast_withSign, tiny_withSign]
    push_cast
    rfl
  · have hflag : mag8 f (roundMag f.p f.q0 m neg k e).1 = |valQ (.fin neg k e)| ↔
        (roundMag f.p f.q0 m neg k e).2.1 = false := by
      rw [mag8_eq_codeMag, ← Bool.not_eq_true, hix, not_not, codeIn, Rat.cast_inj]
    simp only [hflag, ← ufnx_eq, code8_eq_signed, nan8_eq, top8_eq, max8_eq, below8]
    unfold B8.convert
    cases o <;> simp [hk, and_assoc]

theorem convert_zero (f : B8) (m : RMode) (o : OMode) (neg : Bool) (e : Int) : f.convert m o (.fin neg 0 e) = (0, 0) := rfl

theorem convert_nan (f : B8) (m : RMode) (o : OMode) (q : Bool) :
    f.convert m o (.nan q) = (nan8 f, if q then fIV else 0) := rfl

theorem convert_inf (f : B8) (m : RMode) (o : OMode) (neg : Bool) : f.convert m o (.inf neg) =
    if neg = true ∧ f.s = false then below8 f o
    else if o = .sat then (code8 f neg (max8 f), fCL ||| fNX)
    else if f.i then (code8 f neg (top8 f), 0) else (nan8 f, fIV) := by
  simp only [code8_eq_signed, nan8_eq, top8_eq, max8_eq, below8]
  unfold B8.convert
  cases o <;> simp

end Sys2Proof.Proofs
end

section
/-! `PK8`, `UNPK8` and `PKBS` (08 R175 to R177): what a packing instruction with a legal format byte in every lane does. -/

namespace Sys2Proof.Proofs

open Sys2Proof Sys2Proof.Machine Sys2Proof.Safety Sys2Proof.Claims Sys2Proof.Laws

theorem mem_lanesOf_iff {m : Mask} {L : Nat} : L ∈ lanesOf m ↔ L ∈ lanes ∧ m.getLsbD L = true := List.mem_filter

theorem putRow_congr {v : List Row} {n : Nat} {m : Mask} {f f' : Nat → Word} (h : ∀ L ∈ lanesOf m, f L = f' L) :
    putRow v n m f = putRow v n m f' := by
  unfold putRow
  congr 1
  funext old
  refine List.map_congr_left fun L hL => ?_
  split
  next hm => exact h L (mem_lanesOf_iff.2 ⟨hL, hm⟩)
  next => rfl

/-- A destination is written with the results of the lanes of the mask, an s register with that of lane 0 (R65). -/
theorem dst_congr (g : Group) {v : BitVec 6} {m : Mask} {f f' : Nat → Word} (h0 : isS v = true → f 0 = f' 0)
    (h : ∀ L ∈ lanesOf m, f L = f' L) : g.dst v m f = g.dst v m f' := by
  unfold Group.dst
  split
  next hs => rw [h0 hs]
  next => simp only [Group.vSet, putRow_congr h]

theorem orFlags_congr (g : Group) (r : Rnd) {m : Mask} {f f' : Nat → Word} (h : ∀ L ∈ lanesOf m, f L = f' L) :
    g.orFlags r m f = g.orFlags r m f' := by
  have hfold : (lanesOf m).foldl (fun acc L => acc ||| f L) 0 = (lanesOf m).foldl (fun acc L => acc ||| f' L) 0 :=
    List.foldl_ext _ _ _ fun acc L hL => by rw [h L hL]
  simp only [Group.orFlags, hfold]

theorem lo32_setWidth (w : Word) : lo32 (w.setWidth 64) = w := by
  ext j hj
  simp only [lo32, BitVec.getElem_extractLsb', BitVec.getLsbD_setWidth, Nat.zero_add, BitVec.getLsbD_eq_getElem hj,
    show j < 64 by omega, decide_true, Bool.true_and]

/-- What a packing instruction writes where the lanes of `Part`, and lane 0 for an s register, answer `w` and `fl`. -/
theorem fout_word (i : Iss) (x : RF) {f : Nat → Word × Word} {w fl : Nat → Word}
    (h0 : isS x.d = true → (f 0).1 = w 0) (h : ∀ L ∈ lanesOf (i.part x.g), f L = (w L, fl L)) :
    i.fout x false (fun L => ((f L).1.setWidth 64, (f L).2)) =
      (i.g.dst x.d (i.part x.g) w).orFlags (rndOf i.cur.hints) (i.part x.g) fl := by
  simp only [Iss.fout, Bool.false_eq_true, if_false, lo32_setWidth]
  rw [dst_congr i.g h0 fun L hL => by rw [h L hL]]
  exact orFlags_congr _ _ fun L hL => by rw [h L hL]

/-- A packing instruction whose format bytes are legal completes with its results. -/
theorem pack8_completes {ins : Instr} {sig : OpSig} {x : RF} {cv na ovf : Bool} {ok : Nat → Bool}
    {f : Iss → Nat → Word × Word} {w fl : Iss → Nat → Word}
    (hexec : ∀ s, exec ins s = pack8 sig x cv na ovf ok s f)
    (hlane : ∀ i L, ok ((i.g.src x.b L).toNat % 256) = true → f i L = (w i L, fl i L)) :
    Completes ins (issueP sig x cv na ovf) (formatsOk x ok)
      (onGroup fun i => (i.g.dst x.d (i.part x.g) (w i)).orFlags (rndOf i.cur.hints) (i.part x.g) (fl i)) := by
  rintro s i hready ⟨hok0, hok⟩ hpop
  have hany : ¬ (lanesOf (i.part x.g)).any (fun L => !ok ((i.g.src x.b L).toNat % 256)) = true := by
    simpa only [List.any_eq_true, Bool.not_eq_true', not_exists, not_and, Bool.not_eq_false] using hok
  have hout := fout_word i x (f := f i) (w := w i) (fl := fl i) (fun hs => by rw [hlane i 0 (hok0 hs)])
    fun L hL => hlane i L (hok L hL)
  rw [hexec, pack8]
  refine issue_done hready ?_ hpop
  rw [if_neg hany, hout]
  rfl

theorem formatAt_eq {i : Iss} {x : RF} {L : Nat} {f : B8} (h : b8Of ((i.g.src x.b L).toNat % 256) = some f) :
    formatAt i x L = f := by
  rw [formatAt, h, Option.getD_some]

/-- Flipping a sign bit, as `elemAt` does it (R77). -/
theorem flip_eq_ite {f : FFmt} (hf : IsWide f) {b : Nat} (hb : b < 2 ^ f.w) :
    f.flip b = if 2 ^ (f.w - 1) ≤ b then b - 2 ^ (f.w - 1) else b + 2 ^ (f.w - 1) := by
  obtain ⟨n, c, hc, rfl⟩ := hf.exists_signed hb
  rw [FFmt.flip, isNeg_signed hc]
  change _ = if f.sign ≤ _ then _ - f.sign else _ + f.sign
  cases n with
  | false =>
    have hlow : ¬ f.sign ≤ f.signed false c := not_le.2 hc
    rw [if_neg Bool.false_ne_true, if_neg hlow]
  | true =>
    have hhigh : f.sign ≤ f.signed true c := Nat.le_add_left _ _
    rw [if_pos rfl, if_pos hhigh]

/-- An FP32 operand is the whole word, its sign flipped where `XRND` says so (R77, R102). -/
theorem valAt_f32 (i : Iss) (v : BitVec 6) (neg : Bool) (L : Nat) : valAt i .f32 v neg 0 L =
    fp32.decode (if neg then fp32.flip (i.g.src v L).toNat else (i.g.src v L).toNat) := by
  have hlt : (i.g.src v L).toNat < 2 ^ fp32.w := (i.g.src v L).isLt
  have hword : (i.g.src v L).toNat / 2 ^ (fp32.w * 0) % 2 ^ fp32.w = (i.g.src v L).toNat := by
    rw [Nat.mul_zero, pow_zero, Nat.div_one, Nat.mod_eq_of_lt hlt]
  rw [flip_eq_ite (isWide_of_mem (by simp [formats])) hlt]
  simp only [valAt, elemAt, FTy.fmt, hword]
  rfl

theorem ite_eq_byteInt (n c : Nat) :
    (if (n == 3 && decide (128 ≤ c)) = true then (c : Int) - 256 else c) = byteInt n c := by
  simp only [byteInt, Bool.and_eq_true, beq_iff_eq, decide_eq_true_eq]

/-- Settles O18: the three instructions by what a lane answers, the formats by the numbers of their codes, and the conversion
by what its rounding says. -/
theorem packResults : Obligations.PackResults := by
  refine ⟨fun x => ?pk8, fun x => ?unpk8, fun x => ?pkbs, fun _ _ _ => b8Of_eq_some_iff, fun n f hf => ?formats⟩
  case pk8 =>
    refine pack8_completes (fun _ => rfl) fun i L hok => ?_
    obtain ⟨f, hf⟩ := Option.isSome_iff_exists.1 hok
    simp only [hf, formatAt_eq hf]
    rfl
  case unpk8 =>
    have hexec : ∀ s, exec (.unpk8 x) s = execUnpk8 x s := fun _ => rfl
    unfold execUnpk8 at hexec
    refine pack8_completes hexec fun i L _ => ?_
    have hj : bitsN (i.g.src x.b L).toNat 9 8 = (i.g.src x.b L).toNat / 2 ^ 8 % 4 := rfl
    cases hf : b8Of ((i.g.src x.b L).toNat % 256) with
    | some f => simp only [hj, hf, formatAt_eq hf, Option.isSome_some, if_true, wd]
    | none => simp only [hj, hf, Option.isSome_none, Bool.false_eq_true, if_false, FVal.ofInt, ite_eq_byteInt, wd]
  case pkbs =>
    refine pack8_completes (fun _ => rfl) fun i L hok => ?_
    obtain ⟨f, hf⟩ := Option.isSome_iff_exists.1 hok
    simp only [hf, formatAt_eq hf, valAt_f32, beq_iff_eq]
    rfl
  case formats =>
    have hp := one_le_of_b8Of hf
    exact ⟨fun c hc => decode8_spec f hc, fun m o => ⟨fun neg k e hk => convert_fin_spec hp m o neg hk e,
      convert_zero f m o, convert_inf f m o, convert_nan f m o⟩⟩

end Sys2Proof.Proofs
end

section
/-! Exact arithmetic on values (06 R105, R106): sums, products, negations, scalings and comparisons of finite values, the
signs of zeros, and NaNs. -/

namespace Sys2Proof.Proofs

open Sys2Proof Sys2Proof.Machine Sys2Proof.Claims

theorem exists_fin_of_isFin {a : FVal} (h : isFin a = true) : ∃ n m e, a = .fin n m e := by
  cases a with
  | fin n m e => exact ⟨n, m, e, rfl⟩
  | inf => exact absurd h Bool.false_ne_true
  | nan => exact absurd h Bool.false_ne_true

theorem valQ_fin_eq_zero_iff {n : Bool} {m : Nat} {e : Int} : valQ (.fin n m e) = 0 ↔ m = 0 := by
  rw [valQ_fin]
  cases n <;> simp [(zpow_pos (two_pos (α := ℚ)) e).ne']

theorem scaled_mul_zpow (n : Bool) (m : Nat) {e q : Int} (h : q ≤ e) :
    (scaled n m e q : ℚ) * 2 ^ q = valQ (.fin n m e) := by
  obtain ⟨d, hd⟩ := Int.eq_ofNat_of_zero_le (sub_nonneg.2 h)
  obtain rfl : e = q + d := by omega
  have hmag := natCast_mul_zpow_add (K := ℚ) m d q
  rw [valQ_fin, hmag]
  cases n <;> simp [scaled]

theorem valQ_ofInt_scaled (t q : Int) : valQ (.fin (decide (t < 0)) t.natAbs q) = t * 2 ^ q := by
  rw [valQ_fin, Nat.cast_natAbs]
  rcases lt_or_ge t 0 with h | h
  · simp [h, abs_of_neg h]
  · simp [h.not_gt, abs_of_nonneg h]

/-- A sum of scaled values is the scaled sum. -/
theorem scaled_add_eq (x y : Bool) (k l : Nat) (e g : Int) :
    ((scaled x k e (min e g) + scaled y l g (min e g) : ℤ) : ℚ) * 2 ^ min e g = valQ (.fin x k e) + valQ (.fin y l g) := by
  rw [Int.cast_add, add_mul, scaled_mul_zpow x k (min_le_left e g), scaled_mul_zpow y l (min_le_right e g)]

/-- The sum of finite values: exact, and a zero by R106. -/
theorem add_fin_spec (m : RMode) {a b : FVal} (ha : isFin a = true) (hb : isFin b = true) :
    isFin (a.add m b).1 = true ∧ valQ (a.add m b).1 = valQ a + valQ b ∧ (a.add m b).2 = 0 ∧
      (valQ a + valQ b = 0 → signOf (a.add m b).1 =
        if valQ a = 0 ∧ valQ b = 0 ∧ signOf a = signOf b then signOf a else decide (m = .rdn)) := by
  obtain ⟨x, k, e, rfl⟩ := exists_fin_of_isFin ha
  obtain ⟨y, l, g, rfl⟩ := exists_fin_of_isFin hb
  have hsum := scaled_add_eq x y k l e g
  simp only [FVal.add, valQ_fin_eq_zero_iff]
  generalize scaled x k e (min e g) + scaled y l g (min e g) = t at *
  have ht : valQ (.fin x k e) + valQ (.fin y l g) = 0 ↔ t = 0 := by
    rw [← hsum, mul_eq_zero, Int.cast_eq_zero, or_iff_left (zpow_pos two_pos _).ne']
  split
  next h0 =>
    have hzero := ht.2 (beq_iff_eq.1 h0)
    refine ⟨rfl, by rw [hzero, valQ_fin_eq_zero_iff], rfl, fun _ => ?_⟩
    simp only [signOf, beq_eq_decide]
    exact if_congr (by simp only [Bool.and_eq_true, decide_eq_true_eq, and_assoc]) rfl rfl
  next h0 =>
    refine ⟨rfl, by rw [← hsum, valQ_ofInt_scaled], rfl, fun h => absurd (beq_iff_eq.2 (ht.1 h)) h0⟩

theorem mul_fin_spec {a b : FVal} (ha : isFin a = true) (hb : isFin b = true) :
    isFin (a.mul b).1 = true ∧ valQ (a.mul b).1 = valQ a * valQ b ∧ (a.mul b).2 = 0 := by
  obtain ⟨x, k, e, rfl⟩ := exists_fin_of_isFin ha
  obtain ⟨y, l, g, rfl⟩ := exists_fin_of_isFin hb
  refine ⟨rfl, ?_, rfl⟩
  simp only [FVal.mul, valQ_fin, zpow_add₀ (two_ne_zero (α := ℚ))]
  push_cast
  cases x <;> cases y <;> simp <;> ring

theorem valQ_neg (a : FVal) : valQ a.neg = - valQ a := by
  cases a with
  | fin n m e =>
    rw [FVal.neg, valQ_fin, valQ_fin]
    cases n <;> simp
  | inf n => simp [FVal.neg, valQ]
  | nan q => simp [FVal.neg, valQ]

theorem valQ_scale (a : FVal) (n : Int) : valQ (a.scale n) = valQ a * (2 : ℚ) ^ n := by
  cases a with
  | fin s m e => simp only [FVal.scale, valQ, zpow_add₀ (two_ne_zero (α := ℚ)), mul_assoc]
  | inf s => simp [FVal.scale, valQ]
  | nan q => simp [FVal.scale, valQ]

theorem lt_fin {a b : FVal} (ha : isFin a = true) (hb : isFin b = true) :
    FVal.lt false a b = decide (valQ a < valQ b) := by
  obtain ⟨x, k, e, rfl⟩ := exists_fin_of_isFin ha
  obtain ⟨y, l, g, rfl⟩ := exists_fin_of_isFin hb
  rw [← scaled_mul_zpow x k (min_le_left e g), ← scaled_mul_zpow y l (min_le_right e g)]
  simp [FVal.lt, mul_lt_mul_iff_of_pos_right (zpow_pos (two_pos (α := ℚ)) (min e g))]

/-- The sign of a finite product is the exclusive OR of the signs (R106). -/
theorem signOf_mul {a b : FVal} (h : isFin (a.mul b).1 = true) : signOf (a.mul b).1 = (signOf a ^^ signOf b) := by
  cases a with
  | nan q => cases b <;> exact absurd h Bool.false_ne_true
  | inf x =>
    cases b with
    | nan q => exact absurd h Bool.false_ne_true
    | inf y => exact absurd h Bool.false_ne_true
    | fin y l g =>
      simp only [FVal.mul] at h
      split at h <;> exact absurd h Bool.false_ne_true
  | fin x k e =>
    cases b with
    | nan q => exact absurd h Bool.false_ne_true
    | inf y =>
      simp only [FVal.mul] at h
      split at h <;> exact absurd h Bool.false_ne_true
    | fin y l g => rfl

/-- The sign of a finite quotient is the exclusive OR of the signs (R106). -/
theorem signOf_div {a b : FVal} (h : isFin (a.div b).1 = true) : signOf (a.div b).1 = (signOf a ^^ signOf b) := by
  cases a with
  | nan q => cases b <;> exact absurd h Bool.false_ne_true
  | inf x => cases b <;> exact absurd h Bool.false_ne_true
  | fin x k e =>
    cases b with
    | nan q => exact absurd h Bool.false_ne_true
    | inf y => rfl
    | fin y l g =>
      simp only [FVal.div] at h ⊢
      split at h
      next => split at h <;> exact absurd h Bool.false_ne_true
      next hl => rw [if_neg hl]; rfl

theorem exists_nan_of_isNan {a : FVal} (h : a.isNan = true) : ∃ q, a = .nan q := by
  cases a with
  | nan q => exact ⟨q, rfl⟩
  | inf => exact absurd h Bool.false_ne_true
  | fin => exact absurd h Bool.false_ne_true

/-- R105: a NaN operand gives a NaN, and IV where one of the two signals, whatever the operation. -/
theorem nan_operand (m : RMode) {a b : FVal} (h : a.isNan = true ∨ b.isNan = true) :
    a.add m b = (.nan false, a.sigIV ||| b.sigIV) ∧ a.mul b = (.nan false, a.sigIV ||| b.sigIV) ∧
      a.div b = (.nan false, a.sigIV ||| b.sigIV) := by
  cases a with
  | nan q => cases b <;> exact ⟨rfl, rfl, rfl⟩
  | inf x =>
    obtain ⟨q, rfl⟩ := exists_nan_of_isNan (h.resolve_left Bool.false_ne_true)
    exact ⟨rfl, rfl, rfl⟩
  | fin x k e =>
    obtain ⟨q, rfl⟩ := exists_nan_of_isNan (h.resolve_left Bool.false_ne_true)
    exact ⟨rfl, rfl, rfl⟩

theorem sigIV_eq (a : FVal) : a.sigIV = if a = .nan true then fIV else 0 := by
  cases a with
  | nan q => cases q <;> rfl
  | inf n => rfl
  | fin n m e => rfl

theorem sigIV_or_eq_fIV_iff (a b : FVal) : a.sigIV ||| b.sigIV = fIV ↔ (a = .nan true ∨ b = .nan true) := by
  rw [sigIV_eq, sigIV_eq]
  by_cases ha : a = .nan true <;> by_cases hb : b = .nan true <;> simp [ha, hb, fIV]

end Sys2Proof.Proofs
end

section
/-! Patterns and their values (06 R104 to R106, 04 R77): a pattern rounds to itself, a rounding keeps what is a NaN, and a
flip changes the sign bit alone. -/

namespace Sys2Proof.Proofs

open Sys2Proof Sys2Proof.Machine Sys2Proof.Claims

namespace IsWide
variable {f : FFmt} (hf : IsWide f)
include hf

/-- A pattern that is no NaN rounds to itself and raises nothing. -/
theorem round_decode (m : RMode) {b : Nat} (hb : b < 2 ^ f.w) (hnan : (f.decode b).isNan = false) :
    f.round m (f.decode b) = (b, 0) := by
  obtain ⟨n, c, hc, rfl⟩ := hf.exists_signed hb
  rcases lt_trichotomy c f.inf with hlt | rfl | hgt
  · obtain ⟨k, e, hdec, hval⟩ := hf.decode_of_lt_inf hlt n
    have hM := codeMag_strictMono f.q0 hf.one_le
    have hvalR : (k : ℝ) * 2 ^ e = codeIn f.p f.q0 c := by rw [codeIn, ← hval]; push_cast; rfl
    rw [hdec]
    rcases Nat.eq_zero_or_pos k with rfl | hk
    · have h0 : c = 0 := hM.injective (by rw [← hval, codeMag_zero, Nat.cast_zero, zero_mul])
      rw [h0]
      rfl
    · obtain ⟨hround, hix⟩ := roundMag_spec f.q0 m n (StandsFor.refl k e _) hk.ne' hf.one_le
      rw [hvalR] at hround hix
      have hcode := hround.eq_of_eq (codeIn_strictMono f.q0 hf.one_le) (n := c) rfl
      have hexact : (roundMag f.p f.q0 m n k e).2.1 = false := by
        rw [← Bool.not_eq_true, hix, hcode, ne_eq, not_not]
      rw [round_fin f m n hk.ne', hcode, if_neg (not_le.2 hlt), hexact]
      rfl
  · rw [hf.decode_inf]
    rfl
  · obtain ⟨q, hq⟩ := hf.decode_of_inf_lt hgt hc n
    rw [hq] at hnan
    exact absurd hnan Bool.noConfusion

/-- The result of a rounding is a NaN exactly where the value is. -/
theorem isNan_decode_round (m : RMode) (v : FVal) : (f.decode (f.round m v).1).isNan = v.isNan := by
  have hfin : ∀ {c : Nat} (n : Bool), c < f.inf → (f.decode (f.signed n c)).isNan = false := by
    intro c n hc
    obtain ⟨k, e, hdec, -⟩ := hf.decode_of_lt_inf hc n
    rw [hdec]
    rfl
  obtain ⟨-, hpos⟩ := hf.inf_even_pos
  cases v with
  | nan q =>
    change (f.decode f.nan).isNan = true
    rw [hf.decode_nan]
    rfl
  | inf n =>
    change (f.decode (f.signed n f.inf)).isNan = false
    rw [hf.decode_inf]
    rfl
  | fin n k e =>
    change _ = false
    rcases eq_or_ne k 0 with rfl | hk
    · exact hfin n hpos
    · rw [round_fin f m n hk]
      split
      next =>
        cases toward m n with
        | true => exact hfin n (Nat.sub_lt hpos Nat.one_pos)
        | false =>
          change (f.decode (f.signed n f.inf)).isNan = false
          rw [hf.decode_inf]
          rfl
      next hlt => exact hfin n (not_le.1 hlt)

/-- R77: the negation of `XRND` changes the sign bit alone. -/
theorem flip_eq_xor {b : Nat} (hb : b < 2 ^ f.w) : f.flip b = b ^^^ 2 ^ (f.w - 1) := by
  obtain ⟨n, c, hc, rfl⟩ := hf.exists_signed hb
  have hset : c + f.sign = c ^^^ f.sign := by
    have hor : c + f.sign = f.sign ||| c := by
      have h := Nat.two_pow_add_eq_or_of_lt (i := f.w - 1) hc 1
      rwa [Nat.mul_one, Nat.add_comm] at h
    rw [hor]
    refine Nat.eq_of_testBit_eq fun j => ?_
    rw [Nat.testBit_or, Nat.testBit_xor, FFmt.sign, Nat.testBit_two_pow]
    rcases eq_or_ne (f.w - 1) j with rfl | hj
    · simp [Nat.testBit_lt_two_pow hc]
    · simp [hj]
  change _ = _ ^^^ f.sign
  rw [FFmt.flip, isNeg_signed hc]
  cases n with
  | false => exact hset
  | true =>
    change c + f.sign - f.sign = (c + f.sign) ^^^ f.sign
    rw [Nat.add_sub_cancel, hset, Nat.xor_assoc, Nat.xor_self, Nat.xor_zero]

/-- The significand of an operand has `p` bits. -/
theorem lt_of_decode {b : Nat} {n : Bool} {k : Nat} {e : Int} (h : f.decode b = .fin n k e) : k < 2 ^ f.p := by
  have hr := Nat.mod_lt b (Nat.two_pow_pos (f.p - 1))
  rw [two_pow_eq_double hf.one_le]
  simp only [FFmt.decode] at h
  split at h
  next => split at h <;> exact absurd h FVal.noConfusion
  next =>
    split at h
    next => injection h with _ hk; omega
    next => injection h with _ hk; omega

end IsWide
end Sys2Proof.Proofs
end

section
/-! Quotients and square roots (06 R104, 08 R165): their bits and a last bit for what follows stand for the exact number, so
that it is rounded once. -/

namespace Sys2Proof.Proofs

open Sys2Proof Sys2Proof.Machine Sys2Proof.Claims

/-- `a` units of `2 ^ (e + 1)` and a last bit that says whether more follows: with `p + 1` bits or more, they stand for the
number. -/
theorem standsFor_sticky {X : ℝ} {a p : Nat} {e : Int}
    {exact : Bool} (hexact : exact = true → (a : ℝ) * 2 ^ (e + 1) = X)
    (hmore : exact = false → (a : ℝ) * 2 ^ (e + 1) < X ∧ X < (a + 1) * 2 ^ (e + 1)) (ha : 2 ^ p ≤ a) :
    StandsFor X (2 * a + if exact then 0 else 1) e (topExp (2 * a + if exact then 0 else 1) e - p) := by
  cases exact with
  | true =>
    have hX : ((2 * a : ℕ) : ℝ) * 2 ^ e = X := by
      rw [← hexact rfl, zpow_add_one₀ two_ne_zero]
      push_cast
      ring
    rw [← hX]
    exact StandsFor.refl (2 * a) e _
  | false =>
    obtain ⟨hlo, hhi⟩ := hmore rfl
    refine standsFor_of_between hlo hhi ?_
    have hbits : p + 1 ≤ (2 * a + 1).log2 := (Nat.le_log2 (Nat.succ_ne_zero _)).2 (by rw [pow_succ]; omega)
    change e + 1 ≤ e + ((2 * a + 1).log2 : ℤ) - p
    omega

theorem signOf_fin (n : Bool) (m : Nat) (e : Int) : signOf (.fin n m e) = n := rfl

theorem withSign_div_withSign (x y : Bool) (a b : ℝ) :
    withSign x a / withSign y b = withSign (x ^^ y) (a / b) := by
  cases x <;> cases y <;> simp [neg_div, div_neg]

/-- The quotient of finite numbers, but for a divisor of zero. -/
theorem div_fin {x y : Bool} {m k : Nat} {e g : Int} (hk : k ≠ 0) : FVal.div (.fin x m e) (.fin y k g) =
    (.fin (x ^^ y) (2 * (m * 2 ^ 128 / k) + if (m * 2 ^ 128 % k == 0) = true then 0 else 1) (e - g - 129), 0) := by
  rw [FVal.div, if_neg (by simpa using hk)]

/-- R165: the quotient of numbers of up to 53 bits is rounded once from the exact one. -/
theorem round_div_rightly {f : FFmt} (hf : IsWide f) (hp : f.p ≤ 53) (mode : RMode) {x y : Bool} {m k : Nat} {e g : Int}
    (hm : m ≠ 0) (hk : k ≠ 0) (hk53 : k < 2 ^ 53) :
    rightly f mode (x ^^ y) (valQ (.fin x m e) / valQ (.fin y k g))
      (f.round mode (FVal.div (.fin x m e) (.fin y k g)).1) := by
  have hkpos : (0 : ℝ) < k := by exact_mod_cast Nat.pos_of_ne_zero hk
  have hu : (0 : ℝ) < 2 ^ (e - g - 128) := zpow_pos two_pos _
  have hX : (m : ℝ) * 2 ^ e / (k * 2 ^ g) = (m * 2 ^ 128 : ℕ) / k * 2 ^ (e - g - 128) := by
    rw [zpow_sub₀ two_ne_zero, zpow_sub₀ two_ne_zero]
    push_cast
    field_simp
    norm_num
  have hexp : e - g - 129 + 1 = e - g - 128 := by ring
  have hbits : 2 ^ f.p ≤ m * 2 ^ 128 / k := by
    rw [Nat.le_div_iff_mul_le (Nat.pos_of_ne_zero hk)]
    calc 2 ^ f.p * k ≤ 2 ^ 53 * 2 ^ 53 := Nat.mul_le_mul (Nat.pow_le_pow_right two_pos hp) hk53.le
      _ ≤ 1 * 2 ^ 128 := by norm_num
      _ ≤ m * 2 ^ 128 := Nat.mul_le_mul_right _ (Nat.pos_of_ne_zero hm)
  rw [div_fin hk, ← rightly_cast, Rat.cast_div, valQ_fin, valQ_fin, cast_withSign, cast_withSign, withSign_div_withSign]
  push_cast
  rw [hX]
  generalize m * 2 ^ 128 = t at hbits ⊢
  have hdm : (t : ℝ) = (t / k : ℕ) * k + (t % k : ℕ) := by exact_mod_cast (Nat.div_add_mod' t k).symm
  refine hf.round_rightly mode _ (by have := Nat.two_pow_pos f.p; omega) (standsFor_sticky (fun h => ?_) (fun h => ?_) hbits)
  · rw [beq_iff_eq] at h
    rw [hexp, hdm, h, Nat.cast_zero, add_zero, mul_div_cancel_right₀ _ hkpos.ne']
  · have hrest : 0 < t % k := Nat.pos_of_ne_zero (beq_eq_false_iff_ne.1 h)
    rw [hexp]
    constructor
    · refine mul_lt_mul_of_pos_right ((lt_div_iff₀ hkpos).2 ?_) hu
      rw [hdm]
      exact lt_add_of_pos_right _ (by exact_mod_cast hrest)
    · refine mul_lt_mul_of_pos_right ((div_lt_iff₀ hkpos).2 ?_) hu
      rw [hdm, add_one_mul]
      exact add_lt_add_right (by exact_mod_cast Nat.mod_lt t (Nat.pos_of_ne_zero hk)) _

/-- The bit-by-bit root is the whole part of the root, where it fits in its bits. -/
theorem isqrt_spec (x : Nat) : ∀ (n r : Nat), r * r ≤ x → x < (r + 2 ^ n) * (r + 2 ^ n) →
    isqrt x n r * isqrt x n r ≤ x ∧ x < (isqrt x n r + 1) * (isqrt x n r + 1)
  | 0, r, hlo, hhi => ⟨hlo, hhi⟩
  | n + 1, r, hlo, hhi => by
    rw [isqrt]
    split
    next hle => exact isqrt_spec x n _ hle (by rwa [Nat.add_assoc, ← Nat.two_mul, ← pow_succ'])
    next hgt => exact isqrt_spec x n r hlo (not_le.1 hgt)

/-- A finite positive number as a significand and an even exponent: the operand of the root. -/
theorem sqrt_fin {m : Nat} {e : Int} (hm : m ≠ 0) : ∃ k h, m ≤ k ∧ k ≤ 2 * m ∧
    (m : ℚ) * 2 ^ e = k * 2 ^ (2 * h) ∧ FVal.sqrt (.fin false m e) =
      (.fin false (2 * isqrt (k * 2 ^ 128) 96 0 +
        if (isqrt (k * 2 ^ 128) 96 0 * isqrt (k * 2 ^ 128) 96 0 == k * 2 ^ 128) = true then 0 else 1) (h - 65), 0) := by
  rcases Int.even_or_odd' e with ⟨h, rfl | rfl⟩
  · refine ⟨m, h, le_rfl, by omega, rfl, ?_⟩
    simp [FVal.sqrt, hm]
  · refine ⟨2 * m, h, by omega, le_rfl, ?_, ?_⟩
    · rw [zpow_add_one₀ two_ne_zero]
      push_cast
      ring
    · simp [FVal.sqrt, hm]

/-- R165: the root of a number of up to 53 bits is rounded once from the exact one. -/
theorem round_sqrt_rightly {f : FFmt} (hf : IsWide f) (hp : f.p ≤ 53) (mode : RMode) {m : Nat} {e : Int}
    (hm : m ≠ 0) (hm53 : m < 2 ^ 53) :
    (FVal.sqrt (.fin false m e)).2 = 0 ∧ rightly f mode false (Real.sqrt (valQ (.fin false m e)))
      (f.round mode (FVal.sqrt (.fin false m e)).1) := by
  obtain ⟨k, h, hmk, hkm, hval, hsqrt⟩ := sqrt_fin (e := e) hm
  rw [hsqrt, valQ_fin, withSign_false, hval]
  refine ⟨rfl, ?_⟩
  dsimp only
  have hlow : 2 ^ 128 ≤ k * 2 ^ 128 := Nat.le_mul_of_pos_left _ (by omega)
  have hhigh : k * 2 ^ 128 < 2 ^ 182 := by omega
  have hX : √(((k : ℚ) * 2 ^ (2 * h) : ℚ) : ℝ) = √((k * 2 ^ 128 : ℕ) : ℝ) * 2 ^ (h - 64) := by
    have hsq : (((k : ℚ) * 2 ^ (2 * h) : ℚ) : ℝ) = ((k * 2 ^ 128 : ℕ) : ℝ) * ((2 : ℝ) ^ (h - 64)) ^ 2 := by
      rw [← zpow_natCast, ← zpow_mul, show (h - 64) * ((2 : ℕ) : ℤ) = 2 * h - 128 by push_cast; ring,
        zpow_sub₀ two_ne_zero]
      push_cast
      field_simp
      norm_num
    rw [hsq, Real.sqrt_mul (Nat.cast_nonneg _), Real.sqrt_sq (zpow_pos two_pos _).le]
  rw [hX]
  generalize k * 2 ^ 128 = t at hlow hhigh ⊢
  have hfit : t < (0 + 2 ^ 96) * (0 + 2 ^ 96) := hhigh.trans_le (by norm_num)
  have h0 : 0 * 0 ≤ t := by rw [Nat.zero_mul]; exact Nat.zero_le t
  obtain ⟨hlo, hhi⟩ := isqrt_spec t 96 0 h0 hfit
  generalize isqrt t 96 0 = r at hlo hhi ⊢
  have hu : (0 : ℝ) < 2 ^ (h - 64) := zpow_pos two_pos _
  have hexp : h - 65 + 1 = h - 64 := by ring
  have hbits : 2 ^ f.p ≤ r := by
    have h64 : 2 ^ 64 * 2 ^ 64 < (r + 1) * (r + 1) := by omega
    have hr : 2 ^ 64 < r + 1 := Nat.mul_self_lt_mul_self_iff.1 h64
    exact (Nat.pow_le_pow_right two_pos hp).trans (by omega)
  have hr : (0 : ℝ) ≤ r := Nat.cast_nonneg r
  refine hf.round_rightly mode false (by have := Nat.two_pow_pos f.p; omega)
    (standsFor_sticky (fun heq => ?_) (fun hne => ?_) hbits)
  · rw [beq_iff_eq] at heq
    rw [hexp, ← heq, Nat.cast_mul, Real.sqrt_mul_self hr]
  · have hlt : r * r < t := lt_of_le_of_ne hlo (beq_eq_false_iff_ne.1 hne)
    rw [hexp]
    constructor
    · refine mul_lt_mul_of_pos_right (Real.lt_sqrt_of_sq_lt ?_) hu
      rw [pow_two]
      exact_mod_cast hlt
    · refine mul_lt_mul_of_pos_right ((Real.sqrt_lt' (by linarith)).2 ?_) hu
      rw [pow_two]
      exact_mod_cast hhi

end Sys2Proof.Proofs
end

section
/-! Exact values of the operations (O57): the sum of a dot product (06 R125, 08 R178), and the statement from its parts. -/

namespace Sys2Proof.Proofs

open Sys2Proof Sys2Proof.Machine Sys2Proof.Claims

theorem zero?_of_isFin {a : FVal} (h : isFin a = true) : a.zero? = if valQ a = 0 then some (signOf a) else none := by
  obtain ⟨n, m, e, rfl⟩ := exists_fin_of_isFin h
  simp only [valQ_fin_eq_zero_iff, signOf_fin]
  cases m with
  | zero => rfl
  | succ m => rfl

theorem zero?_beq_iff {a : FVal} (h : isFin a = true) : (a.zero? == some true) = true ↔ valQ a = 0 ∧ signOf a = true := by
  rw [zero?_of_isFin h]
  split
  next h0 => simp [h0]
  next h0 => simp [h0]

theorem sigIV_of_isFin {a : FVal} (h : isFin a = true) : a.sigIV = 0 := by
  obtain ⟨n, m, e, rfl⟩ := exists_fin_of_isFin h
  rfl

theorem ne_inf_of_isFin {a : FVal} (h : isFin a = true) (n : Bool) : FVal.inf n ≠ a := by
  rintro rfl
  exact Bool.false_ne_true h

/-- R178: the sum of a dot product is exact, and a zero is negative under RDN or where all its terms are. -/
theorem dot2_fin_spec (m : RMode) {a b c d e : FVal} (ha : isFin a = true) (hb : isFin b = true) (hc : isFin c = true)
    (hd : isFin d = true) (he : isFin e = true) :
    isFin (dot2 m a b c d e).1 = true ∧ valQ (dot2 m a b c d e).1 = valQ a * valQ b + valQ c * valQ d + valQ e ∧
    (dot2 m a b c d e).2 = 0 ∧
    (valQ (dot2 m a b c d e).1 = 0 → signOf (dot2 m a b c d e).1 =
      decide (m = .rdn ∨ (valQ a * valQ b = 0 ∧ valQ c * valQ d = 0 ∧ valQ e = 0 ∧
        (signOf a ^^ signOf b) = true ∧ (signOf c ^^ signOf d) = true ∧ signOf e = true))) := by
  obtain ⟨hp, hpv, hpf⟩ := mul_fin_spec ha hb
  obtain ⟨hq, hqv, hqf⟩ := mul_fin_spec hc hd
  obtain ⟨ht, htv, -, -⟩ := add_fin_spec .rne hp hq
  obtain ⟨hu, huv, -, -⟩ := add_fin_spec .rne ht he
  have hps := signOf_mul hp
  have hqs := signOf_mul hq
  have hvalue : valQ (((a.mul b).1.add .rne (c.mul d).1).1.add .rne e).1 = valQ a * valQ b + valQ c * valQ d + valQ e := by
    rw [huv, htv, hpv, hqv]
  have hinf : ∀ n, [(a.mul b).1, (c.mul d).1, e].contains (.inf n) = false := fun n => by
    simp [ne_inf_of_isFin hp, ne_inf_of_isFin hq, ne_inf_of_isFin he]
  have hneg : ((a.mul b).1.zero? == some true && (c.mul d).1.zero? == some true && e.zero? == some true) = true ↔
      valQ a * valQ b = 0 ∧ valQ c * valQ d = 0 ∧ valQ e = 0 ∧
        (signOf a ^^ signOf b) = true ∧ (signOf c ^^ signOf d) = true ∧ signOf e = true := by
    rw [Bool.and_eq_true, Bool.and_eq_true, zero?_beq_iff hp, zero?_beq_iff hq, zero?_beq_iff he, hpv, hqv, hps, hqs]
    tauto
  have hflags : (a.mul b).2 ||| (c.mul d).2 ||| e.sigIV ||| (if (([(a.mul b).1, (c.mul d).1, e].contains (.inf false) &&
      [(a.mul b).1, (c.mul d).1, e].contains (.inf true)) = true) then fIV else 0) = 0 := by
    rw [hpf, hqf, sigIV_of_isFin he, hinf, Bool.false_and]
    rfl
  simp only [dot2, hflags, zero?_of_isFin hu]
  by_cases h0 : valQ a * valQ b + valQ c * valQ d + valQ e = 0
  · rw [hvalue, if_pos h0]
    refine ⟨rfl, by rw [h0, valQ_fin_eq_zero_iff], rfl, fun _ => ?_⟩
    rw [signOf_fin, Bool.eq_iff_iff, Bool.or_eq_true, hneg, beq_iff_eq, decide_eq_true_iff]
  · rw [hvalue, if_neg h0]
    exact ⟨hu, hvalue, rfl, fun h => absurd (hvalue.symm.trans h) h0⟩

/-- The formats that divide and extract roots. -/
theorem isWide_of_mem_div {f : FFmt} (hf : f ∈ [fp64, fp32]) : IsWide f ∧ f.p ≤ 53 := by
  simp only [List.mem_cons, List.not_mem_nil, or_false] at hf
  rcases hf with rfl | rfl
  · exact ⟨isWide_of_mem (by simp [formats]), by decide⟩
  · exact ⟨isWide_of_mem (by simp [formats]), by decide⟩

/-- A finite operand of one of them has 53 bits or fewer. -/
theorem exists_operand {f : FFmt} (hf : f ∈ [fp64, fp32]) {p : Nat} (hp : finite f p) :
    ∃ n k e, f.decode p = .fin n k e ∧ k < 2 ^ 53 := by
  obtain ⟨hwide, h53⟩ := isWide_of_mem_div hf
  obtain ⟨n, k, e, hdec⟩ := exists_fin_of_isFin hp.2
  exact ⟨n, k, e, hdec, (hwide.lt_of_decode hdec).trans_le (Nat.pow_le_pow_right two_pos h53)⟩

theorem valQ_pos_iff {n : Bool} {m : Nat} {e : Int} : 0 < valQ (.fin n m e) ↔ n = false ∧ m ≠ 0 := by
  have hu := zpow_pos (two_pos (α := ℚ)) e
  rw [valQ_fin]
  cases n with
  | false => simp [hu, Nat.pos_iff_ne_zero]
  | true => simpa using mul_nonneg (Nat.cast_nonneg (α := ℚ) m) hu.le

theorem valQ_neg_iff {n : Bool} {m : Nat} {e : Int} : valQ (.fin n m e) < 0 ↔ n = true ∧ m ≠ 0 := by
  have hneg : valQ (.fin n m e) = - valQ (.fin (!n) m e) := by rw [← valQ_neg, FVal.neg, Bool.not_not]
  rw [hneg, neg_lt_zero, valQ_pos_iff, Bool.not_eq_false']

/-- R165: quotients, rounded once, and a divisor of zero. -/
theorem div_spec {f : FFmt} (hf : f ∈ [fp64, fp32]) (m : RMode) {p q : Nat} (hp : finite f p) (hq : finite f q) :
    (valQ (f.decode q) ≠ 0 → ((f.decode p).div (f.decode q)).2 = 0 ∧
      (valQ (f.decode p) ≠ 0 → rightly f m (signOf (f.decode p) ^^ signOf (f.decode q))
        (valQ (f.decode p) / valQ (f.decode q)) (f.round m ((f.decode p).div (f.decode q)).1)) ∧
      (valQ (f.decode p) = 0 → isFin ((f.decode p).div (f.decode q)).1 = true ∧
        valQ ((f.decode p).div (f.decode q)).1 = 0)) ∧
    (valQ (f.decode q) = 0 → (f.decode p).div (f.decode q) =
      if valQ (f.decode p) = 0 then (.nan false, fIV) else (.inf (signOf (f.decode p) ^^ signOf (f.decode q)), fDZ)) := by
  obtain ⟨x, k, e, hpd, -⟩ := exists_operand hf hp
  obtain ⟨y, l, g, hqd, hl53⟩ := exists_operand hf hq
  simp only [hpd, hqd, ne_eq, valQ_fin_eq_zero_iff, signOf_fin]
  obtain ⟨hwide, h53⟩ := isWide_of_mem_div hf
  refine ⟨fun hl => ⟨by rw [div_fin hl], fun hk => round_div_rightly hwide h53 m hk hl hl53, fun hk => ?_⟩, fun hl => ?_⟩
  · rw [div_fin hl, hk]
    exact ⟨rfl, by simp [valQ_fin_eq_zero_iff]⟩
  · simp only [FVal.div, hl, beq_self_eq_true, if_true, beq_iff_eq]

/-- R165: square roots, rounded once; zeros keep their sign, and what is below them is invalid. -/
theorem sqrt_spec {f : FFmt} (hf : f ∈ [fp64, fp32]) (m : RMode) {p : Nat} (hp : finite f p) :
    (0 < valQ (f.decode p) → (f.decode p).sqrt.2 = 0 ∧
      rightly f m false (Real.sqrt (valQ (f.decode p))) (f.round m (f.decode p).sqrt.1)) ∧
    (valQ (f.decode p) = 0 → isFin (f.decode p).sqrt.1 = true ∧ valQ (f.decode p).sqrt.1 = 0 ∧
      signOf (f.decode p).sqrt.1 = signOf (f.decode p) ∧ (f.decode p).sqrt.2 = 0) ∧
    (valQ (f.decode p) < 0 → (f.decode p).sqrt = (.nan false, fIV)) := by
  obtain ⟨hwide, h53⟩ := isWide_of_mem_div hf
  obtain ⟨n, k, e, hpd, hk53⟩ := exists_operand hf hp
  simp only [hpd, valQ_fin_eq_zero_iff, valQ_pos_iff, valQ_neg_iff]
  refine ⟨?_, ?_, ?_⟩
  · rintro ⟨rfl, hk⟩
    exact round_sqrt_rightly hwide h53 m hk hk53
  · rintro rfl
    exact ⟨rfl, valQ_fin_eq_zero_iff.2 rfl, rfl, rfl⟩
  · rintro ⟨rfl, hk⟩
    simp [FVal.sqrt, hk]

/-- Settles O57: each clause is one of the lemmas above. -/
theorem fpValues : Obligations.FpValues := by
  refine ⟨fun m a b ha hb => ?exact, fun f hf m b hb hnan => (isWide_of_mem hf).round_decode m hb hnan,
    fun f hf m v => ⟨(isWide_of_mem hf).isNan_decode_round m v, fun hv => ?canonical⟩, fun m a b h => ?nans,
    fun m a b ha hb => ?zeros, fun a b => ⟨signOf_mul, signOf_div⟩,
    fun f hf b hb => (isWide_of_mem hf).flip_eq_xor hb, fun f hf m p q hp hq => ?rounded,
    fun m a b c d e ha hb hc hd he => dot2_fin_spec m ha hb hc hd he⟩
  case exact =>
    obtain ⟨hadd, haddv, haddf, -⟩ := add_fin_spec m ha hb
    obtain ⟨hmul, hmulv, hmulf⟩ := mul_fin_spec ha hb
    exact ⟨hadd, haddv, haddf, hmul, hmulv, hmulf, valQ_neg a, valQ_scale a, lt_fin ha hb⟩
  case canonical =>
    obtain ⟨q, rfl⟩ := exists_nan_of_isNan hv
    rfl
  case nans =>
    obtain ⟨hadd, hmul, hdiv⟩ := nan_operand m h
    rw [hadd, hmul, hdiv]
    exact ⟨rfl, rfl, rfl, sigIV_or_eq_fIV_iff a b, rfl, rfl⟩
  case zeros =>
    obtain ⟨-, -, -, hsign⟩ := add_fin_spec m ha hb
    exact hsign
  case rounded =>
    obtain ⟨hdiv, hzero⟩ := div_spec hf m hp hq
    exact ⟨hdiv, hzero, sqrt_spec hf m hp⟩

end Sys2Proof.Proofs
end
